-- ==== Sys2Proof/Word.lean ====
section
/-!
DEFINITION. The word types of the W7140, and the small carriers whose size the manual fixes: a pair indexed by motor, and
a row of eight indexed by `Fin 8` (voices, end list entries, lamp outputs, repeat table entries).
-/
namespace Sys2Proof

/-- A byte of exchange memory (1.5). -/
abbrev Byte := BitVec 8

/-- A 16-bit field, register or tally (0.8). -/
abbrev Half := BitVec 16

/-- A 32-bit field or count (1.5). -/
abbrev Word := BitVec 32

/-- Traction motors A and B (0.6). -/
inductive Motor where
  | a
  | b
  deriving DecidableEq, Repr

/-- FORWARD and REVERSE (R24, R43). -/
inductive Direction where
  | forward
  | reverse
  deriving DecidableEq, Repr

/-- The level of a logic input pin. -/
inductive Level where
  | low
  | high
  deriving DecidableEq, Repr

/-- The two half-bridges of a motor's H-bridge, leg 1 and leg 2 (4.1). -/
inductive LegId where
  | leg1
  | leg2
  deriving DecidableEq, Repr

/-- One item kept once per motor. -/
structure PerMotor (α : Type) where
  a : α
  b : α
  deriving DecidableEq, Repr

/-- The item of motor `m`. -/
def PerMotor.get {α : Type} (p : PerMotor α) : Motor → α
  | .a => p.a
  | .b => p.b

/-- The pair with motor `m`'s item replaced. -/
def PerMotor.set {α : Type} (p : PerMotor α) (m : Motor) (x : α) : PerMotor α :=
  match m with
  | .a => { p with a := x }
  | .b => { p with b := x }

/-- The pair with a function applied to both items. -/
def PerMotor.map {α β : Type} (p : PerMotor α) (f : α → β) : PerMotor β :=
  ⟨f p.a, f p.b⟩

/-- The same item for both motors. -/
def PerMotor.both {α : Type} (x : α) : PerMotor α :=
  ⟨x, x⟩

/-- A row of eight items, indexed by `Fin 8`. -/
structure Octet (α : Type) where
  e0 : α
  e1 : α
  e2 : α
  e3 : α
  e4 : α
  e5 : α
  e6 : α
  e7 : α
  deriving DecidableEq, Repr

/-- Item `i` of the row. -/
def Octet.get {α : Type} (o : Octet α) (i : Fin 8) : α :=
  match i with
  | 0 => o.e0
  | 1 => o.e1
  | 2 => o.e2
  | 3 => o.e3
  | 4 => o.e4
  | 5 => o.e5
  | 6 => o.e6
  | 7 => o.e7

/-- The row with item `i` replaced. -/
def Octet.set {α : Type} (o : Octet α) (i : Fin 8) (x : α) : Octet α :=
  match i with
  | 0 => { o with e0 := x }
  | 1 => { o with e1 := x }
  | 2 => { o with e2 := x }
  | 3 => { o with e3 := x }
  | 4 => { o with e4 := x }
  | 5 => { o with e5 := x }
  | 6 => { o with e6 := x }
  | 7 => { o with e7 := x }

/-- The row with a function applied to each item. -/
def Octet.map {α β : Type} (o : Octet α) (f : α → β) : Octet β :=
  ⟨f o.e0, f o.e1, f o.e2, f o.e3, f o.e4, f o.e5, f o.e6, f o.e7⟩

/-- The row of a function of the index. -/
def Octet.ofFn {α : Type} (f : Fin 8 → α) : Octet α :=
  ⟨f 0, f 1, f 2, f 3, f 4, f 5, f 6, f 7⟩

/-- The same item eight times. -/
def Octet.rep {α : Type} (x : α) : Octet α :=
  ⟨x, x, x, x, x, x, x, x⟩

/-- The items in ascending index order. -/
def Octet.toList {α : Type} (o : Octet α) : List α :=
  [o.e0, o.e1, o.e2, o.e3, o.e4, o.e5, o.e6, o.e7]

/-- The eight indexes in ascending order. -/
def octetIndices : List (Fin 8) :=
  [0, 1, 2, 3, 4, 5, 6, 7]

/-- `clamp(x, lo, hi)` of 0.7 on integers. -/
def clampInt (x lo hi : Int) : Int :=
  max lo (min x hi)

/-- An integer limited to 0–`hi`, as a natural number (0.7's clamp with lower limit 0). -/
def clampNat (x : Int) (hi : Nat) : Nat :=
  (clampInt x 0 hi).toNat

end Sys2Proof
end

