-- ==== Sys2Proof/Syntax.lean ====
section
/-!
DEFINITION. The commands of the W7140: one constructor of `Instr` for each row of `spec/opcode_table.json`. The part has no
processor's instructions. Its commands are memory port transactions (from the host), edges of the radio link (from the
transceiver), conversions and levels of its sense pins, and the events of its own timers. An operand is what the command
brings with it from outside: an address, data, a sampled level, a converted reading.
-/
namespace Sys2Proof

/-- The lane count of a memory port transaction (R1, R2). -/
inductive Lanes where
  | one
  | four
  deriving DecidableEq, Repr

/-- One back-EMF conversion of R47 and R72: 0–1023 counts of 32 mV, and the direction of travel its polarity shows. -/
structure EmfReading where
  counts   : BitVec 10
  polarity : Direction
  deriving DecidableEq, Repr

/-- The four back-EMF conversions of one motor at one tick (R72 step 2). -/
structure EmfSet where
  c0 : EmfReading
  c1 : EmfReading
  c2 : EmfReading
  c3 : EmfReading
  deriving DecidableEq, Repr

/-- The commands, in the order of the opcode table. -/
inductive Instr where
  /-- READ_MEMORY (R2, R3): a 3-byte address and the number of data bytes taken. `late` gives, for each aligned word in
  turn, how many of its bytes fell due before its read grant was given (R3); a word it does not list had its grant in time. -/
  | readMemory (lanes : Lanes) (addr : BitVec 24) (n : Nat) (late : List Nat)
  /-- WRITE_MEMORY (R2, R3): a 3-byte address, the data bytes complete when MSEL rises, and the bits of an incomplete last
  byte. `delays` gives, for each write grant requested in turn, at how many further word boundaries it is still awaited. -/
  | writeMemory (lanes : Lanes) (addr : BitVec 24) (data : List Byte) (tailBits : Nat) (delays : List Nat)
  /-- READ_REGISTER (R2): the register number byte. -/
  | readRegister (lanes : Lanes) (reg : Byte)
  /-- PORT_COMMAND_INVALID (R2): the undefined command byte. -/
  | portCommandInvalid (cmd : Byte)
  /-- START (R7): a PCTL write of code 1; `upper` is bits 3–15 of the value, which are ignored. -/
  | start (upper : BitVec 13)
  /-- HALT_SOFT (R12): a PCTL write of code 2. -/
  | haltSoft (upper : BitVec 13)
  /-- HALT_HARD (R13): a PCTL write of code 3. -/
  | haltHard (upper : BitVec 13)
  /-- RESET (R23): a PCTL write of code 4. -/
  | reset (upper : BitVec 13)
  /-- PCTL_NO_COMMAND (R4): a PCTL write of code 0. -/
  | pctlNoCommand (upper : BitVec 13)
  /-- PCTL_RESERVED_COMMAND (R4): a PCTL write of a code 5 to 7. -/
  | pctlReservedCommand (code : BitVec 3) (upper : BitVec 13)
  /-- NLAT_WRITE (R5): the value written. -/
  | nlatWrite (value : Half)
  /-- NEN_WRITE (R4): the value written. -/
  | nenWrite (value : Half)
  /-- REGISTER_WRITE_IGNORED (R2, R4): a write to IDNT or above, or one that MSEL ended before its second data byte. -/
  | registerWriteIgnored (reg : Byte) (value : Half) (complete : Bool)
  /-- ARBITER_GRANT (R6). -/
  | arbiterGrant
  /-- POWER_ON_RESET (R22). -/
  | powerOnReset
  /-- MEMORY_CLEAR_DONE (R22, R23). -/
  | memoryClearDone
  /-- ADOPTION_GROUP_READ (R8). -/
  | adoptionGroupRead
  /-- SCAN_TIMER (R14). -/
  | scanTimer
  /-- SCAN_WORK_DEFERRED (R14). -/
  | scanWorkDeferred
  /-- AT_CHUFF_SLOT_TAKE (R15). -/
  | atChuffSlotTake
  /-- INBOX_WRITE (R20). -/
  | inboxWrite
  /-- BOARD_TIMER (R21). -/
  | boardTimer
  /-- BOARD_WRITE_DEFERRED (R21). -/
  | boardWriteDeferred
  /-- REGULATION_TIMER (R44). -/
  | regulationTimer
  /-- SETTLE_TIME_ELAPSED (R72). -/
  | settleTimeElapsed
  /-- TICK_COMPLETION (R47): the conversions of EMFA and of EMFB. -/
  | tickCompletion (emfA : EmfSet) (emfB : EmfSet)
  /-- TURN_TIMEOUT (R56). -/
  | turnTimeout
  /-- PWM_PERIOD_START (R69): the common period start of both channels. -/
  | pwmPeriodStart
  /-- DEAD_TIME_ELAPSED (R70): the dead time of a half-bridge has passed. -/
  | deadTimeElapsed (m : Motor) (leg : LegId)
  /-- CURRENT_SAMPLE (R74): the counts of 8 mA on ISA or ISB, and the direction of the current. -/
  | currentSample (m : Motor) (counts : BitVec 10) (flow : Direction)
  /-- CBC_LIMIT (R75): the limit comparator of a motor. -/
  | cbcLimit (m : Motor)
  /-- SHORT_DETECTED (R77): the short comparator of a motor. -/
  | shortDetected (m : Motor)
  /-- DRVFLT_QUALIFIED (R78): the level of three consecutive equal samples. -/
  | drvfltQualified (level : Level)
  /-- AXS_SAMPLE (R86): the sampled level of AXS. -/
  | axsSample (level : Level)
  /-- LOST_TIMER_EXPIRY (R90). -/
  | lostTimerExpiry
  /-- OUTPUT_SAMPLE_TIMER (R106). -/
  | outputSampleTimer
  /-- CARRIER_PERIOD_START (R114). -/
  | carrierPeriodStart
  /-- START_BEGIN (R101). -/
  | startBegin
  /-- START_DECIDED (R101). -/
  | startDecided
  /-- SQUEAL_CHECK (R130). -/
  | squealCheck
  /-- SMOKE_TIMER (R134): the code converted from THM. -/
  | smokeTimer (code : BitVec 10)
  /-- KICK_END (R142). -/
  | kickEnd
  /-- PUFF_END (R143). -/
  | puffEnd
  /-- EFFECT_TIMER (R151). -/
  | effectTimer
  /-- FRAME_BEGIN (R159): a rising edge of RFRAME, at a time in µs. -/
  | frameBegin (time : Nat)
  /-- FRAME_ARRIVAL (R160): a falling edge of RFRAME at a time in µs, the bits clocked in since the rising edge, and the
  first 32 whole bytes of them. -/
  | frameArrival (time : Nat) (bits : Nat) (bytes : List Byte)
  /-- FAILSAFE_EXPIRY (R167). -/
  | failsafeExpiry
  /-- SUPPLY_TIMER (R174): VSEN and HSEN in mV. -/
  | supplyTimer (vsen : Nat) (hsen : Nat)
  /-- HOLDUP_TIMER_EXPIRY (R175). -/
  | holdupTimerExpiry
  /-- SHARE_TIMER (R178). -/
  | shareTimer
  /-- LAMP_PWM_PERIOD_START (R155): the lamp output. -/
  | lampPwmPeriodStart (k : Fin 8)
  deriving DecidableEq, Repr

end Sys2Proof
end

