-- ==== Sys2Proof/Decode.lean ====
section
/-!
DEFINITION. The command that a memory port transaction stands for, from the bytes that the host clocks in (R2) and the value of a
register write (R4, R5); and the command that a word spells by the bits of `spec/opcode_table.json`. No row of this hardware's
table gives bits ("n_rows_with_fixed": 0 in `spec/98_reader.md`), so no word spells a command.
-/
namespace Sys2Proof

/-! ### The command byte (R2) -/

/-- The four transactions of the memory port (R2). -/
inductive PortOp where
  | readMemory
  | writeMemory
  | readRegister
  | writeRegister
  deriving DecidableEq, Repr

/-- The transaction that the upper four bits of a command byte select (R2). -/
def portOpOf (cmd : Byte) : Option PortOp :=
  match cmd.toNat / 16 with
  | 0xA => some .readMemory
  | 0xB => some .writeMemory
  | 0xC => some .readRegister
  | 0xD => some .writeRegister
  | _ => none

/-- The lane count that the lower four bits of a command byte select (R2). -/
def lanesOf (cmd : Byte) : Option Lanes :=
  match cmd.toNat % 16 with
  | 0x1 => some .one
  | 0x4 => some .four
  | _ => none

/-! ### Register writes (R2, R4, R5) -/

/-- The command of a write to PCTL: its code stands in bits 0–2, and bits 3–15 are ignored (R4). -/
def pctlCommand (value : Half) : Instr :=
  let code : BitVec 3 := value.extractLsb' 0 3
  let upper : BitVec 13 := value.extractLsb' 3 13
  if code = 0 then .pctlNoCommand upper
  else if code = 1 then .start upper
  else if code = 2 then .haltSoft upper
  else if code = 3 then .haltHard upper
  else if code = 4 then .reset upper
  else .pctlReservedCommand code upper

/-- The command of a complete register write: registers 0 to 3 are PCTL, NLAT, NEN and IDNT, and a write to IDNT or to a higher
number is dropped (R2, R4). -/
def registerWrite (reg : Byte) (value : Half) : Instr :=
  if reg = 0 then pctlCommand value
  else if reg = 1 then .nlatWrite value
  else if reg = 2 then .nenWrite value
  else .registerWriteIgnored reg value true

/-! ### Transactions -/

/-- A memory port transaction as the host drives it between the edges of MSEL: the bytes it clocks in, the command byte first,
the bits of an incomplete last byte, and the data bytes it clocks out; and, for the grants that R6 gives the port, how late they
are (the operands of READ_MEMORY and WRITE_MEMORY, log entry 8). -/
structure Transaction where
  bytes    : List Byte
  tailBits : Nat := 0
  out      : Nat := 0
  late     : List Nat := []
  delays   : List Nat := []
  deriving DecidableEq, Repr

/-- Three address bytes, the most significant first (R2). -/
def addressOf (a2 a1 a0 : Byte) : BitVec 24 := (a2 ++ a1) ++ a0

/-- What follows the command byte of one of the four transactions (R2). A transaction that MSEL ends before its address or its
register number is complete is no command; a register write that it ends before the second data byte is dropped.
(DEDUCED, log entry 42) Bytes clocked in behind the two data bytes of a register write, behind the address of a memory read, or behind
a register number to be read change nothing. (DESIGN CHOICE, log entry 49) -/
def PortOp.command (op : PortOp) (lanes : Lanes) (rest : List Byte) (t : Transaction) : Option Instr :=
  match op, rest with
  | .readMemory, a2 :: a1 :: a0 :: _ => some (.readMemory lanes (addressOf a2 a1 a0) t.out t.late)
  | .writeMemory, a2 :: a1 :: a0 :: data => some (.writeMemory lanes (addressOf a2 a1 a0) data t.tailBits t.delays)
  | .readRegister, reg :: _ => some (.readRegister lanes reg)
  | .writeRegister, reg :: lo :: hi :: _ => some (registerWrite reg (hi ++ lo))
  | .writeRegister, [reg, lo] => some (.registerWriteIgnored reg (lo.setWidth 16) false)
  | .writeRegister, [reg] => some (.registerWriteIgnored reg 0 false)
  | _, _ => none

/-- The command of a memory port transaction (R2): a command byte that the two tables do not define makes the port ignore the rest. -/
def Transaction.command (t : Transaction) : Option Instr :=
  match t.bytes with
  | [] => none
  | cmd :: rest =>
    match portOpOf cmd, lanesOf cmd with
    | some op, some lanes => op.command lanes rest t
    | _, _ => some (.portCommandInvalid cmd)

/-! ### Words of the opcode table -/

/-- The command spelled by an `nbits`-bit word `w`: none, for the table gives no row any bits. (DESIGN CHOICE, log entry 1) -/
def decodeTableWord (_nbits _w : Nat) : Option Instr :=
  none

end Sys2Proof
end

