-- ==== Sys2Proof/Config.lean ====
section
/-!
DEFINITION. The free values: what the manual leaves unstated although the part goes on. Each is a constant without a body,
applied to a counter of State, so that nothing about it can be proved.
-/
namespace Sys2Proof

/-- What the bits of PCTL that 1.3 and 1.5 do not list read as (bits 5–7 and 11–15), at the `n`-th use of a free value. -/
opaque Config.pctlUnlisted : Nat → Half

/-- What bit 15 of NLAT, which 1.5 does not list, reads as, at the `n`-th use of a free value. -/
opaque Config.nlatUnlisted : Nat → Half

end Sys2Proof
end

