-- ==== Sys2Proof/Machine/Groups.lean ====
section
/-!
DEFINITION. The nine configuration groups as the blocks hold them once validated (1.5's group map): R64, R67, R27, R38,
R117, R96, R145, R148, R171, R179. `Groups.none` is the state in which no group is active.
-/
namespace Sys2Proof.Machine

/-- What a bridge does in a part of a PWM period without an on interval: R67's off-time style and limit off action. -/
inductive OffStyle where
  /-- all four switches off -/
  | coast
  /-- both low switches on -/
  | brake
  deriving DecidableEq, Repr

/-- TRACTION, group 1: SRG's parameters 0–13 (R64) and BFU's 14–25 (R67). -/
structure Traction where
  motors     : Nat := 0
  treg       : Nat := 0
  accel      : Nat := 0
  decel      : Nat := 0
  emergency  : Nat := 0
  kc         : Nat := 0
  kff        : Nat := 0
  kp         : Nat := 0
  ki         : Nat := 0
  dmax       : Nat := 0
  standstill : Nat := 0
  t1         : Nat := 0
  t2         : Nat := 0
  t3         : Nat := 0
  pwmFreq    : Nat := 0
  deadTime   : Nat := 0
  offStyle   : OffStyle := .coast
  settle     : Nat := 0
  limit      : Nat := 0
  limitOff   : OffStyle := .coast
  short      : Nat := 0
  persist    : Nat := 0
  polarity   : Level := .low
  slipThresh : Nat := 0
  slipTicks  : Nat := 0
  slipCut    : Nat := 0
  deriving DecidableEq, Repr

/-- A target of the function map (R38). -/
inductive Target where
  | smoke
  | shunt
  | momentumOff
  | mute
  | soundKey (k : Nat)
  deriving DecidableEq, Repr

/-- ONESHOT and HOLD (R117). -/
inductive KeyMode where
  | oneshot
  | hold
  deriving DecidableEq, Repr

/-- A sound key (R117): `clip` is `none` for the value 255. -/
structure Key where
  clip     : Option Nat := none
  priority : Nat := 0
  volume   : Nat := 0
  mode     : KeyMode := .oneshot
  deriving DecidableEq, Repr

/-- SOUND, group 4 (R117). -/
structure Sound where
  master      : Nat := 0
  bgClip      : Option Nat := none
  bgVolume    : Nat := 0
  sqClip      : Option Nat := none
  sqPriority  : Nat := 0
  sqVolume    : Nat := 0
  sqLow       : Nat := 0
  sqHigh      : Nat := 0
  keys        : List Key := []
  chuffVolume : List Nat := []
  sets        : List (List Nat) := []
  deriving DecidableEq, Repr

/-- SENSOR, VIRTUAL and AUTO (R96). -/
inductive SourceMode where
  | sensor
  | virtual
  | auto
  deriving DecidableEq, Repr

/-- The edge selection (R87). -/
inductive EdgeSelect where
  | rising
  | falling
  | both
  deriving DecidableEq, Repr

/-- CHUFF, group 5 (R96). -/
structure Chuff where
  mode      : SourceMode := .virtual
  qualifier : Nat := 0
  edge      : EdgeSelect := .rising
  prescale  : Nat := 0
  kcam      : Nat := 0
  lostTime  : Nat := 0
  moving    : Nat := 0
  perCycle  : Nat := 0
  deriving DecidableEq, Repr

/-- SMOKE, group 6 (R145). -/
structure Smoke where
  keepWarm : Bool := false
  tWarm    : Int := 0
  tVapor   : Int := 0
  tSet     : Int := 0
  tMax     : Int := 0
  gain     : Nat := 0
  capacity : Nat := 0
  idle     : Nat := 0
  kick     : Nat := 0
  puffMax  : Nat := 0
  base     : Nat := 0
  step     : Int := 0
  points   : List (Nat × Int) := []
  deriving DecidableEq, Repr

/-- A direction condition of a light program (R148). -/
inductive DirCond where
  | any
  | forward
  | reverse
  deriving DecidableEq, Repr

/-- A motion condition of a light program (R148). -/
inductive MotionCond where
  | any
  | standingOnly
  | movingOnly
  deriving DecidableEq, Repr

/-- The six effects with their parameters a and b (R148). -/
inductive Effect where
  | steady
  | blink (period onTime : Nat)
  | alternate (partner : Fin 8) (period : Nat)
  | flicker (low : Nat)
  | fade (rise fall : Nat)
  | chuffFlash (low flash : Nat)
  deriving DecidableEq, Repr

/-- One light program (R148): `binding` is `none` for ALWAYS, `dim` is `none` for no dim function. -/
structure Program where
  binding  : Option Nat := none
  dirCond  : DirCond := .any
  motion   : MotionCond := .any
  effect   : Effect := .steady
  level    : Nat := 0
  dim      : Option Nat := none
  dimLevel : Nat := 0
  deriving DecidableEq, Repr

/-- The rights of a bind entry (R171). -/
inductive Rights where
  | drive
  | functions
  | stopOnly
  deriving DecidableEq, Repr

/-- RADIO, group 8 (R171): `binds` lists the non-empty bind entries. -/
structure Radio where
  unit         : Nat := 0
  group        : Nat := 0
  groupReverse : Bool := false
  hostLead     : Bool := false
  failsafe     : Nat := 0
  binds        : List (Half × Rights) := []
  deriving DecidableEq, Repr

/-- POWER, group 9 (R179). -/
structure Power where
  vLean      : Nat := 0
  vOff       : Nat := 0
  vOn        : Nat := 0
  qualifier  : Nat := 0
  holdTime   : Nat := 0
  vhMin      : Nat := 0
  holdDmax   : Nat := 0
  leanCap    : Nat := 0
  holdCap    : Nat := 0
  holdLamp   : Nat := 0
  budget     : Nat := 0
  reserve    : Nat := 0
  heaterNom  : Nat := 0
  deriving DecidableEq, Repr

/-- The values of all nine groups: `curve` is P0–P10 (R27), `map` the target list of each function (R38). -/
structure Groups where
  traction : Traction := {}
  curve    : List Nat := []
  map      : List (List Target) := []
  sound    : Sound := {}
  chuff    : Chuff := {}
  smoke    : Smoke := {}
  lights   : Octet Program := Octet.rep {}
  radio    : Radio := {}
  power    : Power := {}
  deriving DecidableEq, Repr

/-- No group active: no motor, no curve, every function's list empty, no key, no program (R27, R38, R117, R147).
(DESIGN CHOICE, log entry 36) -/
def Groups.none : Groups := {}

/-- The reason of a refused group (R8, 1.5). -/
inductive GroupReason where
  | outOfRange
  | notMonotonic
  | inconsistent
  | duplicate
  deriving DecidableEq, Repr

/-- What a block reports of a group it has checked (R8). -/
inductive Verdict where
  /-- the first failing parameter's index and the reason -/
  | refused (index : Nat) (reason : GroupReason)
  /-- all groups' values, with the checked group's replaced -/
  | valid (g : Groups)
  deriving DecidableEq, Repr

end Sys2Proof.Machine
end

