-- ==== Sys2Proof/Machine/State.lean ====
section
/-!
DEFINITION. The state of the W7140 as plain data, block by block (0.3), the reasons a step can stop, and the state after
power-on reset (R22, with each block's table of reset values).
-/
namespace Sys2Proof.Machine

/-- The part states (1.6); the code of each is its place, IDLE 0 to HALTED 4. -/
inductive PartState where
  | idle
  | adopting
  | running
  | stopping
  | halted
  deriving DecidableEq, Repr

/-- The result of the last PCTL command (R4). -/
inductive CmdResult where
  | accepted
  | refused
  deriving DecidableEq, Repr

/-- The drive slot state of directory byte 0x16 (1.5). -/
inductive SlotState where
  | empty
  | pending
  | taken
  | refused
  deriving DecidableEq, Repr

/-- The reason byte of a cue record (1.5). -/
inductive CueReason where
  | none
  | notPosted
  | badKind
  | inactive
  | badGroup
  | notStanding
  | badConfig
  | badParam
  | badTag
  | noVoice
  | badClip
  deriving DecidableEq, Repr

/-- The verdicts of an inbox record (1.5). -/
inductive FrameVerdict where
  | acted
  | forHost
  | hostGated
  | inactive
  | notForBroadcast
  | notBound
  | noRight
  | notHolder
  | unknownKind
  | badPayload
  deriving DecidableEq, Repr

/-- The two writers of arbiter class 3 (R6). -/
inductive Class3 where
  | board
  | inbox
  deriving DecidableEq, Repr

/-- The outcome SND hands back for a start request (6.4). -/
inductive StartOutcome where
  | started (voice : Fin 8)
  | refused (reason : CueReason)
  | withdrawn
  deriving DecidableEq, Repr

/-- The two assembly buffers of RRX (R159). -/
inductive BufferId where
  | one
  | two
  deriving DecidableEq, Repr

/-- One inbox record (1.5, R170). `payload` holds the payload bytes as received. -/
structure InboxRecord where
  verdict : FrameVerdict
  kind    : Byte
  sender  : Half
  seq     : Byte
  length  : Nat
  target  : Half
  time    : Word
  signal  : Byte
  payload : List Byte
  deriving DecidableEq, Repr

/-- A judged frame waiting for the inbox writer, with the assembly buffer it keeps busy (R159, R170). -/
structure InboxJob where
  record : InboxRecord
  buffer : BufferId
  deriving DecidableEq, Repr

/-- The inbox writer's progress with the frame at the head of its queue: the put − seen difference once the seen tally has
been read, and the record words written so far (R20). -/
structure InboxProgress where
  ahead : Option Nat := none
  words : Nat := 0
  deriving DecidableEq, Repr

/-- Scan work that waits for the outcome of a PLAY cue's start (R119): the kind byte as read, the records still to be taken
in this scan after it, and the outcome once SND has handed it back. -/
structure ScanWork where
  kind    : Byte
  left    : Nat
  outcome : Option StartOutcome := none
  deriving DecidableEq, Repr

/-- Adoption in progress (R8): the state it began in, the group being read (1–9), the words of it read so far, and the
groups found valid, held as pending values. -/
structure Adoption where
  fromHalted : Bool
  group      : Nat
  words      : List Word
  values     : Groups
  deriving DecidableEq, Repr

/-- The exchange controller (1.1). -/
structure Exc where
  part       : PartState := .idle
  clearing   : Bool := false
  lastCmd    : BitVec 3 := 0
  lastResult : CmdResult := .accepted
  /-- the notice latch, bits 0–14 (R5) -/
  nlat       : BitVec 15 := 0
  /-- the notice enable, bits 0–14 (R4) -/
  nen        : BitVec 15 := 0
  ms         : Word := 0
  lastTaken  : Byte := 0
  slotState  : SlotState := .empty
  /-- the take moment and the emergency field read at the latest scan that found a post (R15) -/
  slotMoment    : Byte := 0
  slotEmergency : Byte := 0
  /-- a chuff event has reached EXC whose AT_CHUFF take is still to be made (R15) -/
  chuffHeld  : Bool := false
  cueTake    : Half := 0
  inboxPut   : Half := 0
  boardGen   : Word := 0
  /-- the next word of the board write in progress: 0 the odd generation, 1–255 the fields, 256 the even generation (R21) -/
  board      : Option Nat := none
  boardHeld  : Bool := false
  scan       : Option ScanWork := none
  scanHeld   : Bool := false
  inboxQueue : List InboxJob := []
  inboxStep  : InboxProgress := {}
  /-- the class 3 writer granted last, kept from the first contention after a reset on (R6) -/
  class3Last : Option Class3 := none
  adoption   : Option Adoption := none
  deriving DecidableEq, Repr

/-- The memory port (1.2): the bytes shifted out by the latest transaction that was no write, whether its outputs stayed
high-impedance for an undefined command byte, and a write grant requested and still awaited, as the bytes it changes. -/
structure Port where
  out      : List Byte := []
  hiZ      : Bool := false
  awaiting : Option (List Host.Cell) := none
  deriving DecidableEq, Repr

/-- The source of the drive request (R24). -/
inductive Source where
  | none
  | radio
  | host
  | failsafe
  deriving DecidableEq, Repr

/-- The origin of the drive request: form and value; the origin of the other form is absent (R24). -/
inductive Origin where
  | throttle (t : Nat)
  | speedUnits (su : Nat)
  deriving DecidableEq, Repr

/-- The drive request unit (R24, R36, R39). -/
structure Drq where
  source      : Source := .none
  dir         : Direction := .forward
  origin      : Origin := .speedUnits 0
  s           : Nat := 0
  shunt       : Bool := false
  momentumOff : Bool := false
  functions   : BitVec 32 := 0
  smokeEnable : Bool := false
  mute        : Bool := false
  deriving DecidableEq, Repr

/-- The traction states (3.2). -/
inductive TractionState where
  | standing
  | moving
  | turning
  | eBrake
  | eHeld
  | tripped
  deriving DecidableEq, Repr

/-- The saturation flag of a motor's integral, −1, 0 or +1 (R52). -/
inductive Sat where
  | minus
  | zero
  | plus
  deriving DecidableEq, Repr

/-- What SRG keeps once per motor (R43). -/
structure SrgMotor where
  vf  : Nat := 0
  i   : Int := 0
  sat : Sat := .zero
  d   : Nat := 0
  deriving DecidableEq, Repr

/-- A regulation tick in progress: the parameters it began with (R44, R65), the bridge direction handed at its start (R72),
and whether its ramp brought R to 0 in TURNING (R54). -/
structure Tick where
  cfg      : Traction
  dir      : Direction
  turnZero : Bool
  deriving DecidableEq, Repr

/-- The speed regulator (R43). -/
structure Srg where
  traction   : TractionState := .standing
  bridgeDir  : Direction := .forward
  r          : Nat := 0
  motors     : PerMotor SrgMotor := PerMotor.both {}
  vl         : Nat := 0
  labour     : Nat := 0
  band       : Nat := 0
  /-- the turn timer's remaining ms, `none` while stopped (R54) -/
  turnTimer  : Option Nat := none
  turnMark   : Bool := false
  regTimer   : Bool := false
  tick       : Option Tick := none
  brakeOrder : Bool := false
  deriving DecidableEq, Repr

/-- The channel modes (4.3). -/
inductive Mode where
  | off
  | drive
  | brake
  | float
  deriving DecidableEq, Repr

/-- The high and the low switch of a half-bridge. -/
inductive Switch where
  | high
  | low
  deriving DecidableEq, Repr

/-- One half-bridge: which switch conducts, the remaining dead time (in 50 ns) before each may turn on, and a turn-on
delayed until its dead time has passed (R70). -/
structure Leg where
  high     : Bool := false
  low      : Bool := false
  deadHigh : Nat := 0
  deadLow  : Nat := 0
  delayed  : Option Switch := none
  deriving DecidableEq, Repr

/-- Where a PWM period stands with its one on interval (R69, R71, R75). -/
inductive PeriodPhase where
  /-- the on interval is still to come -/
  | before
  /-- in the on interval -/
  | on
  /-- the on interval is over; the off-time style follows -/
  | after
  /-- the limit comparator ended the on interval; the limit off action follows -/
  | limited
  deriving DecidableEq, Repr

/-- What BFU keeps once per motor (R66). -/
structure Channel where
  mode    : Mode := .off
  /-- the PWM counter, in 50 ns from the period start; `none` while stopped -/
  pos     : Option Nat := none
  duty    : Nat := 0
  /-- a raised duty waiting for the next period start (R71) -/
  raised  : Option Nat := none
  dir     : Direction := .forward
  avg     : Nat := 0
  sum     : Nat := 0
  count   : Nat := 0
  cbcMark : Bool := false
  persist : Nat := 0
  phase   : PeriodPhase := .before
  /-- a float window has overlapped the present period (R72) -/
  overlap : Bool := false
  /-- the current sample taken in the present period -/
  periodSample : Option Nat := none
  /-- the present period set a CBC mark that was clear (R72, R75) -/
  periodCbc    : Bool := false
  leg1    : Leg := {}
  leg2    : Leg := {}
  deriving DecidableEq, Repr

/-- The steps of a float window (R72). -/
inductive WindowPhase where
  | settling
  | converting
  | ending
  deriving DecidableEq, Repr

/-- An open float window, with the direction a settled flip gives the channels at its end. -/
structure Window where
  phase : WindowPhase
  flip  : Option Direction
  deriving DecidableEq, Repr

/-- The trip reasons (R66). -/
inductive TripReason where
  | none
  | shortA
  | shortB
  | stallA
  | stallB
  | driver
  deriving DecidableEq, Repr

/-- The slip states (R66). -/
inductive SlipState where
  | normal
  | slipping
  deriving DecidableEq, Repr

/-- The bridge and fault unit (R66). -/
structure Bfu where
  chans   : PerMotor Channel := PerMotor.both {}
  window  : Option Window := none
  trip    : TripReason := .none
  /-- the qualified DRVFLT level, `none` until qualified (R66, R78) -/
  drvflt  : Option Level := none
  slip    : SlipState := .normal
  slipRun : Nat := 0
  faster  : Option Motor := none
  deriving DecidableEq, Repr

/-- The chuff source states (R85). -/
inductive SourceState where
  | sensorLive
  | sensorLost
  | virtual
  deriving DecidableEq, Repr

/-- The chuff clock (R85). -/
structure Chk where
  /-- the qualified level, `none` for undetermined -/
  level      : Option Level := none
  /-- the previous AXS sample, which an undetermined qualifier compares with (R86) -/
  previous   : Option Level := none
  run        : Nat := 0
  prescale   : Nat := 0
  capture    : Option Nat := none
  lastSensor : Nat := 0
  lostTimer  : Option Nat := none
  source     : SourceState := .virtual
  acc        : Nat := 65535
  next       : Nat := 0
  interval   : Nat := 0
  first      : Bool := true
  lastChuff  : Nat := 0
  count      : Word := 0
  deriving DecidableEq, Repr

/-- The voice states (R99). -/
inductive VoiceState where
  | free
  | playing
  | looping
  | released
  deriving DecidableEq, Repr

/-- A clip descriptor as read (6.2). -/
structure Clip where
  start     : Nat := 0
  length    : Nat := 0
  loopStart : Nat := 0
  loopEnd   : Nat := 0
  gain      : Nat := 0
  deriving DecidableEq, Repr

/-- A voice record (R99). -/
structure Voice where
  state    : VoiceState := .free
  clip     : Nat := 0
  copy     : Clip := {}
  pos      : Nat := 0
  pitch    : Nat := 0
  volume   : Nat := 0
  priority : Nat := 0
  tag      : Half := 0
  deriving DecidableEq, Repr

/-- The classes of start requests (6.4). -/
inductive StartClass where
  | chuff
  | background
  | pool
  deriving DecidableEq, Repr

/-- Who asked for a start, and so who is handed the outcome (7.1). -/
inductive Requester where
  | playCue
  | key
  | squeal
  | chuff
  | background
  deriving DecidableEq, Repr

/-- A start request (6.4), with the release mark of R108. -/
structure StartReq where
  cls      : StartClass
  asker    : Requester
  clip     : Nat
  pitch    : Nat
  volume   : Nat
  priority : Nat
  tag      : Half
  loop     : Bool
  mark     : Bool := false
  deriving DecidableEq, Repr

/-- A start in progress (R101): its request, the descriptor words read so far, and whether a shedding since its beginning
refuses it at its decision (R115). -/
structure StartWork where
  req    : StartReq
  words  : List Word := []
  doomed : Bool := false
  deriving DecidableEq, Repr

/-- The reasons a voice ends (R110). -/
inductive EndReason where
  | none
  | playedOut
  | cut
  | stolen
  | shed
  deriving DecidableEq, Repr

/-- An end record (R111). -/
structure EndRecord where
  tag    : Half := 0
  reason : EndReason := .none
  voice  : Nat := 0
  deriving DecidableEq, Repr

/-- The squeal states (R129). -/
inductive SquealState where
  | silent
  | sounding
  | spent
  deriving DecidableEq, Repr

/-- The sound engine (6.1). -/
structure Snd where
  voices   : Octet Voice := Octet.rep {}
  /-- the start order list of the pool, oldest first (R100) -/
  order    : List (Fin 8) := []
  queue    : List StartReq := []
  current  : Option StartWork := none
  endList  : Octet EndRecord := Octet.rep {}
  endCount : Word := 0
  master   : Nat := 0
  cap      : Nat := 0
  mute     : Bool := false
  /-- the output value formed at the previous expiry (R106) -/
  out      : Int := 0
  /-- the class-D modulator runs (R114) -/
  modOn    : Bool := false
  /-- the output value handed to the modulator, and the one its present carrier period uses (R114) -/
  modIn    : Int := 0
  modNow   : Int := 0
  squeal   : SquealState := .silent
  squealCount : Nat := 0
  /-- a squeal check has fallen due that is still to be made (R129) -/
  squealDue : Bool := false
  deriving DecidableEq, Repr

/-- The smoke states (R133). -/
inductive SmokeState where
  | off
  | warming
  | ready
  | dry
  | hot
  | sensorFault
  | shed
  deriving DecidableEq, Repr

/-- The temperature target that R136 gives with the state. -/
inductive SmokeTarget where
  | none
  | warm
  | set
  deriving DecidableEq, Repr

/-- A running puff (R133, R142): its chuff moment on the millisecond count, its lengths in ms, its duty, and whether its
kick is over. -/
structure Puff where
  moment   : Word
  kick     : Nat
  length   : Nat
  duty     : Nat
  kickOver : Bool
  deriving DecidableEq, Repr

/-- The smoke unit (R133). -/
structure Smk where
  state  : SmokeState := .off
  target : SmokeTarget := .none
  timer  : Bool := false
  temp   : Int := 0
  fault  : Bool := false
  hot    : Bool := false
  heater : Nat := 0
  hlim   : Nat := 0
  enable : Bool := false
  fluid  : Nat := 0
  fan    : Nat := 0
  puff   : Option Puff := none
  deriving DecidableEq, Repr

/-- What LGT keeps once per output (R147), and the level its PWM drives in the present 2 ms period (R155). -/
structure Lamp where
  active  : Bool := false
  dimmed  : Bool := false
  phase   : Nat := 0
  fade    : Nat := 0
  flash   : Nat := 0
  program : Nat := 0
  level   : Nat := 0
  pwm     : Nat := 0
  deriving DecidableEq, Repr

/-- The light unit (R147). -/
structure Lgt where
  timer : Bool := false
  lfsr  : BitVec 16 := 0xACE1
  lamps : Octet Lamp := Octet.rep {}
  /-- the lamp cap as last recomputed (R155, R156) -/
  cap   : Nat := 0
  deriving DecidableEq, Repr

/-- An entry of the repeat table (R163). -/
structure RepeatEntry where
  sender : Half
  seq    : Byte
  heard  : Word
  deriving DecidableEq, Repr

/-- A frame between its RFRAME edges: in an assembly buffer, or marked for OVERRUN (R159). -/
inductive FrameInFlight where
  | stored (b : BufferId)
  | overrun
  deriving DecidableEq, Repr

/-- The last discard reason (1.5). -/
inductive Discard where
  | none
  | runt
  | long
  | overrun
  | length
  | check
  deriving DecidableEq, Repr

/-- The holder and its last-heard time (R166). -/
structure Holder where
  id    : Half
  heard : Word
  deriving DecidableEq, Repr

/-- The radio receiver (10.1). -/
structure Rrx where
  link     : Bool := false
  /-- the time of the link's previous falling edge, in µs (R159) -/
  lastEnd  : Option Nat := none
  frame    : Option FrameInFlight := none
  /-- the assembly buffers: `none` free, otherwise busy with the bytes stored (R159) -/
  buf1     : Option (List Byte) := none
  buf2     : Option (List Byte) := none
  table    : Octet (Option RepeatEntry) := Octet.rep none
  holder   : Option Holder := none
  /-- the failsafe timer's remaining ms, `none` while stopped (R167) -/
  failsafe : Option Nat := none
  signal   : Byte := 0
  discard  : Discard := .none
  deriving DecidableEq, Repr

/-- The supply states (R173). -/
inductive Supply where
  | normal
  | lean
  | holdup
  | dark
  deriving DecidableEq, Repr

/-- The supply monitor (R173). -/
structure Sup where
  state   : Supply := .dark
  vs      : Nat := 0
  vh      : Nat := 0
  lean    : Nat := 0
  recover : Nat := 0
  loss    : Nat := 0
  ret     : Nat := 0
  /-- the hold-up timer's remaining ms, `none` while stopped -/
  holdup  : Option Nat := none
  share   : Bool := false
  hlim    : Nat := 0
  deriving DecidableEq, Repr

/-- Exchange memory: the bytes that are not 0, by strictly rising address. Power-on reset writes every byte to 0 (R22), so an
unlisted address reads 0. -/
abbrev Memory := List Host.Cell

/-- The state of the part, with the queue of the commands that are waiting. -/
structure State where
  exc  : Exc := {}
  port : Port := {}
  drq  : Drq := {}
  srg  : Srg := {}
  bfu  : Bfu := {}
  chk  : Chk := {}
  snd  : Snd := {}
  smk  : Smk := {}
  lgt  : Lgt := {}
  rrx  : Rrx := {}
  sup  : Sup := {}
  /-- exchange memory -/
  mem  : Memory := []
  /-- the active values of the nine groups -/
  cfg  : Groups := Groups.none
  /-- the groups have been made active since the latest reset -/
  configured : Bool := false
  /-- the model's own field: how many free values (Config.lean) have been used -/
  freeCount  : Nat := 0
  /-- the waiting commands, first in, first out -/
  pending    : List Instr := []
  deriving DecidableEq, Repr

/-- The reasons a step stops with a fault: none. No rule of the manual stops the part, and every access to exchange memory
lies inside it (R2: address bits above bit 18 are ignored). -/
inductive Fault : Type
  deriving DecidableEq, Repr

/-- The reasons a step is refused. -/
inductive Refusal where
  /-- raised by an arm of `exec` whose command has no meaning yet (safe); no arm raises it -/
  | notModelled (mnemonic : String)
  deriving DecidableEq, Repr

/-- The directory's identity fields as power-on reset writes them (R22): family code 7140 = 0x1BE4 and layout revision 3,
little-endian. -/
def identityMemory : Memory :=
  [(0x00, 0xE4), (0x01, 0x1B), (0x02, 0x03)]

/-- The part right after power-on reset, the clearing of exchange memory completed (R22 and the reset tables of R24, R43,
R66, R85, R99, R133, R147, R161, R163, R166, R173). (DEDUCED, log entry 38) -/
def State.reset : State :=
  { mem := identityMemory }

end Sys2Proof.Machine
end

