-- ==== Sys2Proof/Machine/Ops.lean ====
section
/-!
DEFINITION. The named operations over exchange memory, the directory and the part state that the meanings share (1.4, 1.5,
R6, R7). Every access to exchange memory goes through `Memory.read` and `Memory.write`.
-/
namespace Sys2Proof.Machine

/-- The bytes of exchange memory: 512 KiB (1.1). -/
def memorySize : Nat := 0x80000

/-- An address as the part uses it: bits above bit 18 are ignored, and 0x00000 follows 0x7FFFF (R2). -/
def wrapAddr (a : Nat) : Nat := a % memorySize

/-- The byte at an address; an unlisted address reads 0 (R22). (DEDUCED, log entry 24) -/
def Memory.read : Memory → Nat → Byte
  | [], _ => 0
  | (k, b) :: rest, a => if k = a then b else Memory.read rest a

/-- The memory with the byte at an address replaced; a byte of 0 is not listed. -/
def Memory.write : Memory → Nat → Byte → Memory
  | [], a, v => if v = 0 then [] else [(a, v)]
  | (k, b) :: rest, a, v =>
    if k = a then (if v = 0 then rest else (a, v) :: rest)
    else if a < k then (if v = 0 then (k, b) :: rest else (a, v) :: (k, b) :: rest)
    else (k, b) :: Memory.write rest a v

/-- The memory with a run of bytes written, each at its own address. -/
def Memory.writeCells : Memory → List Host.Cell → Memory
  | m, [] => m
  | m, (a, v) :: rest => Memory.writeCells (m.write a v) rest

/-- The memory with every byte of `lo ≤ a < hi` set to 0. -/
def Memory.clear (m : Memory) (lo hi : Nat) : Memory :=
  m.filter fun c => decide (c.1 < lo ∨ hi ≤ c.1)

/-- The little-endian bytes of a value, lowest first, from an address on (0.8). -/
def leCells (a : Nat) : Nat → Nat → List Host.Cell
  | 0, _ => []
  | n + 1, v => (a, BitVec.ofNat 8 v) :: leCells (a + 1) n (v / 256)

/-- The little-endian value of the `n` bytes from an address on (0.8). -/
def Memory.readLe (m : Memory) (a : Nat) : Nat → Nat
  | 0 => 0
  | n + 1 => (m.read a).toNat + 256 * m.readLe (a + 1) n

/-- A read grant: the aligned word at an address as it stands (R6). -/
def Memory.readWord (m : Memory) (a : Nat) : Word :=
  BitVec.ofNat 32 (m.readLe a 4)

/-- The `n` bytes from an address on. -/
def Memory.readBytes (m : Memory) (a : Nat) : Nat → List Byte
  | 0 => []
  | n + 1 => m.read a :: m.readBytes (a + 1) n

/-- The four bytes of a word, lowest first. -/
def wordBytes (w : Word) : List Byte :=
  [w.setWidth 8, (w >>> 8).setWidth 8, (w >>> 16).setWidth 8, (w >>> 24).setWidth 8]

/-- The canonical form of exchange memory: addresses strictly rising and inside the memory, no byte of 0 listed. -/
def Memory.wf : Memory → Bool
  | [] => true
  | [(k, b)] => decide (k < memorySize) && b != 0
  | (k, b) :: (k', b') :: rest => decide (k < k') && b != 0 && Memory.wf ((k', b') :: rest)

/-- The state with bytes of exchange memory written by one grant (R6). -/
def State.writeMem (s : State) (cells : List Host.Cell) : State :=
  { s with mem := s.mem.writeCells cells }

/-- The state with an `n`-byte little-endian field written at an address. -/
def State.writeField (s : State) (a n v : Nat) : State :=
  s.writeMem (leCells a n v)

/-- The part state codes used in the mirror, in PCTL and on the board (1.5). -/
def PartState.code : PartState → Nat
  | .idle => 0
  | .adopting => 1
  | .running => 2
  | .stopping => 3
  | .halted => 4

/-- The drive slot state codes (1.5). -/
def SlotState.code : SlotState → Nat
  | .empty => 0
  | .pending => 1
  | .taken => 2
  | .refused => 3

/-- The refusal reason codes of directory byte 0x14 (1.5). -/
def GroupReason.code : GroupReason → Nat
  | .outOfRange => 1
  | .notMonotonic => 2
  | .inconsistent => 3
  | .duplicate => 4

/-- The part in RUNNING or STOPPING, in which the locomotive is driven. -/
def PartState.driving : PartState → Bool
  | .running => true
  | .stopping => true
  | _ => false

/-- A change of part state with its directory mirror (R7). -/
def State.setPart (s : State) (p : PartState) : State :=
  { s with exc := { s.exc with part := p } }.writeField 0x10 1 p.code

/-- The directory's adoption result, refused group, parameter index and reason (R8, R9, R10, R19). -/
def State.writeAdoptionResult (s : State) (result group index reason : Nat) : State :=
  s.writeMem (leCells 0x11 1 result ++ leCells 0x12 1 group ++ leCells 0x13 1 index ++ leCells 0x14 1 reason)

/-- A change of the drive slot state with its directory byte (R15, R16). (DEDUCED, log entry 12) -/
def State.setSlotState (s : State) (x : SlotState) : State :=
  { s with exc := { s.exc with slotState := x } }.writeField 0x16 1 x.code

/-- The last taken tally with its directory byte (R16). -/
def State.setLastTaken (s : State) (t : Byte) : State :=
  { s with exc := { s.exc with lastTaken := t } }.writeField 0x15 1 t.toNat

/-- The cue take tally with its directory field (R17, R18). -/
def State.setCueTake (s : State) (t : Half) : State :=
  { s with exc := { s.exc with cueTake := t } }.writeField 0x06 2 t.toNat

/-- The inbox put tally with its directory field (R20). -/
def State.setInboxPut (s : State) (t : Half) : State :=
  { s with exc := { s.exc with inboxPut := t } }.writeField 0x08 2 t.toNat

/-- The millisecond count with its directory field (R14). -/
def State.setMs (s : State) (t : Word) : State :=
  { s with exc := { s.exc with ms := t } }.writeField 0x0C 4 t.toNat

/-- The motors present under a TRACTION group (R64): A alone, or A and B. -/
def Traction.present (c : Traction) : Motor → Bool
  | .a => decide (1 ≤ c.motors)
  | .b => decide (2 ≤ c.motors)

/-- Supply state NORMAL or LEAN. -/
def Supply.good : Supply → Bool
  | .normal => true
  | .lean => true
  | _ => false

/-- The part is HALTED, or ADOPTING from HALTED (R136, R156). -/
def State.haltedLike (s : State) : Bool :=
  match s.exc.part with
  | .halted => true
  | .adopting => match s.exc.adoption with
    | some a => a.fromHalted
    | none => false
  | _ => false

end Sys2Proof.Machine
end

