-- ==== Sys2Proof/Machine/Flags.lean ====
section
/-!
DEFINITION. The notice latch, ATTN, and the values that the four registers read as (R4, R5, 1.5).
-/
namespace Sys2Proof.Machine

/-- The fifteen notice kinds (1.5). -/
inductive Notice where
  | configResult
  | slotTaken
  | cueRefused
  | stripOverrun
  | voiceEnd
  | radioFrame
  | inboxFull
  | trip
  | estop
  | failsafe
  | slip
  | sensorLost
  | smokeAlert
  | supplyChange
  | halted
  deriving DecidableEq, Repr

/-- The bit of each kind in NLAT and NEN (1.5). -/
def Notice.bit : Notice → Nat
  | .configResult => 0
  | .slotTaken => 1
  | .cueRefused => 2
  | .stripOverrun => 3
  | .voiceEnd => 4
  | .radioFrame => 5
  | .inboxFull => 6
  | .trip => 7
  | .estop => 8
  | .failsafe => 9
  | .slip => 10
  | .sensorLost => 11
  | .smokeAlert => 12
  | .supplyChange => 13
  | .halted => 14

/-- A kind's mask in NLAT and NEN. -/
def Notice.mask (k : Notice) : BitVec 15 := 1 <<< k.bit

/-- A block latches a notice kind; a kind already latched stays latched (R5). -/
def State.latch (s : State) (k : Notice) : State :=
  { s with exc := { s.exc with nlat := s.exc.nlat ||| k.mask } }

/-- ATTN is driven low exactly while NLAT and NEN have a kind in common (R5). It is computed, never stored. -/
def State.attnLow (s : State) : Bool :=
  s.exc.nlat &&& s.exc.nen != 0

/-- The code of the last command's result in PCTL bit 4 (1.5). -/
def CmdResult.code : CmdResult → Nat
  | .accepted => 0
  | .refused => 1

/-- The bits of PCTL that 1.5 lists: 0–2, 3, 4 and 8–10. -/
def pctlListed : Half := 0x071F

/-- The listed bits of PCTL as they read (R4, 1.5). -/
def State.pctlBits (s : State) : Half :=
  BitVec.ofNat 16 (s.exc.part.code + (if s.exc.clearing then 8 else 0) + 16 * s.exc.lastResult.code
    + 256 * s.exc.lastCmd.toNat)

/-- PCTL as it reads; what its unlisted bits read as is a free value. (DESIGN CHOICE, log entry 6) -/
def State.readPctl (s : State) : Half :=
  (s.pctlBits &&& pctlListed) ||| (Config.pctlUnlisted s.freeCount &&& ~~~pctlListed)

/-- NLAT as it reads; what bit 15 reads as is a free value. (DESIGN CHOICE, log entry 6) -/
def State.readNlat (s : State) : Half :=
  s.exc.nlat.setWidth 16 ||| (Config.nlatUnlisted s.freeCount &&& 0x8000)

/-- NEN as it reads, with bit 15 reading 0 (R4). -/
def State.readNen (s : State) : Half :=
  s.exc.nen.setWidth 16

/-- IDNT reads 7140 at all times (R4). -/
def idntValue : Half := 7140

/-- The value of a register as it stands; a register number above 3 reads 0 (R2). -/
def State.readRegister (s : State) (reg : Byte) : Half :=
  if reg = 0 then s.readPctl
  else if reg = 1 then s.readNlat
  else if reg = 2 then s.readNen
  else if reg = 3 then idntValue
  else 0

/-- A PCTL command with its result, recorded at the moment it is accepted or refused (R4). -/
def State.recordCommand (s : State) (code : BitVec 3) (r : CmdResult) : State :=
  { s with exc := { s.exc with lastCmd := code, lastResult := r } }

end Sys2Proof.Machine
end

