-- ==== Sys2Proof/Machine/Operands.lean ====
section
/-!
DEFINITION. How the operands of the commands and the records in exchange memory are read: port data by aligned word (R2, R3),
conversions (R47, R74, R173), the little-endian fields of memory records (0.8, 1.5), and the big-endian fields and the CRC of
a radio frame (R158, R160).
-/
namespace Sys2Proof.Machine

/-! ### The memory port -/

/-- The bytes a read-memory transaction shifts out: `n` bytes from `a` on, `j` the place of the next one among the bytes due
of its word, and `late` the number of bytes of each word due before its grant, which are shifted out as 0 (R3).
(DESIGN CHOICE, log entry 8) -/
def readOut (m : Memory) : Nat → Nat → Nat → List Nat → List Byte
  | 0, _, _, _ => []
  | n + 1, a, j, late =>
    let b := if j < late.headD 0 then 0 else m.read (wrapAddr a)
    if (a + 1) % 4 = 0 then b :: readOut m n (a + 1) 0 late.tail
    else b :: readOut m n (a + 1) (j + 1) late

/-- The bytes of a write-memory transaction gathered by aligned word, in order (R3): `w` holds the bytes gathered so far of
the present word, latest first. -/
def gather : List Byte → Nat → List Host.Cell → List (List Host.Cell)
  | [], _, [] => []
  | [], _, w => [w.reverse]
  | b :: rest, a, w =>
    if (a + 1) % 4 = 0 then ((wrapAddr a, b) :: w).reverse :: gather rest (a + 1) []
    else gather rest (a + 1) ((wrapAddr a, b) :: w)

/-- A write grant requested by the port and still awaited, with the number of further word boundaries at which it will still
be awaited. -/
abbrev AwaitedWrite := Option (List Host.Cell × Nat)

/-- The gathered words passed to the arbiter in turn (R3). At a word boundary an earlier grant that has been given has
changed its bytes, and the word's own grant is requested; while the earlier grant is still awaited, the word is discarded.
(DESIGN CHOICE, log entry 8) -/
def passWords : List (List Host.Cell) → List Nat → AwaitedWrite → Memory → AwaitedWrite × Memory
  | [], _, q, m => (q, m)
  | w :: ws, delays, none, m => passWords ws delays.tail (some (w, delays.headD 0)) m
  | w :: ws, delays, some (q, 0), m => passWords ws delays.tail (some (w, delays.headD 0)) (m.writeCells q)
  | _ :: ws, delays, some (q, k + 1), m => passWords ws delays (some (q, k)) m

/-! ### Conversions -/

/-- A back-EMF conversion measured in a direction: a reading of reversed polarity is 0 (R47, R72). (DESIGN CHOICE, log entry 37) -/
def emfValue (e : EmfReading) (d : Direction) : Nat :=
  if e.polarity = d then e.counts.toNat else 0

/-- The average B of a motor's four conversions (R47). -/
def emfAverage (e : EmfSet) (d : Direction) : Nat :=
  (emfValue e.c0 d + emfValue e.c1 d + emfValue e.c2 d + emfValue e.c3 d) / 4

/-- A measured current in mA: 8 mA per count, and 0 for current against the applied direction (R74). -/
def currentMilliamps (counts : BitVec 10) (flow applied : Direction) : Nat :=
  if flow = applied then 8 * counts.toNat else 0

/-- A supply reading: above 32,000 mV it is taken as 32,000 (R173). -/
def supplyReading (mv : Nat) : Nat := min mv 32000

/-! ### Little-endian records in exchange memory -/

/-- Byte `i` of a record. -/
def byteAt (bs : List Byte) (i : Nat) : Nat := (bs.getD i 0).toNat

/-- The 16-bit little-endian field at `i`. -/
def halfAt (bs : List Byte) (i : Nat) : Nat := byteAt bs i + 256 * byteAt bs (i + 1)

/-- The signed 16-bit little-endian field at `i` (R145). -/
def signedHalfAt (bs : List Byte) (i : Nat) : Int :=
  if halfAt bs i < 32768 then (halfAt bs i : Int) else (halfAt bs i : Int) - 65536

/-- The 24-bit little-endian field at `i` (6.2). -/
def threeAt (bs : List Byte) (i : Nat) : Nat := halfAt bs i + 65536 * byteAt bs (i + 2)

/-- The 32-bit little-endian field at `i`. -/
def wordAt (bs : List Byte) (i : Nat) : Nat := halfAt bs i + 65536 * halfAt bs (i + 2)

/-- The drive slot as read from its two words (1.5, R16). -/
structure Slot where
  tally     : Byte
  form      : Nat
  value     : Nat
  direction : Nat
  moment    : Nat
  emergency : Nat
  deriving DecidableEq, Repr

/-- The address of the drive slot (1.5). -/
def slotBase : Nat := 0x500

/-- The drive slot read by its two word grants, 0x00500 and then 0x00504 (R16). (DESIGN CHOICE, log entry 28) -/
def Memory.readSlot (m : Memory) : Slot :=
  let w := wordBytes (m.readWord slotBase) ++ wordBytes (m.readWord (slotBase + 4))
  { tally := w.getD 0 0, form := byteAt w 1, value := halfAt w 2, direction := byteAt w 4, moment := byteAt w 5,
    emergency := byteAt w 6 }

/-- The address of the cue record for a take tally (R17). -/
def cueAddr (t : Half) : Nat := 0x800 + 16 * (t.toNat % 64)

/-- The sixteen bytes of a cue record. -/
def Memory.readCue (m : Memory) (t : Half) : List Byte := m.readBytes (cueAddr t) 16

/-! ### Radio frames -/

/-- One bit of the CRC computation, most significant bit first (R160). -/
def crcBit (crc : Half) (bit : Bool) : Half :=
  if crc.getLsbD 15 = bit then crc <<< 1 else (crc <<< 1) ^^^ 0x1021

/-- One byte of the CRC computation. -/
def crcByte (crc : Half) (b : Byte) : Half :=
  [7, 6, 5, 4, 3, 2, 1, 0].foldl (fun c i => crcBit c (b.getLsbD i)) crc

/-- The check of R160: generator x^16 + x^12 + x^5 + 1, from 0xFFFF, no final inversion. -/
def crc16 (bs : List Byte) : Half := bs.foldl crcByte 0xFFFF

/-- The big-endian 16-bit field at `i` of a frame (R158). -/
def beHalfAt (bs : List Byte) (i : Nat) : Nat := 256 * byteAt bs i + byteAt bs (i + 1)

/-- The fields of a checked frame (R158). -/
structure Frame where
  sender  : Half
  seq     : Byte
  target  : Half
  kind    : Byte
  payload : List Byte
  signal  : Byte
  deriving DecidableEq, Repr

/-- The fields of a frame's bytes, body and signal strength (R158). -/
def Frame.parse (bs : List Byte) : Frame :=
  { sender := BitVec.ofNat 16 (beHalfAt bs 1), seq := bs.getD 3 0, target := BitVec.ofNat 16 (beHalfAt bs 4),
    kind := bs.getD 6 0, payload := (bs.drop 7).take (byteAt bs 0 - 9), signal := bs.getD (byteAt bs 0) 0 }

/-- The link checks of R160 in their order: the discard reason of the first that fails, or `none`. -/
def linkCheck (bits : Nat) (bs : List Byte) : Option Discard :=
  let n := bits / 8
  let len := byteAt bs 0
  if bits = 0 ∨ bits % 8 ≠ 0 then some .runt
  else if 32 < n then some .long
  else if n < 2 ∨ len < 9 ∨ 25 < len ∨ len ≠ n - 1 then some .length
  else if (crc16 (bs.take (len - 2))).toNat ≠ beHalfAt bs (len - 2) then some .check
  else none

end Sys2Proof.Machine
end

