-- ==== Sys2Proof/Machine/Validate.lean ====
section
/-!
DEFINITION. The checking of a configuration group by the block that owns it (R8): each parameter in index order, its range
first and then the relation named at its index. The first failing parameter refuses the group (R64, R67, R27, R38, R117,
R96, R145, R148, R149, R171, R179).
-/
namespace Sys2Proof.Machine

/-- One parameter's check: its index and the reason it fails with, if it fails. -/
abbrev Check := Nat × Option GroupReason

/-- The first failing parameter of a list of checks. -/
def firstFail : List Check → Option (Nat × GroupReason)
  | [] => none
  | (_, none) :: rest => firstFail rest
  | (i, some r) :: _ => some (i, r)

/-- The verdict of a group's checks: the first failure, or the groups with the checked one's values. -/
def verdictOf (checks : List Check) (g : Groups) : Verdict :=
  match firstFail checks with
  | some (i, r) => .refused i r
  | none => .valid g

/-- A range check: OUT_OF_RANGE when the condition fails. -/
def inRange (ok : Bool) : Option GroupReason :=
  if ok then none else some .outOfRange

/-- A range check followed by a relation with its own reason. -/
def rangeThen (ok rel : Bool) (r : GroupReason) : Option GroupReason :=
  if ok then (if rel then none else some r) else some .outOfRange

/-! ### TRACTION (R64, R67) -/

/-- SRG's checks of parameters 0–13 and then BFU's of 14–25. -/
def tractionChecks (bs : List Byte) : List Check :=
  let p := fun i => halfAt bs (2 * i)
  [ (0, inRange (1 ≤ p 0 && p 0 ≤ 2)),
    (1, inRange (p 1 == 5 || p 1 == 10 || p 1 == 20)),
    (2, inRange (p 2 ≤ 4095)), (3, inRange (p 3 ≤ 4095)), (4, inRange (p 4 ≤ 4095)),
    (5, inRange (p 5 ≤ 1023)), (6, inRange (p 6 ≤ 1023)), (7, inRange (p 7 ≤ 1023)),
    (8, inRange (p 8 ≤ 255)),
    (9, inRange (1 ≤ p 9 && p 9 ≤ 1023)),
    (10, inRange (p 10 ≤ 1023)),
    (11, rangeThen (p 11 ≤ 4095) (p 10 < p 11) .inconsistent),
    (12, rangeThen (p 12 ≤ 4095) (p 11 ≤ p 12) .notMonotonic),
    (13, rangeThen (p 13 ≤ 4095) (p 12 ≤ p 13) .notMonotonic),
    (14, inRange (p 14 ≤ 3)), (15, inRange (p 15 ≤ 63)), (16, inRange (p 16 ≤ 1)),
    (17, inRange (100 ≤ p 17 && p 17 ≤ 1000 && p 17 % 50 == 0)),
    (18, inRange (500 ≤ p 18 && p 18 ≤ 8000 && p 18 % 100 == 0)),
    (19, inRange (p 19 ≤ 1)),
    (20, rangeThen (600 ≤ p 20 && p 20 ≤ 8100 && p 20 % 100 == 0) (p 18 < p 20) .inconsistent),
    (21, inRange (1 ≤ p 21 && p 21 ≤ 255)),
    (22, inRange (p 22 ≤ 1)), (23, inRange (p 23 ≤ 1023)),
    (24, inRange (1 ≤ p 24 && p 24 ≤ 32)), (25, inRange (p 25 ≤ 90)) ]

/-- The off-time style and the limit off action: 0 coasts, 1 brakes (R67). -/
def offStyleOf (n : Nat) : OffStyle := if n = 0 then .coast else .brake

/-- The values of a valid TRACTION group. -/
def parseTraction (bs : List Byte) : Traction :=
  let p := fun i => halfAt bs (2 * i)
  { motors := p 0, treg := p 1, accel := p 2, decel := p 3, emergency := p 4, kc := p 5, kff := p 6, kp := p 7, ki := p 8,
    dmax := p 9, standstill := p 10, t1 := p 11, t2 := p 12, t3 := p 13, pwmFreq := p 14, deadTime := p 15,
    offStyle := offStyleOf (p 16), settle := p 17, limit := p 18, limitOff := offStyleOf (p 19), short := p 20,
    persist := p 21, polarity := if p 22 = 0 then .low else .high, slipThresh := p 23, slipTicks := p 24, slipCut := p 25 }

/-! ### CURVE (R27) -/

/-- The check of point `k`: its range, and then that it is not below the point before it. -/
def curveCheck (bs : List Byte) (k : Nat) : Check :=
  (k, rangeThen (halfAt bs (2 * k) ≤ 4095) (k == 0 || halfAt bs (2 * (k - 1)) ≤ halfAt bs (2 * k)) .notMonotonic)

/-- The checks of the eleven points. -/
def curveChecks (bs : List Byte) : List Check :=
  (List.range 11).map (curveCheck bs)

/-- The values of a valid CURVE group. -/
def parseCurve (bs : List Byte) : List Nat :=
  (List.range 11).map fun k => halfAt bs (2 * k)

/-! ### FUNCTIONS (R38) -/

/-- The target of a code, if R38's table lists it. -/
def targetOf (code : Nat) : Option Target :=
  if code = 1 then some .smoke
  else if code = 2 then some .shunt
  else if code = 3 then some .momentumOff
  else if code = 4 then some .mute
  else if 0x10 ≤ code ∧ code ≤ 0x1F then some (.soundKey (code - 0x10))
  else none

/-- The checks of function `n`: its count, and then each target below it. -/
def functionChecks (bs : List Byte) (n : Nat) : List Check :=
  let count := byteAt bs (8 * n)
  (5 * n, inRange (count ≤ 4)) ::
    (List.range 4).map fun j =>
      (5 * n + 1 + j, inRange (count ≤ j || (targetOf (byteAt bs (8 * n + 1 + j))).isSome))

/-- The target list of function `n` in a valid group. A target listed twice acts as if listed once (R38), at the first of its
places in list order. (DESIGN CHOICE, log entry 43) -/
def parseTargets (bs : List Byte) (n : Nat) : List Target :=
  ((List.range (min 4 (byteAt bs (8 * n)))).filterMap fun j => targetOf (byteAt bs (8 * n + 1 + j))).eraseDups

/-- The checks of all functions in index order. -/
def functionsChecks (bs : List Byte) : List Check :=
  (List.range 32).flatMap (functionChecks bs)

/-- The values of a valid FUNCTIONS group. -/
def parseFunctions (bs : List Byte) : List (List Target) :=
  (List.range 32).map (parseTargets bs)

/-! ### SOUND (R117) -/

/-- A clip field of the background, the squeal or a key: 0–127, or 255 for none. -/
def clipField (n : Nat) : Bool := n ≤ 127 || n == 255

/-- A clip field's value. -/
def clipOf (n : Nat) : Option Nat := if n = 255 then none else some n

/-- The checks of key `k`. -/
def keyChecks (bs : List Byte) (k : Nat) : List Check :=
  [ (8 + 4 * k, inRange (clipField (byteAt bs (0x10 + 4 * k)))),
    (9 + 4 * k, inRange (1 ≤ byteAt bs (0x11 + 4 * k) && byteAt bs (0x11 + 4 * k) ≤ 7)),
    (10 + 4 * k, none),
    (11 + 4 * k, inRange (byteAt bs (0x13 + 4 * k) ≤ 1)) ]

/-- The checks of chuff set `j`: its count, and then each clip below it. -/
def setChecks (bs : List Byte) (j : Nat) : List Check :=
  let count := byteAt bs (0x60 + 16 * j)
  (80 + 9 * j, inRange (count ≤ 8)) ::
    (List.range 8).map fun i =>
      (81 + 9 * j + i, inRange (count ≤ i || byteAt bs (0x61 + 16 * j + i) ≤ 127))

/-- The checks of the SOUND group in index order. -/
def soundChecks (bs : List Byte) : List Check :=
  [ (0, none), (1, inRange (clipField (byteAt bs 1))), (2, none), (3, inRange (clipField (byteAt bs 3))),
    (4, inRange (1 ≤ byteAt bs 4 && byteAt bs 4 ≤ 7)), (5, none),
    (6, inRange (halfAt bs 6 ≤ 4095)),
    (7, rangeThen (halfAt bs 8 ≤ 4095) (halfAt bs 6 ≤ halfAt bs 8) .inconsistent) ]
  ++ (List.range 16).flatMap (keyChecks bs)
  ++ (List.range 8).map (fun b => (72 + b, none))
  ++ (List.range 12).flatMap (setChecks bs)

/-- Key `k` of a valid SOUND group. -/
def parseKey (bs : List Byte) (k : Nat) : Key :=
  { clip := clipOf (byteAt bs (0x10 + 4 * k)), priority := byteAt bs (0x11 + 4 * k), volume := byteAt bs (0x12 + 4 * k),
    mode := if byteAt bs (0x13 + 4 * k) = 0 then .oneshot else .hold }

/-- Chuff set `j` of a valid SOUND group. -/
def parseSet (bs : List Byte) (j : Nat) : List Nat :=
  (List.range (min 8 (byteAt bs (0x60 + 16 * j)))).map fun i => byteAt bs (0x61 + 16 * j + i)

/-- The values of a valid SOUND group. -/
def parseSound (bs : List Byte) : Sound :=
  { master := byteAt bs 0, bgClip := clipOf (byteAt bs 1), bgVolume := byteAt bs 2, sqClip := clipOf (byteAt bs 3),
    sqPriority := byteAt bs 4, sqVolume := byteAt bs 5, sqLow := halfAt bs 6, sqHigh := halfAt bs 8,
    keys := (List.range 16).map (parseKey bs), chuffVolume := (List.range 8).map fun b => byteAt bs (0x50 + b),
    sets := (List.range 12).map (parseSet bs) }

/-! ### CHUFF (R96) -/

/-- The checks of the CHUFF group. -/
def chuffChecks (bs : List Byte) : List Check :=
  let p := fun i => halfAt bs (2 * i)
  [ (0, inRange (p 0 ≤ 2)), (1, inRange (2 ≤ p 1 && p 1 ≤ 15)), (2, inRange (p 2 ≤ 2)),
    (3, inRange (1 ≤ p 3 && p 3 ≤ 16)), (4, inRange (p 4 ≤ 1023)), (5, inRange (100 ≤ p 5 && p 5 ≤ 5000)),
    (6, inRange (1 ≤ p 6 && p 6 ≤ 4095)), (7, inRange (p 7 == 2 || p 7 == 4 || p 7 == 6 || p 7 == 8)) ]

/-- The values of a valid CHUFF group. -/
def parseChuff (bs : List Byte) : Chuff :=
  let p := fun i => halfAt bs (2 * i)
  { mode := if p 0 = 0 then .sensor else if p 0 = 1 then .virtual else .auto, qualifier := p 1,
    edge := if p 2 = 0 then .rising else if p 2 = 1 then .falling else .both, prescale := p 3, kcam := p 4,
    lostTime := p 5, moving := p 6, perCycle := p 7 }

/-! ### SMOKE (R145) -/

/-- An integer within two bounds. -/
def within (x lo hi : Int) : Bool := lo ≤ x && x ≤ hi

/-- Thermistor code `i`. -/
def thermCode (bs : List Byte) (i : Nat) : Nat := halfAt bs (0x18 + 4 * i)

/-- Thermistor temperature `i`, signed. -/
def thermTemp (bs : List Byte) (i : Nat) : Int := signedHalfAt bs (0x1A + 4 * i)

/-- The checks of thermistor point `i`. -/
def pointChecks (bs : List Byte) (i : Nat) : List Check :=
  [ (12 + 2 * i, rangeThen (thermCode bs i ≤ 1023) (i == 0 || thermCode bs i < thermCode bs (i - 1)) .notMonotonic),
    (13 + 2 * i, rangeThen (within (thermTemp bs i) (-40) 400) (i == 0 || thermTemp bs (i - 1) < thermTemp bs i)
      .notMonotonic) ]

/-- The checks of the SMOKE group in index order. -/
def smokeChecks (bs : List Byte) : List Check :=
  let p := fun i => halfAt bs (2 * i)
  [ (0, inRange (p 0 ≤ 1)), (1, inRange (p 1 ≤ 300)),
    (2, rangeThen (50 ≤ p 2 && p 2 ≤ 350) (p 1 < p 2) .inconsistent),
    (3, rangeThen (50 ≤ p 3 && p 3 ≤ 350) (p 2 ≤ p 3) .inconsistent),
    (4, rangeThen (60 ≤ p 4 && p 4 ≤ 400) (p 3 < p 4) .inconsistent),
    (5, inRange (1 ≤ p 5 && p 5 ≤ 255)), (6, inRange (1 ≤ p 6)), (7, inRange (p 7 ≤ 255)), (8, inRange (p 8 ≤ 255)),
    (9, inRange (20 ≤ p 9 && p 9 ≤ 2000)), (10, inRange (p 10 ≤ 255)),
    (11, inRange (within (signedHalfAt bs 0x16) (-32) 32)) ]
  ++ (List.range 16).flatMap (pointChecks bs)

/-- The values of a valid SMOKE group. -/
def parseSmoke (bs : List Byte) : Smoke :=
  let p := fun i => halfAt bs (2 * i)
  { keepWarm := p 0 == 1, tWarm := p 1, tVapor := p 2, tSet := p 3, tMax := p 4, gain := p 5, capacity := p 6,
    idle := p 7, kick := p 8, puffMax := p 9, base := p 10, step := signedHalfAt bs 0x16,
    points := (List.range 16).map fun i => (thermCode bs i, thermTemp bs i) }

/-! ### LIGHTS (R148, R149) -/

/-- Byte `j` of program `k`. -/
def lightByte (bs : List Byte) (k j : Nat) : Nat := byteAt bs (16 * k + j)

/-- The effect codes (R148). -/
def alternateCode : Nat := 2

/-- Output `k`'s effect is ALTERNATE. -/
def isAlternate (bs : List Byte) (k : Nat) : Bool := lightByte bs k 3 == alternateCode

/-- R149's four steps for an ALTERNATE output `k` with partner `p` in range. (DEDUCED, log entry 27) -/
def pairingOk (bs : List Byte) (k : Nat) : Bool :=
  let p := lightByte bs k 7
  p != k
  && (p ≤ k || isAlternate bs p)
  && (List.range k).all (fun j => !(isAlternate bs j && lightByte bs j 7 == k) || j == p)
  && (k ≤ p || (isAlternate bs p && lightByte bs p 7 == k))

/-- The check of parameter a of program `k`, at index 9k + 7. -/
def paramACheck (bs : List Byte) (k : Nat) : Option GroupReason :=
  let a := lightByte bs k 7
  match lightByte bs k 3 with
  | 1 => inRange (2 ≤ a)
  | 2 => rangeThen (a ≤ 7) (pairingOk bs k) .inconsistent
  | 3 => rangeThen true (a ≤ lightByte bs k 4) .inconsistent
  | 5 => rangeThen true (a ≤ lightByte bs k 4) .inconsistent
  | _ => none

/-- The check of parameter b of program `k`, at index 9k + 8. -/
def paramBCheck (bs : List Byte) (k : Nat) : Option GroupReason :=
  let a := lightByte bs k 7
  let b := lightByte bs k 8
  match lightByte bs k 3 with
  | 1 => rangeThen (1 ≤ b && b ≤ 254) (b < a) .inconsistent
  | 2 => rangeThen (2 ≤ b) (k ≤ a || lightByte bs a 8 == b) .inconsistent
  | 5 => inRange (1 ≤ b)
  | _ => none

/-- A binding or a dim function: 0–31, or 255. -/
def functionField (n : Nat) : Bool := n ≤ 31 || n == 255

/-- The checks of program `k` in index order. -/
def programChecks (bs : List Byte) (k : Nat) : List Check :=
  [ (9 * k, inRange (functionField (lightByte bs k 0))), (9 * k + 1, inRange (lightByte bs k 1 ≤ 2)),
    (9 * k + 2, inRange (lightByte bs k 2 ≤ 2)), (9 * k + 3, inRange (lightByte bs k 3 ≤ 5)), (9 * k + 4, none),
    (9 * k + 5, inRange (functionField (lightByte bs k 5))), (9 * k + 6, none),
    (9 * k + 7, paramACheck bs k), (9 * k + 8, paramBCheck bs k) ]

/-- The checks of the LIGHTS group. -/
def lightsChecks (bs : List Byte) : List Check :=
  (List.range 8).flatMap (programChecks bs)

/-- A function number, or none for 255. -/
def functionOf (n : Nat) : Option Nat := if n = 255 then none else some n

/-- The effect of program `k` with the parameters it reads. -/
def parseEffect (bs : List Byte) (k : Nat) : Effect :=
  let a := lightByte bs k 7
  let b := lightByte bs k 8
  match lightByte bs k 3 with
  | 1 => .blink a b
  | 2 => .alternate (Fin.ofNat 8 a) b
  | 3 => .flicker a
  | 4 => .fade a b
  | 5 => .chuffFlash a b
  | _ => .steady

/-- Program `k` of a valid LIGHTS group. -/
def parseProgram (bs : List Byte) (k : Nat) : Program :=
  { binding := functionOf (lightByte bs k 0),
    dirCond := if lightByte bs k 1 = 0 then .any else if lightByte bs k 1 = 1 then .forward else .reverse,
    motion := if lightByte bs k 2 = 0 then .any else if lightByte bs k 2 = 1 then .standingOnly else .movingOnly,
    effect := parseEffect bs k, level := lightByte bs k 4, dim := functionOf (lightByte bs k 5),
    dimLevel := lightByte bs k 6 }

/-- The values of a valid LIGHTS group. -/
def parseLights (bs : List Byte) : Octet Program :=
  Octet.ofFn fun k => parseProgram bs k.val

/-! ### RADIO (R171) -/

/-- The ID of bind entry `j`. -/
def bindId (bs : List Byte) (j : Nat) : Nat := halfAt bs (0x0A + 4 * j)

/-- The rights field of bind entry `j`. -/
def bindRights (bs : List Byte) (j : Nat) : Nat := halfAt bs (0x0C + 4 * j)

/-- The checks of bind entry `j`. -/
def bindChecks (bs : List Byte) (j : Nat) : List Check :=
  [ (5 + 2 * j, rangeThen (bindId bs j ≤ 65534)
      (bindId bs j == 0 || (List.range j).all fun i => bindId bs i != bindId bs j) .duplicate),
    (6 + 2 * j, inRange (bindId bs j == 0 || bindRights bs j ≤ 2)) ]

/-- The checks of the RADIO group. -/
def radioChecks (bs : List Byte) : List Check :=
  let p := fun i => halfAt bs (2 * i)
  [ (0, inRange (1 ≤ p 0 && p 0 ≤ 4095)), (1, inRange (p 1 ≤ 255)), (2, inRange (p 2 ≤ 1)), (3, inRange (p 3 ≤ 1)),
    (4, inRange (200 ≤ p 4 && p 4 ≤ 10000 && p 4 % 100 == 0)) ]
  ++ (List.range 4).flatMap (bindChecks bs)

/-- The rights of a rights field. -/
def rightsOf (n : Nat) : Rights :=
  if n = 0 then .drive else if n = 1 then .functions else .stopOnly

/-- Bind entry `j` of a valid group, if it is not empty. -/
def parseBind (bs : List Byte) (j : Nat) : Option (Half × Rights) :=
  if bindId bs j = 0 then none else some (BitVec.ofNat 16 (bindId bs j), rightsOf (bindRights bs j))

/-- The values of a valid RADIO group. -/
def parseRadio (bs : List Byte) : Radio :=
  let p := fun i => halfAt bs (2 * i)
  { unit := p 0, group := p 1, groupReverse := p 2 == 1, hostLead := p 3 == 1, failsafe := p 4,
    binds := (List.range 4).filterMap (parseBind bs) }

/-! ### POWER (R179) -/

/-- The checks of the POWER group. -/
def powerChecks (bs : List Byte) : List Check :=
  let p := fun i => halfAt bs (2 * i)
  [ (0, inRange (1000 ≤ p 0 && p 0 ≤ 31500)),
    (1, rangeThen (1000 ≤ p 1 && p 1 ≤ 32000) (p 1 < p 0) .inconsistent),
    (2, rangeThen (1000 ≤ p 2 && p 2 ≤ 32000) (p 1 < p 2) .inconsistent),
    (3, inRange (2 ≤ p 3 && p 3 ≤ 32)), (4, inRange (p 4 ≤ 5000)), (5, inRange (p 5 ≤ 32000)),
    (6, inRange (p 6 ≤ 1023)), (7, inRange (p 7 ≤ 255)), (8, inRange (p 8 ≤ 255)), (9, inRange (p 9 ≤ 255)),
    (10, inRange (p 10 ≤ 20000)), (11, inRange (p 11 ≤ 20000)), (12, inRange (100 ≤ p 12 && p 12 ≤ 10000)) ]

/-- The values of a valid POWER group. -/
def parsePower (bs : List Byte) : Power :=
  let p := fun i => halfAt bs (2 * i)
  { vLean := p 0, vOff := p 1, vOn := p 2, qualifier := p 3, holdTime := p 4, vhMin := p 5, holdDmax := p 6,
    leanCap := p 7, holdCap := p 8, holdLamp := p 9, budget := p 10, reserve := p 11, heaterNom := p 12 }

/-! ### The groups by number (1.5's group map) -/

/-- The first address of a group. -/
def groupBase : Nat → Nat
  | 1 => 0x1000
  | 2 => 0x1100
  | 3 => 0x1200
  | 4 => 0x1400
  | 5 => 0x1800
  | 6 => 0x1900
  | 7 => 0x1A00
  | 8 => 0x1B00
  | _ => 0x1C00

/-- The number of aligned words of a group up to the last that holds a parameter; the bytes beyond are not read (R27, R38, R117,
R96, R145, R148, R171, R179). In LIGHTS the reader takes a grant for each of the 32 words, those of bytes 12–15 of a program among
them, and their bytes change nothing (R148). (DESIGN CHOICE, log entry 48) -/
def groupWords : Nat → Nat
  | 1 => 13
  | 2 => 6
  | 3 => 64
  | 4 => 72
  | 5 => 4
  | 6 => 22
  | 7 => 32
  | 8 => 7
  | _ => 7

/-- The checks of group `n`'s bytes, in index order (R8). -/
def groupChecks (n : Nat) (bs : List Byte) : List Check :=
  match n with
  | 1 => tractionChecks bs
  | 2 => curveChecks bs
  | 3 => functionsChecks bs
  | 4 => soundChecks bs
  | 5 => chuffChecks bs
  | 6 => smokeChecks bs
  | 7 => lightsChecks bs
  | 8 => radioChecks bs
  | _ => powerChecks bs

/-- The groups' values `g` with group `n`'s replaced by those of its bytes. -/
def parseGroup (n : Nat) (bs : List Byte) (g : Groups) : Groups :=
  match n with
  | 1 => { g with traction := parseTraction bs }
  | 2 => { g with curve := parseCurve bs }
  | 3 => { g with map := parseFunctions bs }
  | 4 => { g with sound := parseSound bs }
  | 5 => { g with chuff := parseChuff bs }
  | 6 => { g with smoke := parseSmoke bs }
  | 7 => { g with lights := parseLights bs }
  | 8 => { g with radio := parseRadio bs }
  | _ => { g with power := parsePower bs }

/-- The owning block's check of group `n`'s bytes: the first failing parameter, or all groups' values with the checked group's
replaced (R8). -/
def validateGroup (n : Nat) (bs : List Byte) (g : Groups) : Verdict :=
  verdictOf (groupChecks n bs) (parseGroup n bs g)

/-- The words of a group that a reader which has read `k` words still reads, one grant each, in ascending order (R8). -/
def Memory.readWords (m : Memory) (a : Nat) : Nat → List Word
  | 0 => []
  | n + 1 => m.readWord a :: m.readWords (a + 4) n

/-- The bytes of words, in ascending address order. -/
def bytesOf (ws : List Word) : List Byte := ws.flatMap wordBytes

end Sys2Proof.Machine
end

