-- ==== Sys2Proof/Machine/BridgeOps.lean ====
section
/-!
DEFINITION. The operations of the bridge and fault unit that several meanings share: the half-bridges with their dead time
(R70), the switch pattern of a channel (R68, R69, R75), the hand-over of a duty (R71), float windows (R72, R73), and what
entry to HALTED and the acceptance of adoption do to the unit (R66, R84).
-/
namespace Sys2Proof.Machine

/-! ### One half-bridge (R70) -/

/-- A half-bridge brought to the switch that is to conduct, or to none. What must turn off does so at once and starts the dead
time of the other switch; what must turn on does so unless its dead time still runs, when the turn-on is delayed. A turn-on
no longer wanted is dropped: the switch does not conduct in that interval at all. -/
def Leg.bring (dead : Nat) (want : Option Switch) (g : Leg) : Leg :=
  let deadHigh := if g.low then dead else g.deadHigh
  let deadLow := if g.high then dead else g.deadLow
  match want with
  | none => { high := false, low := false, deadHigh := deadHigh, deadLow := deadLow, delayed := none }
  | some .high =>
    if g.high then { g with low := false, deadHigh := deadHigh, delayed := none }
    else if deadHigh = 0 ∧ g.delayed ≠ some .high then
      { high := true, low := false, deadHigh := 0, deadLow := g.deadLow, delayed := none }
    else { high := false, low := false, deadHigh := deadHigh, deadLow := g.deadLow, delayed := some .high }
  | some .low =>
    if g.low then { g with high := false, deadLow := deadLow, delayed := none }
    else if deadLow = 0 ∧ g.delayed ≠ some .low then
      { high := false, low := true, deadHigh := g.deadHigh, deadLow := 0, delayed := none }
    else { high := false, low := false, deadHigh := g.deadHigh, deadLow := deadLow, delayed := some .low }

/-- The dead times of a half-bridge after `n` steps of 50 ns. -/
def Leg.pass (n : Nat) (g : Leg) : Leg :=
  { g with deadHigh := g.deadHigh - n, deadLow := g.deadLow - n }

/-- The dead time has passed: a delayed turn-on takes place (R70). (DESIGN CHOICE, log entry 37) -/
def Leg.elapse (g : Leg) : Leg :=
  match g.delayed with
  | none => g
  | some .high => if g.low then g else { g with high := true, deadHigh := 0, delayed := none }
  | some .low => if g.high then g else { g with low := true, deadLow := 0, delayed := none }

/-- A switch of the half-bridge conducts. -/
def Leg.conducts (g : Leg) : Bool := g.high || g.low

/-! ### One channel -/

/-- The PWM period in steps of 50 ns: 62.5 µs, 50 µs, 40 µs or 32 µs (R67). -/
def periodTicks (c : Traction) : Nat :=
  match c.pwmFreq with
  | 0 => 1250
  | 1 => 1000
  | 2 => 800
  | _ => 640

/-- The first step of the on interval, which lasts `d`/1024 of the period and is centred on its middle (R69). A start between two
steps is rounded up to the later one. (DESIGN CHOICE, log entry 45) -/
def onStart (c : Traction) (d : Nat) : Nat := (periodTicks c * (1024 - d) + 2047) / 2048

/-- The first step after the on interval (R69). An end between two steps is rounded up to the later one.
(DESIGN CHOICE, log entry 45) -/
def onEnd (c : Traction) (d : Nat) : Nat := (periodTicks c * (1024 + d) + 2047) / 2048

/-- In DRIVE_BRAKE the driving leg's low switch conducts for the off interval less one dead time at each end, and not at all
when the off interval is no longer than twice the dead time (R70). -/
def drivingLowWanted (c : Traction) (ch : Channel) : Bool :=
  decide (2 * c.deadTime * 1024 < periodTicks c * (1024 - ch.duty))
  && (ch.phase != .before || ch.duty == 0 || decide (ch.pos.getD 0 + c.deadTime < onStart c ch.duty))

/-- What the driving leg and the return leg are to conduct (R68, R69, R75). -/
def wanted (c : Traction) (ch : Channel) : Option Switch × Option Switch :=
  match ch.mode with
  | .off => (none, none)
  | .float => (none, none)
  | .brake => (some .low, some .low)
  | .drive =>
    match ch.phase with
    | .on => (some .high, some .low)
    | .limited => match c.limitOff with
      | .coast => (none, none)
      | .brake => (some .low, some .low)
    | _ => match c.offStyle with
      | .coast => (none, none)
      | .brake => (if drivingLowWanted c ch then some .low else none, some .low)

/-- The channel with its switches brought to its pattern. The driving leg is leg 1 in FORWARD, leg 2 in REVERSE (R69). -/
def Channel.apply (c : Traction) (ch : Channel) : Channel :=
  let w := wanted c ch
  match ch.dir with
  | .forward => { ch with leg1 := ch.leg1.bring c.deadTime w.1, leg2 := ch.leg2.bring c.deadTime w.2 }
  | .reverse => { ch with leg1 := ch.leg1.bring c.deadTime w.2, leg2 := ch.leg2.bring c.deadTime w.1 }

/-- A switch of the channel conducts. -/
def Channel.conducts (ch : Channel) : Bool := ch.leg1.conducts || ch.leg2.conducts

/-- Both dead times of both half-bridges after `n` steps. -/
def Channel.pass (n : Nat) (ch : Channel) : Channel :=
  { ch with leg1 := ch.leg1.pass n, leg2 := ch.leg2.pass n }

/-- Where the period stands at position `p` (R69): an interrupted on interval does not come back. -/
def phaseAt (c : Traction) (d p : Nat) : PeriodPhase → PeriodPhase
  | .before => if d = 0 ∨ p < onStart c d then .before else if p < onEnd c d then .on else .after
  | .on => if p < onEnd c d then .on else .after
  | x => x

/-- The PWM counter at position `p`, with the switches that follow. -/
def Channel.arrive (c : Traction) (p : Nat) (ch : Channel) : Channel :=
  Channel.apply c { ch.pass (p - ch.pos.getD 0) with pos := some p, phase := phaseAt c ch.duty p ch.phase }

/-- The PWM counter counted on to `p` by way of the positions of a list that lie ahead of it. -/
def Channel.via (c : Traction) (p : Nat) : List Nat → Channel → Channel
  | [], ch => if ch.pos.getD 0 < p then ch.arrive c p else ch
  | q :: qs, ch =>
    Channel.via c p qs (if ch.pos.getD 0 < q ∧ q < p then ch.arrive c q else ch)

/-- The PWM counter counted on to `p`, through the start and the end of the on interval. (DESIGN CHOICE, log entry 30) -/
def Channel.moveTo (c : Traction) (p : Nat) (ch : Channel) : Channel :=
  if ch.pos.isSome then
    ch.via c p [onStart c ch.duty - c.deadTime, onStart c ch.duty, onEnd c ch.duty]
  else ch

/-- 50 ns pass: the dead times run, and a running PWM counter counts on to the last step of its period. -/
def Channel.tick (c : Traction) (ch : Channel) : Channel :=
  match ch.pos with
  | none => ch.pass 1
  | some p => if p + 1 < periodTicks c then ch.arrive c (p + 1) else ch.pass 1

/-- A duty handed by SRG (R71). Outside DRIVE it is kept as the applied duty. In DRIVE a higher one waits for the next period
start, and a lower one applies at once, ending an on interval that it would already have ended. (DEDUCED, log entry 20) -/
def Channel.hand (c : Traction) (d : Nat) (ch : Channel) : Channel :=
  if ch.mode ≠ .drive then { ch with duty := d, raised := none }
  else if ch.duty = d then { ch with raised := none }
  else if ch.duty < d then { ch with raised := some d }
  else
    let done := ch.phase = .on ∧ (d = 0 ∨ onEnd c d ≤ ch.pos.getD 0)
    Channel.apply c { ch with duty := d, raised := none, phase := if done then .after else ch.phase }

/-- A change of mode at once, with the switches that follow. An entry to OFF sets the persistence count to 0 (R68, R76). -/
def Channel.enter (c : Traction) (m : Mode) (ch : Channel) : Channel :=
  if ch.mode = m then ch
  else Channel.apply c { ch with mode := m, persist := if m = .off then 0 else ch.persist }

/-- The mode that R68's table gives, followed outside a float window: OFF and BRAKE at once, DRIVE at the next period start. -/
def Channel.follow (c : Traction) (m : Mode) (ch : Channel) : Channel :=
  if m = .drive then ch else ch.enter c m

/-- A float window opens (R72): the switches turn off, and the present period is neither CBC-limited nor sampled.
(DEDUCED, log entry 19) -/
def Channel.openFloat (c : Traction) (ch : Channel) : Channel :=
  let took := ch.periodSample.isSome
  Channel.apply c
    { ch with
      mode := .float, overlap := true,
      cbcMark := if ch.periodCbc then false else ch.cbcMark, periodCbc := false,
      sum := ch.sum - ch.periodSample.getD 0, count := if took then ch.count - 1 else ch.count, periodSample := none }

/-- The next period starts (R69, R71): the counter runs out its period and restarts, and a raised duty is applied. -/
def Channel.newPeriod (c : Traction) (windowOpen : Bool) (ch : Channel) : Channel :=
  let done := ch.moveTo c (periodTicks c)
  { done with
    pos := some 0, phase := .before, duty := done.raised.getD done.duty, raised := none, overlap := windowOpen,
    periodSample := none, periodCbc := false }

/-- The channel at a trip (R79): all switches off, OFF, the count and the mark cleared, and the average 0 (R74). -/
def Channel.tripped (c : Traction) (ch : Channel) : Channel :=
  Channel.apply c
    { ch with
      mode := .off, persist := 0, cbcMark := false, periodCbc := false, avg := 0, sum := 0, count := 0,
      periodSample := none }

/-- The channel at entry to HALTED (R84): the applied direction is kept. -/
def Channel.halted (c : Traction) (ch : Channel) : Channel :=
  { Channel.tripped c ch with pos := none, duty := 0, raised := none, phase := .before, overlap := false }

/-! ### The unit -/

/-- A motor's channel. -/
def State.chan (s : State) (m : Motor) : Channel := s.bfu.chans.get m

/-- The state with a function applied to one motor's channel. -/
def State.onChan (s : State) (m : Motor) (f : Channel → Channel) : State :=
  { s with bfu := { s.bfu with chans := s.bfu.chans.set m (f (s.bfu.chans.get m)) } }

/-- The state with a function applied to both channels. -/
def State.onChans (s : State) (f : Channel → Channel) : State :=
  { s with bfu := { s.bfu with chans := s.bfu.chans.map f } }

/-- The mode that the part state and the traction state give a channel (R68). -/
def State.modeOf (s : State) (m : Motor) : Mode :=
  if s.cfg.traction.present m = false then .off
  else if s.exc.part.driving = false then .off
  else if s.bfu.trip ≠ .none then .off
  else match s.srg.traction with
    | .standing => .off
    | .turning => if s.srg.r = 0 then .off else .drive
    | .eHeld => if s.srg.brakeOrder then .brake else .off
    | .moving => .drive
    | .eBrake => .drive
    | .tripped => .off

/-- BFU follows a change of the part state, the traction state or R; a float window stands over the modes (R68, R73). -/
def State.followModes (s : State) : State :=
  if s.bfu.window.isSome then s
  else (s.onChan .a (Channel.follow s.cfg.traction (s.modeOf .a))).onChan .b
    (Channel.follow s.cfg.traction (s.modeOf .b))

/-- SRG hands BFU a duty for one motor (R71). -/
def State.handDuty (s : State) (m : Motor) (d : Nat) : State :=
  s.onChan m (Channel.hand s.cfg.traction d)

/-- A float window opens on every present motor (R72). -/
def State.openWindow (s : State) (flip : Option Direction) : State :=
  let open1 := fun (s : State) (m : Motor) =>
    if s.cfg.traction.present m then s.onChan m (Channel.openFloat s.cfg.traction) else s
  let s1 := open1 (open1 s .a) .b
  { s1 with bfu := { s1.bfu with window := some ⟨.settling, flip⟩ } }

/-- The slip state, run count and faster motor as after reset (R81, R83). -/
def State.endSlip (s : State) : State :=
  { s with bfu := { s.bfu with slip := .normal, slipRun := 0, faster := none } }

/-- BFU at entry to HALTED (R84). -/
def State.haltBridge (s : State) : State :=
  let s1 := (s.onChans (Channel.halted s.cfg.traction)).endSlip
  { s1 with bfu := { s1.bfu with window := none } }

/-- BFU at the acceptance of adoption (R66, R84): reset values, the counters started from a period start, the qualified DRVFLT
level kept. -/
def State.adoptBridge (s : State) : State :=
  { s with bfu := { chans := PerMotor.both { pos := some 0 }, drvflt := s.bfu.drvflt } }

/-- DRVFLT is active: its qualified level is the active level (R78). Until it is qualified it is inactive. -/
def State.drvfltActive (s : State) : Bool :=
  s.bfu.drvflt == some s.cfg.traction.polarity

/-- 50 ns pass for both channels. (DESIGN CHOICE, log entry 2) -/
def State.pwmTick (s : State) : State :=
  s.onChans (Channel.tick s.cfg.traction)

end Sys2Proof.Machine
end

