-- ==== Sys2Proof/Machine/LightOps.lean ====
section
/-!
DEFINITION. The operations of the light unit that several meanings share: the cap (R155, R156), dimming, the flash of a chuff
(R154), and entry to HALTED (R156).
-/
namespace Sys2Proof.Machine

/-- The lamp cap (R155): 0 while HALTED (and while ADOPTING from HALTED, R156), otherwise by the supply state. -/
def State.lampCap (s : State) : Nat :=
  if s.haltedLike then 0
  else match s.sup.state with
    | .normal => 255
    | .lean => 255
    | .holdup => s.cfg.power.holdLamp
    | .dark => 0

/-- The program level of an effect value (R155): floor(v × dim level / 255) while dimmed. -/
def dimLevelOf (p : Program) (dimmed : Bool) (v : Nat) : Nat :=
  if dimmed then v * p.dimLevel / 255 else v

/-- How much of each 2 ms PWM period an output is on, in 256ths of it: as many as its level, and the whole period at 255 (R155). -/
def lampOnShare (level : Nat) : Nat := if 255 ≤ level then 256 else level

/-- The on share of an output's pin in the present period (R155). -/
def Lamp.onShare (l : Lamp) : Nat := lampOnShare l.pwm

/-- An output set to an effect value through the dimming and the cap (R155). -/
def Lamp.show (p : Program) (cap v : Nat) (l : Lamp) : Lamp :=
  let pl := dimLevelOf p l.dimmed v
  { l with program := pl, level := min pl cap }

/-- LGT recomputes the cap, and sets every output level to min(program level, new cap) (R156). (DEDUCED, log entry 21) -/
def State.recomputeLampCap (s : State) : State :=
  let c := s.lampCap
  { s with lgt := { s.lgt with cap := c, lamps := s.lgt.lamps.map fun l => { l with level := min l.program c } } }

/-- One output at a chuff (R154): a CHUFF_FLASH output takes its full flash time, and lights at once if it is active. -/
def Lamp.chuff (p : Program) (cap : Nat) (l : Lamp) : Lamp :=
  match p.effect with
  | .chuffFlash _ flash =>
    let l1 := { l with flash := flash * 10 }
    if l1.active then l1.show p cap p.level else l1
  | _ => l

/-- A chuff event reaches LGT (R154). -/
def State.flashChuff (s : State) : State :=
  { s with lgt := { s.lgt with
      lamps := Octet.ofFn fun k => (s.lgt.lamps.get k).chuff (s.cfg.lights.get k) s.lgt.cap } }

/-- An output at entry to HALTED (R156); its PWM takes the level 0 at its next period start (R155). -/
def Lamp.halted (l : Lamp) : Lamp := { pwm := l.pwm }

/-- LGT at entry to HALTED (R156): the flicker generator is kept. -/
def State.haltLights (s : State) : State :=
  { s with lgt := { s.lgt with timer := false, lamps := s.lgt.lamps.map Lamp.halted, cap := 0 } }

end Sys2Proof.Machine
end

