-- ==== Sys2Proof/Machine/SmokeOps.lean ====
section
/-!
DEFINITION. The operations of the smoke unit that several meanings share: the evaluation of the smoke state and its effects
on the outputs (R136), the puff (R142), and the heater allowance (R138).
-/
namespace Sys2Proof.Machine

/-- The smoke state and the temperature target by rank (R136). -/
def State.smokeRank (s : State) : SmokeState × SmokeTarget :=
  if s.smk.fault then (.sensorFault, .none)
  else if s.haltedLike then (.off, .none)
  else if s.sup.state ≠ .normal then (.shed, .none)
  else if s.smk.fluid = 0 then (.dry, .none)
  else if s.smk.hot then (.hot, .none)
  else if s.smk.enable = false then
    (if s.cfg.smoke.keepWarm then (.warming, .warm) else (.off, .none))
  else if s.cfg.smoke.tVapor ≤ s.smk.temp then (.ready, .set)
  else (.warming, .set)

/-- The smoke timer's owner acts on events: not in IDLE, nor ADOPTING from IDLE (R133). -/
def State.smokeActs (s : State) : Bool :=
  s.exc.part.driving || s.haltedLike

/-- The outputs at a change of state or target (R136): into READY the heater is off and the fan idles; into any other state
both are off and a puff is abandoned; a change of target in WARMING takes the heater off. -/
def Smk.change (idle : Nat) (x : SmokeState) (t : SmokeTarget) (k : Smk) : Smk :=
  if x ≠ k.state then
    if x = .ready then { k with state := x, target := t, heater := 0, fan := idle }
    else { k with state := x, target := t, heater := 0, fan := 0, puff := none }
  else if t ≠ k.target then { k with target := t, heater := 0 }
  else k

/-- SMK evaluates the smoke state, with the effects of a change on the outputs (R136). -/
def State.evalSmoke (s : State) : State :=
  { s with smk := s.smk.change s.cfg.smoke.idle s.smokeRank.1 s.smokeRank.2 }

/-- In READY with no puff running the fan runs at the idle duty of the active SMOKE group (R141). -/
def State.idleFan (s : State) : State :=
  { s with smk := { s.smk with
      fan := if s.smk.state = .ready ∧ s.smk.puff.isNone = true then s.cfg.smoke.idle else s.smk.fan } }

/-- A change of the smoke enable handed by DRQ (R39, R136). -/
def State.setSmokeEnable (s : State) (on : Bool) : State :=
  { s with smk := { s.smk with enable := on } }.evalSmoke

/-- A new heater allowance (R138): kept, and the heater duty lowered to it at once. -/
def State.setHlim (s : State) (h : Nat) : State :=
  { s with smk := { s.smk with hlim := h, heater := min s.smk.heater h } }

/-- The puff of a chuff of period `p` at labour `l` (R142). (DEDUCED, log entry 26) -/
def puffOf (c : Smoke) (now : Word) (p l : Nat) : Puff :=
  let length := min c.puffMax (p * 7 / 10)
  let kick := min c.kick length
  { moment := now, kick := kick, length := length, duty := clampNat ((c.base : Int) + l * c.step) 255, kickOver := kick == 0 }

/-- A chuff reaches SMK (R142): in READY it starts or restarts a puff; a puff length of 0 ends one that runs. -/
def State.puffChuff (s : State) (p : Nat) : State :=
  if s.smk.state = .ready then
    let f := puffOf s.cfg.smoke s.exc.ms p s.srg.labour
    if f.length = 0 then { s with smk := { s.smk with puff := none, fan := s.cfg.smoke.idle } }
    else { s with smk := { s.smk with puff := some f, fan := if f.kick = 0 then f.duty else 255 } }
  else s

/-- SMK at entry to HALTED (R144): both outputs off, the puff abandoned, the state evaluated. -/
def State.haltSmoke (s : State) : State :=
  { s with smk := { s.smk with heater := 0, fan := 0, puff := none } }.evalSmoke

end Sys2Proof.Machine
end

