-- ==== Sys2Proof/Machine/SoundOps.lean ====
section
/-!
DEFINITION. The operations of the sound engine that several meanings share: voice ends and end records (R110, R111), start
requests and their outcomes (R101, R119, R130), releases and cuts by tag (R108, R109), keys (R123, R124), the caps (R113),
the background request (R127) and shedding (R115).
-/
namespace Sys2Proof.Machine

/-- The squeal's tag (R130). -/
def squealTag : Half := 0x8010

/-- Key `k`'s tag (R123). -/
def keyTag (k : Nat) : Half := BitVec.ofNat 16 (0x8000 + k)

/-- A voice is active in PLAYING, LOOPING and RELEASED (R99). -/
def Voice.active (v : Voice) : Bool := v.state != .free

/-- The pool voices (R99). -/
def poolVoices : List (Fin 8) := [2, 3, 4, 5, 6, 7]

/-- Voice `v`'s record. -/
def State.voice (s : State) (v : Fin 8) : Voice := s.snd.voices.get v

/-- The state with voice `v`'s record replaced. -/
def State.setVoice (s : State) (v : Fin 8) (x : Voice) : State :=
  { s with snd := { s.snd with voices := s.snd.voices.set v x } }

/-- The entry of the end list that the next record goes into (R111). -/
def endSlot (count : Word) : Fin 8 := Fin.ofNat 8 (count.toNat % 8)

/-- An end record is appended, the end count advances, and VOICE_END is latched (R111). -/
def State.endRecord (s : State) (r : EndRecord) : State :=
  { s with snd := { s.snd with endList := s.snd.endList.set (endSlot s.snd.endCount) r, endCount := s.snd.endCount + 1 } }.latch
    .voiceEnd

/-- The squeal's answer to the end of a voice of tag 0x8010 (R130). (DEDUCED, log entry 15) -/
def squealAfterEnd (tag : Half) (q : SquealState) : SquealState :=
  if tag = squealTag ∧ q = .sounding then .spent else q

/-- The end record of a voice's tag, if it is tagged (R111). -/
def State.recordEnd (s : State) (tag : Half) (reason : EndReason) (v : Fin 8) : State :=
  if tag = 0 then s else s.endRecord ⟨tag, reason, v.val⟩

/-- A voice ends (R110): the end record if it is tagged, off the start order list, and FREE. A voice that is not active is
left as it is. -/
def State.endVoice (s : State) (v : Fin 8) (reason : EndReason) : State :=
  let x := s.voice v
  if x.active then
    let s1 := s.recordEnd x.tag reason v
    { s1 with snd := { s1.snd with
        order := s1.snd.order.erase v, voices := s1.snd.voices.set v {}, squeal := squealAfterEnd x.tag s1.snd.squeal } }
  else s

/-- SND hands back a start's outcome to its requester (R119, R130): a waiting scan keeps it until it goes on, and a SOUNDING
squeal falls SILENT unless the start was made. With two squeal starts waiting, one asked for before a release and one after it, the
outcome of either counts. (DESIGN CHOICE, log entry 50) -/
def State.handBack (s : State) (asker : Requester) (o : StartOutcome) : State :=
  match asker with
  | .playCue => { s with exc := { s.exc with scan := s.exc.scan.map fun w => { w with outcome := some o } } }
  | .squeal =>
    match o with
    | .started _ => s
    | _ => { s with snd := { s.snd with squeal := if s.snd.squeal = .sounding then .silent else s.snd.squeal } }
  | _ => s

/-- A start request enters the start queue, or is refused at once with NO_VOICE while 32 wait (R101). -/
def State.requestStart (s : State) (r : StartReq) : State :=
  if 32 ≤ s.snd.queue.length then s.handBack r.asker (.refused .noVoice)
  else { s with snd := { s.snd with queue := s.snd.queue ++ [r] } }

/-- The active pool voice that carries a tag, the lowest-numbered one (R99: no two active voices carry one tag). -/
def State.taggedVoice (s : State) (tag : Half) : Option (Fin 8) :=
  poolVoices.find? fun v => (s.voice v).active && (s.voice v).tag == tag

/-- The release mark of R108 on a waiting start. -/
def StartReq.markTag (tag : Half) (r : StartReq) : StartReq :=
  { r with mark := r.mark || r.tag == tag }

/-- A release by tag (R108): a LOOPING voice of the tag becomes RELEASED, and waiting starts of the tag, the one in progress
among them, are marked. Tag 0 finds and marks nothing. -/
def State.releaseTag (s : State) (tag : Half) : State :=
  if tag = 0 then s
  else
    let s1 : State := match s.taggedVoice tag with
      | some v => if (s.voice v).state = VoiceState.looping then s.setVoice v { s.voice v with state := .released } else s
      | none => s
    { s1 with snd := { s1.snd with
        queue := s1.snd.queue.map (StartReq.markTag tag),
        current := s1.snd.current.map fun w => { w with req := w.req.markTag tag } } }

/-- The outcomes handed back for a list of starts, in order. -/
def State.handBackAll (o : StartOutcome) : List StartReq → State → State
  | [], s => s
  | r :: rest, s => State.handBackAll o rest (s.handBack r.asker o)

/-- A cut by tag (R109): the active voice of the tag ends CUT, and every waiting start of the tag is withdrawn. A start in
progress is not removed. Tag 0 ends and removes nothing. The voice ends before the outcomes WITHDRAWN are handed back, so that a
SOUNDING squeal that loses both its voice and a waiting start is SPENT (R130). (DESIGN CHOICE, log entry 46) -/
def State.cutTag (s : State) (tag : Half) : State :=
  if tag = 0 then s
  else
    let gone := s.snd.queue.filter fun r => r.tag == tag
    let s1 := { s with snd := { s.snd with queue := s.snd.queue.filter fun r => r.tag != tag } }
    let s2 : State := match s1.taggedVoice tag with
      | some v => s1.endVoice v .cut
      | none => s1
    State.handBackAll .withdrawn gone s2

/-! ### Keys (R123, R124) -/

/-- Key `k` of the active SOUND group; an absent key has clip none. -/
def State.key (s : State) (k : Nat) : Key := s.cfg.sound.keys.getD k {}

/-- A key start (R123). -/
def State.keyStart (s : State) (k : Nat) : State :=
  match (s.key k).clip with
  | none => s
  | some c => s.requestStart
      { cls := .pool, asker := .key, clip := c, pitch := 256, volume := (s.key k).volume, priority := (s.key k).priority,
        tag := keyTag k, loop := (s.key k).mode == .hold }

/-- A key end (R124): a release by the key's tag, for a HOLD key with a clip. -/
def State.keyEnd (s : State) (k : Nat) : State :=
  if (s.key k).mode = .hold ∧ (s.key k).clip.isSome then s.releaseTag (keyTag k) else s

/-! ### Caps (R113) -/

/-- The supply cap (R113). -/
def supplyCap (p : Power) : Supply → Nat
  | .normal => 255
  | .lean => p.leanCap
  | .holdup => p.holdCap
  | .dark => 0

/-- The mute cap (R113). -/
def muteCap (mute : Bool) : Nat := if mute then 0 else 255

/-- SND recomputes the volume cap from the supply state and the mute level (R113). -/
def State.recomputeCap (s : State) : State :=
  { s with snd := { s.snd with cap := min (supplyCap s.cfg.power s.sup.state) (muteCap s.snd.mute) } }

/-- A mute change handed by DRQ (R39, R113). -/
def State.setMute (s : State) (m : Bool) : State :=
  { s with snd := { s.snd with mute := m } }.recomputeCap

/-! ### Background (R127) and shedding (R115) -/

/-- The BACKGROUND start request of R127, made unless the background clip is none. -/
def State.requestBackground (s : State) : State :=
  match s.cfg.sound.bgClip with
  | none => s
  | some c => s.requestStart
      { cls := .background, asker := .background, clip := c, pitch := 256, volume := s.cfg.sound.bgVolume, priority := 0,
        tag := 0, loop := true }

/-- A BACKGROUND start is waiting or in progress (R127). -/
def State.backgroundWaiting (s : State) : Bool :=
  (s.snd.queue.any fun r => r.cls == .background)
  || (match s.snd.current with
      | some w => w.req.cls == .background
      | none => false)

/-- Every active voice ends with one reason, in ascending voice number. -/
def State.endVoices (reason : EndReason) : List (Fin 8) → State → State
  | [], s => s
  | v :: rest, s => State.endVoices reason rest (s.endVoice v reason)

/-- SND at entry to DARK or to HALTED (R115): every active voice ends SHED, and every waiting start is refused INACTIVE, one
in progress at its decision. (DEDUCED, log entry 33) -/
def State.shedVoices (s : State) : State :=
  let s1 := State.endVoices .shed octetIndices s
  let s2 := { s1 with snd := { s1.snd with
      queue := [], current := s1.snd.current.map fun w => { w with doomed := true } } }
  State.handBackAll (.refused .inactive) s1.snd.queue s2

/-- Starts are refused INACTIVE: part state IDLE or HALTED, or supply DARK (R101). -/
def State.soundInactive (s : State) : Bool :=
  s.exc.part == .idle || s.exc.part == .halted || s.sup.state == .dark

end Sys2Proof.Machine
end

