-- ==== Sys2Proof/Machine/TractionOps.lean ====
section
/-!
DEFINITION. The operations of the speed regulator that several meanings share, with what they do to the other blocks: entry
to STANDING (R49, R92), entry to HALTED (R13, R62, R84, R95, R115, R144, R156), the end of STOPPING (R12), e-stops (R57),
trips (R60, R79), latch clears (R59, R80), the duty limit (R51), and the stop at DARK (R61).
-/
namespace Sys2Proof.Machine

/-! ### The chuff clock's share -/

/-- CHK at an entry to STANDING (R92). -/
def State.chuffStanding (s : State) : State :=
  { s with chk := { s.chk with acc := 65535, next := 0, first := true } }

/-- CHK at entry to HALTED (R95). -/
def State.haltChuff (s : State) : State :=
  { s with chk := { s.chk with
      level := none, previous := none, run := 0, prescale := 0, capture := none, lostTimer := none, acc := 65535, next := 0,
      first := true } }

/-! ### Duties -/

/-- A motor with D, I and sat at 0; Vf is kept. -/
def SrgMotor.rest (x : SrgMotor) : SrgMotor := { x with i := 0, sat := .zero, d := 0 }

/-- SRG sets D = 0, I = 0 and sat = 0 on every motor, and hands BFU duty 0 (R49, R58, R60, R62). -/
def State.zeroDuty (s : State) : State :=
  ({ s with srg := { s.srg with motors := s.srg.motors.map SrgMotor.rest } }.handDuty .a 0).handDuty .b 0

/-- The turn timer is stopped and its mark cleared (R54, R55, R60). -/
def State.stopTurn (s : State) : State :=
  { s with srg := { s.srg with turnTimer := none, turnMark := false } }

/-- The supply limit of R51. -/
def supplyLimit (c : Traction) (p : Power) : Supply → Nat
  | .normal => c.dmax
  | .lean => c.dmax
  | .holdup => p.holdDmax
  | .dark => 0

/-- The base limit Db (R51). -/
def State.baseLimit (s : State) (c : Traction) : Nat :=
  min c.dmax (supplyLimit c s.cfg.power s.sup.state)

/-- The duty limit Dlim of a motor under a TRACTION group (R51). -/
def State.dutyLimit (s : State) (c : Traction) (m : Motor) : Nat :=
  if s.bfu.slip = .slipping ∧ s.bfu.faster = some m then s.baseLimit c * (100 - c.slipCut) / 100
  else s.baseLimit c

/-- SRG's duty of a motor set and handed to BFU. -/
def State.setDuty (s : State) (m : Motor) (d : Nat) : State :=
  { s with srg := { s.srg with motors := s.srg.motors.set m { s.srg.motors.get m with d := d } } }.handDuty m d

/-- Between completions a change of the limit sets D to min(D, new Dlim) and hands it at once (R51). -/
def State.limitDuty (s : State) : State :=
  let s1 := s.setDuty .a (min (s.srg.motors.get .a).d (s.dutyLimit s.cfg.traction .a))
  s1.setDuty .b (min (s1.srg.motors.get .b).d (s1.dutyLimit s1.cfg.traction .b))

/-- Slip ended between completions by another event than N ticks (R83): where SLIPPING ends, the slip state changes and the limit is
recomputed at once (R51). -/
def State.stopSlip (s : State) : State :=
  if s.bfu.slip = .slipping then s.endSlip.limitDuty else s.endSlip

/-! ### Entry to STANDING and to HALTED -/

/-- An entry to STANDING (R49), without its report to EXC: duty 0, the chuff clock told, slip ended (R83). -/
def State.toStanding (s : State) : State :=
  (({ s with srg := { s.srg with traction := .standing } }.zeroDuty).chuffStanding.endSlip).followModes

/-- SRG at entry to HALTED (R62): the tick is abandoned, the timers stop, R and the duties are 0, the brake order is
withdrawn, and MOVING, TURNING and E_BRAKE become STANDING. -/
def State.haltTraction (s : State) : State :=
  let s1 := { s with srg := { s.srg with tick := none, regTimer := false, r := 0, brakeOrder := false } }.stopTurn.zeroDuty
  match s.srg.traction with
  | .moving => s1.toStanding
  | .turning => s1.toStanding
  | .eBrake => s1.toStanding
  | _ => s1

/-- SND at entry to HALTED (R115, R129, R131). -/
def State.haltSound (s : State) : State :=
  let s1 := s.shedVoices
  { s1 with snd := { s1.snd with squeal := .silent, squealCount := 0, squealDue := false } }

/-- The entry to HALTED (R13): the part state with its mirror, and every block's share; HALTED is latched. -/
def State.enterHalted (s : State) : State :=
  let s1 := ((s.setPart .halted).haltTraction.haltBridge).haltChuff
  let s2 := ((s1.haltSound).haltSmoke).haltLights
  { s2 with exc := { s2.exc with chuffHeld := false } }.latch .halted

/-- The traction states whose report ends STOPPING (R12). -/
def TractionState.ends : TractionState → Bool
  | .standing => true
  | .tripped => true
  | .eHeld => true
  | _ => false

/-- A traction state reported to EXC (R62): STANDING, TRIPPED and E_HELD end STOPPING, and so does supply DARK (R12). -/
def State.endStopping (s : State) : State :=
  if s.exc.part = .stopping ∧ (s.srg.traction.ends = true ∨ s.sup.state = .dark) then s.enterHalted else s

/-! ### Emergency stops, trips and latch clears -/

/-- SRG takes an e-stop (R57): R, D, I and sat are not changed. -/
def State.brakeEntry (s : State) : State :=
  match s.srg.traction with
  | .standing => { s with srg := { s.srg with traction := .eBrake } }.followModes
  | .moving => { s with srg := { s.srg with traction := .eBrake } }.followModes
  | .turning => { s with srg := { s.srg with traction := .eBrake } }.stopTurn.followModes
  | _ => s

/-- SRG at a trip (R60), without the report. -/
def State.tractionTripped (s : State) : State :=
  ({ s with srg := { s.srg with traction := .tripped, r := 0, brakeOrder := false } }.stopTurn.zeroDuty).endSlip

/-- A trip with one reason (R79): it takes effect only while the trip reason is none. -/
def State.tripNow (s : State) (reason : TripReason) : State :=
  if s.bfu.trip = .none then
    let s1 := s.onChans (Channel.tripped s.cfg.traction)
    (({ s1 with bfu := { s1.bfu with trip := reason } }.latch .trip).tractionTripped).endStopping
  else s

/-- BFU trips DRIVER as soon as DRVFLT is active, the part drives and the trip reason is none (R78). -/
def State.checkDriver (s : State) : State :=
  if s.drvfltActive = true ∧ s.exc.part.driving = true ∧ s.bfu.trip = .none then s.tripNow .driver else s

/-- BFU at a clear of TRIPPED (R80). -/
def State.clearTrip (s : State) : State :=
  { s with bfu := { s.bfu with
      trip := .none, chans := s.bfu.chans.map fun ch => { ch with persist := 0, cbcMark := false, periodCbc := false } } }

/-- SRG takes a latch clear (R59): from E_HELD and TRIPPED to STANDING. With DRVFLT still active, TRIPPED comes back at
once (R80). In any other state it has no effect. -/
def State.latchClear (s : State) : State :=
  match s.srg.traction with
  | .eHeld => ({ s with srg := { s.srg with brakeOrder := false } }.toStanding).endStopping
  | .tripped => (s.clearTrip.toStanding.endStopping).checkDriver
  | _ => s

/-! ### DARK -/

/-- SRG at entry to DARK (R61): S is kept. -/
def State.darkStop (s : State) : State :=
  match s.srg.traction with
  | .eHeld => s
  | .tripped => s
  | .standing => { s with srg := { s.srg with r := 0 } }.stopTurn
  | _ => ({ s with srg := { s.srg with r := 0 } }.stopTurn.toStanding).endStopping

/-- SND's background request at a change of supply state to NORMAL or LEAN (R127). -/
def State.supplyBackground (s : State) : State :=
  if s.sup.state.good = true ∧ s.exc.part.driving = true ∧ (s.voice 1).active = false ∧ s.backgroundWaiting = false then
    s.requestBackground
  else s

/-- What SND does with a change of supply state: the cap, shedding at DARK, the background (R113, R115, R127). -/
def State.supplySound (s : State) : State :=
  let s1 := s.recomputeCap
  if s1.sup.state = .dark then s1.shedVoices else s1.supplyBackground

/-- A change of supply state (R177): SUPPLY_CHANGE is latched, and the new state is handed to SRG, SND, SMK, LGT and EXC. -/
def State.supplyChange (s : State) (x : Supply) : State :=
  let s1 := ({ s with sup := { s.sup with state := x } }.latch .supplyChange).limitDuty
  let s2 := if x = .dark then s1.darkStop else s1
  let s3 := s2.supplySound
  let s4 := if s3.smokeActs then s3.evalSmoke else s3
  s4.recomputeLampCap.endStopping

end Sys2Proof.Machine
end

