-- ==== Sys2Proof/Machine/RequestOps.lean ====
section
/-!
DEFINITION. The drive request unit: the throttle curve and S (R25, R26), the writers of the request (R28, R29, R31, R32),
e-stops (R33), zero requests (R34), and function operations with the function map (R36, R39, R40).
-/
namespace Sys2Proof.Machine

/-! ### The drive request -/

/-- The throttle curve (R26): a throttle of 0 is a stop, and P10 stands at 200. -/
def curveValue (points : List Nat) (t : Nat) : Nat :=
  if t = 0 then 0
  else if 200 ≤ t then points.getD 10 0
  else
    let k := t / 20
    let p := points.getD k 0
    p + (points.getD (k + 1) 0 - p) * (t - 20 * k) / 20

/-- The base value of an origin (R25 step 1). -/
def Origin.base (points : List Nat) : Origin → Nat
  | .speedUnits su => su
  | .throttle t => curveValue points t

/-- S as derived from the origin and the SHUNT modifier (R25). -/
def deriveS (points : List Nat) (o : Origin) (shunt : Bool) : Nat :=
  if shunt then o.base points / 2 else o.base points

/-- DRQ derives S (R25). -/
def State.derive (s : State) : State :=
  { s with drq := { s.drq with s := deriveS s.cfg.curve s.drq.origin s.drq.shunt } }

/-- The requested direction a request gives: FORWARD 0, REVERSE 1, and KEEP leaves it (R28, R29). -/
def directionOf (code : Nat) (d : Direction) : Direction :=
  if code = 0 then .forward else if code = 1 then .reverse else d

/-- A zero request in E_HELD or TRIPPED hands SRG a latch clear (R34). -/
def State.zeroRequest (s : State) : State :=
  if s.drq.s = 0 then s.latchClear else s

/-- A request from the host slot or a radio throttle (R28, R29), with the zero request it may be (R34). -/
def State.request (s : State) (src : Source) (o : Origin) (dirCode : Nat) : State :=
  { s with drq := { s.drq with source := src, origin := o, dir := directionOf dirCode s.drq.dir } }.derive.zeroRequest

/-- S = 0 with origin SPEED_UNITS 0: the stop order (R31), and the first effect of an e-stop (R33). -/
def State.stopOrder (s : State) : State :=
  { s with drq := { s.drq with origin := .speedUnits 0, s := 0 } }

/-- DRQ receives an e-stop (R33): the request is zeroed, SRG brakes (R57), and ESTOP is latched. -/
def State.eStop (s : State) : State :=
  s.stopOrder.brakeEntry.latch .estop

/-- DRQ is told that the holder is freed (R32): with source RADIO the record becomes FAILSAFE with S = 0. -/
def State.holderFreed (s : State) : State :=
  if s.drq.source = .radio then
    { s with drq := { s.drq with source := .failsafe, origin := .speedUnits 0, s := 0 } }
  else s

/-! ### Function state -/

/-- The ops of a function operation (R36). -/
inductive FunctionOp where
  | set
  | clear
  | toggle
  deriving DecidableEq, Repr

/-- The op of a code: SET 1, CLEAR 2, TOGGLE 3; any other is no op (R37, R168). -/
def functionOpOf (code : Nat) : Option FunctionOp :=
  if code = 1 then some .set
  else if code = 2 then some .clear
  else if code = 3 then some .toggle
  else none

/-- Function state after an operation (R36). -/
def FunctionOp.act (op : FunctionOp) (mask f : BitVec 32) : BitVec 32 :=
  match op with
  | .set => f ||| mask
  | .clear => f &&& ~~~mask
  | .toggle => f ^^^ mask

/-- The targets of function `n` in the active map. -/
def Groups.targets (g : Groups) (n : Nat) : List Target := g.map.getD n []

/-- A set function binds a target (R39). -/
def levelOn (g : Groups) (f : BitVec 32) (t : Target) : Bool :=
  (List.range 32).any fun n => f.getLsbD n && (g.targets n).contains t

/-- A changed smoke enable is handed to SMK (R39). -/
def State.handSmoke (s : State) : State :=
  let on := levelOn s.cfg s.drq.functions .smoke
  if on = s.drq.smokeEnable then s
  else { s with drq := { s.drq with smokeEnable := on } }.setSmokeEnable on

/-- A changed mute is handed to SND (R39). -/
def State.handMute (s : State) : State :=
  let on := levelOn s.cfg s.drq.functions .mute
  if on = s.drq.mute then s
  else { s with drq := { s.drq with mute := on } }.setMute on

/-- A changed SHUNT re-derives S (R25, R39). -/
def State.handShunt (s : State) : State :=
  let on := levelOn s.cfg s.drq.functions .shunt
  if on = s.drq.shunt then s
  else { s with drq := { s.drq with shunt := on } }.derive

/-- MOMENTUM_OFF as SRG reads it at its next tick (R39). -/
def State.handMomentum (s : State) : State :=
  { s with drq := { s.drq with momentumOff := levelOn s.cfg s.drq.functions .momentumOff } }

/-- The four levels evaluated over function state, and each change handed on (R39). -/
def State.evalLevels (s : State) : State :=
  s.handSmoke.handMute.handShunt.handMomentum

/-- The sound keys on function `n`'s list, in list order. -/
def Groups.keysOf (g : Groups) (n : Nat) : List Nat :=
  (g.targets n).filterMap fun t => match t with
    | .soundKey k => some k
    | _ => Option.none

/-- The keys of the functions of a mask, in ascending function number and list order (R40). -/
def Groups.keysIn (g : Groups) (mask : BitVec 32) : List Nat :=
  (List.range 32).flatMap fun n => if mask.getLsbD n then g.keysOf n else []

/-- Key starts handed in turn. -/
def State.startKeys : List Nat → State → State
  | [], s => s
  | k :: ks, s => State.startKeys ks (s.keyStart k)

/-- Key ends handed in turn; a ONESHOT key takes none (R40, R124). -/
def State.endKeys : List Nat → State → State
  | [], s => s
  | k :: ks, s => State.endKeys ks (s.keyEnd k)

/-- A function operation (R36): function state changes, and for a non-empty changed set the level changes are handed on
(R39), then every key end, and then every key start (R40). -/
def State.functionOp (s : State) (op : FunctionOp) (mask : BitVec 32) : State :=
  let f := op.act mask s.drq.functions
  let changed := f ^^^ s.drq.functions
  if changed = 0 then s
  else
    let s1 := { s with drq := { s.drq with functions := f } }.evalLevels
    State.startKeys (s1.cfg.keysIn (changed &&& f)) (State.endKeys (s1.cfg.keysIn (changed &&& ~~~f)) s1)

end Sys2Proof.Machine
end

