-- ==== Sys2Proof/Machine/ChuffOps.lean ====
section
/-!
DEFINITION. The chuff clock: the chuff event and what its four consumers do with it (R93, R94, R125, R142, R154, R15), the
sensor event (R87, R88, R89), the qualifier (R86), the lost timer (R90) and the virtual cam (R91).
-/
namespace Sys2Proof.Machine

/-- Labour classes LIGHT, NORMAL and HEAVY (R53), numbered 0, 1 and 2 as chuff sets number them (R117). -/
def labourClass (l : Nat) : Nat :=
  if l ≤ 2 then 0 else if l ≤ 4 then 1 else 2

/-- SND at a chuff of one index (R125): an empty set cuts voice 0, any other makes a CHUFF start request. -/
def State.chuffVoice (s : State) (index : Nat) : State :=
  let set := s.cfg.sound.sets.getD (3 * s.srg.band + labourClass s.srg.labour) []
  if set.length = 0 then s.endVoice 0 .cut
  else s.requestStart
    { cls := .chuff, asker := .chuff, clip := set.getD (index % set.length) 0, pitch := 256,
      volume := s.cfg.sound.chuffVolume.getD s.srg.labour 0, priority := 0, tag := 0, loop := false }

/-- The take moment AT_CHUFF (1.5). -/
def atChuffMoment : Byte := 2

/-- A chuff reaches EXC (R15): in RUNNING, with a post that the latest scan found pending AT_CHUFF, its take is to be made. -/
def State.chuffToSlot (s : State) : State :=
  if s.exc.part = .running ∧ s.exc.slotState = .pending ∧ s.exc.slotMoment = atChuffMoment ∧ s.exc.slotEmergency = 0 then
    { s with exc := { s.exc with chuffHeld := true } }
  else s

/-- The period of the next chuff event (R93). -/
def Chk.period (k : Chk) : Nat := if k.first then 65535 else k.interval

/-- A chuff event (R93), handed to its four consumers (R94). -/
def State.chuffEvent (s : State) : State :=
  let index := s.chk.next
  let p := s.chk.period
  let s1 := { s with chk := { s.chk with
      lastChuff := p, next := (index + 1) % s.cfg.chuff.perCycle, first := false, interval := 0, count := s.chk.count + 1 } }
  (((s1.chuffVoice index).puffChuff p).flashChuff).chuffToSlot

/-! ### The sensor path -/

/-- The largest period the capture timer measures (R88). -/
def captureMax : Nat := 16777215

/-- The capture timer, 50 µs after the previous sample (R86, R88). -/
def Chk.capturePass (k : Chk) : Chk :=
  { k with capture := k.capture.map fun t => min captureMax (t + 50) }

/-- A sensor event's capture (R88). -/
def Chk.captureEvent (k : Chk) : Chk :=
  { k with lastSensor := k.capture.getD captureMax, capture := some 0 }

/-- A running lost timer restarts with the full lost time (R90). -/
def State.restartLost (s : State) : State :=
  { s with chk := { s.chk with lostTimer := s.chk.lostTimer.map fun _ => s.cfg.chuff.lostTime } }

/-- A sensor event (R88), judged by the source state (R89). -/
def State.sensorEvent (s : State) : State :=
  let s1 := { s with chk := s.chk.captureEvent }
  match s1.chk.source with
  | .virtual => s1
  | .sensorLive => s1.chuffEvent.restartLost
  | .sensorLost =>
    if s1.chk.lastSensor < s1.cfg.chuff.lostTime * 1000 then
      { s1 with chk := { s1.chk with source := .sensorLive } }.chuffEvent.restartLost
    else s1

/-- The qualified edges that the edge selection admits: a change to high is rising, to low falling (R87). -/
def EdgeSelect.admits (e : EdgeSelect) (x : Level) : Bool :=
  match e, x with
  | .rising, .high => true
  | .falling, .low => true
  | .both, _ => true
  | _, _ => false

/-- A qualified edge (R87): admitted edges count toward the prescale, and the P-th is a sensor event. -/
def State.qualifiedEdge (s : State) (x : Level) : State :=
  if s.cfg.chuff.edge.admits x then
    if s.cfg.chuff.prescale ≤ s.chk.prescale + 1 then { s with chk := { s.chk with prescale := 0 } }.sensorEvent
    else { s with chk := { s.chk with prescale := s.chk.prescale + 1 } }
  else s

/-- One AXS sample at the qualifier (R86): the new qualifier state, and the level of a qualified edge if one is produced. -/
def Chk.qualify (k : Chk) (count : Nat) (x : Level) : Chk × Option Level :=
  match k.level with
  | none =>
    let run := if k.previous = some x then k.run + 1 else 1
    if count ≤ run then ({ k with level := some x, run := 0, previous := some x }, none)
    else ({ k with run := run, previous := some x }, none)
  | some q =>
    if q = x then ({ k with run := 0, previous := some x }, none)
    else if count ≤ k.run + 1 then ({ k with level := some x, run := 0, previous := some x }, some x)
    else ({ k with run := k.run + 1, previous := some x }, none)

/-! ### At a completion -/

/-- The lost timer judged against Vl (R90): it runs only in SENSOR_LIVE. -/
def State.judgeLost (s : State) : State :=
  if s.chk.source = .sensorLive then
    let t :=
      if s.srg.vl < s.cfg.chuff.moving then none
      else match s.chk.lostTimer with
        | some t => some t
        | none => some s.cfg.chuff.lostTime
    { s with chk := { s.chk with lostTimer := t } }
  else s

/-- The virtual cam's increment (R91). -/
def camIncrement (kcam vl : Nat) : Nat := min 65535 (vl * kcam / 64)

/-- A virtual wrap is a chuff in source mode VIRTUAL, and in AUTO while the sensor is lost (R91). -/
def State.wrapChuffs (s : State) : Bool :=
  match s.cfg.chuff.mode with
  | .virtual => true
  | .auto => s.chk.source == .sensorLost
  | .sensor => false

/-- The virtual cam at a completion (R91). -/
def State.camAdvance (s : State) : State :=
  if s.srg.traction = .standing then s
  else
    let sum := s.chk.acc + camIncrement s.cfg.chuff.kcam s.srg.vl
    if 65536 ≤ sum then
      let s1 := { s with chk := { s.chk with acc := sum - 65536 } }
      if s1.wrapChuffs then s1.chuffEvent else s1
    else { s with chk := { s.chk with acc := sum } }

end Sys2Proof.Machine
end

