-- ==== Sys2Proof/Machine/RadioOps.lean ====
section
/-!
DEFINITION. The radio receiver: the assembly buffers (R159), the holder (R166, R167), the steps of acceptance (R162–R166), and
dispatch (R168, R169).
-/
namespace Sys2Proof.Machine

/-! ### Buffers -/

/-- A free assembly buffer, if there is one (R159); the first one where both are free. (DESIGN CHOICE, log entry 47) -/
def Rrx.freeBuffer (r : Rrx) : Option BufferId :=
  if r.buf1.isNone then some .one else if r.buf2.isNone then some .two else none

/-- An assembly buffer set free or busy with bytes. -/
def Rrx.setBuffer (r : Rrx) (b : BufferId) (x : Option (List Byte)) : Rrx :=
  match b with
  | .one => { r with buf1 := x }
  | .two => { r with buf2 := x }

/-- The state with an assembly buffer set free (R159). -/
def State.freeBuffer (s : State) (b : BufferId) : State :=
  { s with rrx := s.rrx.setBuffer b none }

/-- The link switched off, with both buffers free (R161). -/
def Rrx.linkOff (r : Rrx) : Rrx :=
  { r with link := false, lastEnd := none, frame := none, buf1 := none, buf2 := none }

/-! ### The holder -/

/-- The holder is freed: none, the failsafe timer stopped, and DRQ told (R32, R167, R169, R172). -/
def State.freeHolder (s : State) : State :=
  { s with rrx := { s.rrx with holder := none, failsafe := none } }.holderFreed

/-- A sender becomes or stays the holder, heard now, with the full failsafe time (R166). -/
def State.hearHolder (s : State) (id : Half) : State :=
  { s with rrx := { s.rrx with holder := some ⟨id, s.exc.ms⟩, failsafe := some s.cfg.radio.failsafe } }

/-- The sender is the holder. -/
def State.isHolder (s : State) (id : Half) : Bool :=
  match s.rrx.holder with
  | some h => h.id == id
  | none => false

/-- A checked frame refreshes the holder it comes from (R160, R166). -/
def State.refreshHolder (s : State) (id : Half) : State :=
  if s.isHolder id then s.hearHolder id else s

/-! ### Acceptance -/

/-- The group address, when a group is configured (R162). -/
def Radio.groupAddress (c : Radio) : Option Nat :=
  if c.group = 0 then none else some (4095 + c.group)

/-- The frame came via the group address (R162). -/
def viaGroup (c : Radio) (f : Frame) : Bool := c.groupAddress == some f.target.toNat

/-- The address step (R162). -/
def addressPasses (c : Radio) (f : Frame) : Bool :=
  decide (1 ≤ f.sender.toNat ∧ f.sender.toNat ≤ 65534)
  && (f.target == 0 || f.target.toNat == c.unit || viaGroup c f)

/-- The repeat table's entry for a transmitter (R163). -/
def findEntry (t : Octet (Option RepeatEntry)) (id : Half) : Option (Fin 8) :=
  octetIndices.find? fun i => match t.get i with
    | some e => e.sender == id
    | none => false

/-- The lowest-numbered free entry (R163). -/
def freeEntry (t : Octet (Option RepeatEntry)) : Option (Fin 8) :=
  octetIndices.find? fun i => (t.get i).isNone

/-- The time since an entry was last heard, modulo 2^32 (R163). -/
def entryAge (t : Octet (Option RepeatEntry)) (now : Word) (i : Fin 8) : Nat :=
  match t.get i with
  | some e => (now - e.heard).toNat
  | none => 0

/-- The entry with the oldest last-heard time, the lower-numbered among equal times (R163). -/
def oldestEntry (t : Octet (Option RepeatEntry)) (now : Word) : Fin 8 :=
  octetIndices.foldl (fun best i => if entryAge t now best < entryAge t now i then i else best) 0

/-- The repeat step (R163): whether the frame is a REPEAT, and the table afterwards. -/
def repeatStep (t : Octet (Option RepeatEntry)) (id : Half) (seq : Byte) (now : Word) :
    Bool × Octet (Option RepeatEntry) :=
  match findEntry t id with
  | some i =>
    ((t.get i).any (fun e => e.seq == seq && decide ((now - e.heard).toNat < 300)), t.set i (some ⟨id, seq, now⟩))
  | none =>
    match freeEntry t with
    | some i => (false, t.set i (some ⟨id, seq, now⟩))
    | none => (false, t.set (oldestEntry t now) (some ⟨id, seq, now⟩))

/-- The frame kinds (R168). -/
inductive FrameKind where
  | throttle
  | function
  | estop
  | release
  | sound
  | hostData
  deriving DecidableEq, Repr

/-- The kind of a code, if R168's table lists it. -/
def frameKind (k : Byte) : Option FrameKind :=
  match k.toNat with
  | 1 => some .throttle
  | 2 => some .function
  | 3 => some .estop
  | 4 => some .release
  | 5 => some .sound
  | n => if 16 ≤ n ∧ n ≤ 31 then some .hostData else none

/-- The payload's length and fields are ones the kind allows (R164, R168). -/
def payloadOk (k : FrameKind) (p : List Byte) : Bool :=
  match k with
  | .throttle => p.length == 2 && byteAt p 1 ≤ 2
  | .function => p.length == 5 && 1 ≤ byteAt p 0 && byteAt p 0 ≤ 3
  | .estop => p.length == 0
  | .release => p.length == 0
  | .sound => p.length == 2 && byteAt p 0 ≤ 15 && byteAt p 1 ≤ 1
  | .hostData => p.length ≤ 16

/-- The rights a sender has under the bind table, if it is bound (R165). -/
def boundRights (c : Radio) (id : Half) : Option Rights :=
  match c.binds with
  | [] => some .drive
  | bs => (bs.find? fun b => b.1 == id).map (·.2)

/-- A kind's needed right is among those of a bound sender (R165). -/
def rightSuffices (k : FrameKind) (r : Rights) : Bool :=
  match k with
  | .estop => true
  | .hostData => true
  | .function => r == .drive || r == .functions
  | .sound => r == .drive || r == .functions
  | .throttle => r == .drive
  | .release => r == .drive

/-- Step 3 (R164). -/
def stepPart (p : PartState) (k : Option FrameKind) : Option FrameVerdict :=
  match p with
  | .halted => some .inactive
  | .stopping => if k = some .estop then none else some .inactive
  | _ => none

/-- Step 4 (R164). -/
def stepBroadcast (f : Frame) (k : Option FrameKind) : Option FrameVerdict :=
  if f.target = 0 ∧ k ≠ some .estop ∧ k ≠ some .hostData then some .notForBroadcast else none

/-- Step 6 (R165). -/
def stepBind (c : Radio) (id : Half) (k : FrameKind) : Option FrameVerdict :=
  if k = .estop then none
  else match boundRights c id with
    | none => some .notBound
    | some r => if rightSuffices k r then none else some .noRight

/-- Steps 7 and 8 (R166). -/
def stepHolder (s : State) (id : Half) (k : FrameKind) : Option FrameVerdict :=
  match k with
  | .throttle =>
    if s.cfg.radio.hostLead then some .hostGated
    else if s.rrx.holder.isNone ∨ s.isHolder id then none else some .notHolder
  | .release => if s.isHolder id then none else some .notHolder
  | _ => none

/-- Steps 3 to 8 (R162): the verdict of the first that fails, or the kind of a frame that passes them all. -/
def State.accept (s : State) (f : Frame) : FrameVerdict ⊕ FrameKind :=
  let k := frameKind f.kind
  match stepPart s.exc.part k with
  | some v => .inl v
  | none =>
    match stepBroadcast f k with
    | some v => .inl v
    | none =>
      match k with
      | none => .inl .unknownKind
      | some k =>
        if payloadOk k f.payload = false then .inl .badPayload
        else match stepBind s.cfg.radio f.sender k with
          | some v => .inl v
          | none =>
            match stepHolder s f.sender k with
            | some v => .inl v
            | none => .inr k

/-! ### Dispatch (R169) -/

/-- The direction code of a THROTTLE frame, reversed via the group address with group reverse on; KEEP stays KEEP. -/
def throttleDirection (c : Radio) (f : Frame) : Nat :=
  let d := byteAt f.payload 1
  if c.groupReverse = true ∧ viaGroup c f = true then (if d = 0 then 1 else if d = 1 then 0 else d) else d

/-- The mask of a FUNCTION frame, big-endian (R158, R168). -/
def frameMask (p : List Byte) : BitVec 32 :=
  BitVec.ofNat 32 (65536 * beHalfAt p 1 + beHalfAt p 3)

/-- A THROTTLE frame (R166, R169): the sender takes the holder's place if it is empty, and DRQ receives the throttle. -/
def State.dispatchThrottle (s : State) (f : Frame) : State :=
  let s1 := if s.rrx.holder.isNone then s.hearHolder f.sender else s
  s1.request .radio (.throttle (min (byteAt f.payload 0) 200)) (throttleDirection s.cfg.radio f)

/-- A frame that passed every step acts (R169). -/
def State.dispatch (s : State) (f : Frame) (k : FrameKind) : State :=
  match k with
  | .throttle => s.dispatchThrottle f
  | .function =>
    match functionOpOf (byteAt f.payload 0) with
    | some op => s.functionOp op (frameMask f.payload)
    | none => s
  | .estop => s.eStop
  | .release => s.freeHolder
  | .sound => if byteAt f.payload 1 = 0 then s.keyStart (byteAt f.payload 0) else s.keyEnd (byteAt f.payload 0)
  | .hostData => s

/-- The verdict of a frame that was dispatched (R169). -/
def dispatchVerdict : FrameKind → FrameVerdict
  | .hostData => .forHost
  | _ => .acted

/-- The record of a judged frame (R170). -/
def recordOf (f : Frame) (v : FrameVerdict) (now : Word) : InboxRecord :=
  { verdict := v, kind := f.kind, sender := f.sender, seq := f.seq, length := f.payload.length, target := f.target,
    time := now, signal := f.signal, payload := f.payload }

/-- A judged frame handed to the inbox writer; its buffer stays busy (R159, R170). -/
def State.toInbox (s : State) (r : InboxRecord) (b : BufferId) : State :=
  { s with exc := { s.exc with inboxQueue := s.exc.inboxQueue ++ [⟨r, b⟩] } }

/-- Steps 3 to 8, dispatch and the hand-over to the inbox writer (R162, R169, R170): a frame acts before it is recorded. -/
def State.judgeFrame (s : State) (f : Frame) (b : BufferId) : State :=
  match s.accept f with
  | .inl v => s.toInbox (recordOf f v s.exc.ms) b
  | .inr k => (s.dispatch f k).toInbox (recordOf f (dispatchVerdict k) s.exc.ms) b

/-- A checked frame (R160, R162): signal strength and holder first, then the address step and the repeat step. -/
def State.checkedFrame (s : State) (f : Frame) (b : BufferId) : State :=
  let s1 := { s with rrx := { s.rrx with signal := f.signal } }.refreshHolder f.sender
  if addressPasses s1.cfg.radio f then
    let r := repeatStep s1.rrx.table f.sender f.seq s1.exc.ms
    let s2 := { s1 with rrx := { s1.rrx with table := r.2 } }
    if r.1 then s2.freeBuffer b else s2.judgeFrame f b
  else s1.freeBuffer b

end Sys2Proof.Machine
end

