-- ==== Sys2Proof/Machine/SupplyOps.lean ====
section
/-!
DEFINITION. The supply monitor: the run counts and the changes of supply state (R174, R175, R176), the hold-up timer (R175,
R180), and the current share (R178).
-/
namespace Sys2Proof.Machine

/-- Every run count 0 (R174, R180). -/
def Sup.clearRuns (u : Sup) : Sup := { u with lean := 0, recover := 0, loss := 0, ret := 0 }

/-- A change of supply state, with every run count 0 and the hold-up timer stopped (R174, R175, R177). -/
def State.changeSupply (s : State) (x : Supply) : State :=
  { s with sup := { s.sup.clearRuns with holdup := none } }.supplyChange x

/-- The supply is lost in NORMAL or LEAN (R174): HOLDUP with its timer started, or DARK at once when the hold-up time is 0 or
the storage is too low. -/
def State.supplyLost (s : State) : State :=
  if s.cfg.power.holdTime = 0 ∨ s.sup.vh < s.cfg.power.vhMin then s.changeSupply .dark
  else { s with sup := { s.sup.clearRuns with holdup := some s.cfg.power.holdTime } }.supplyChange .holdup

/-- A run count after a sample that does or does not meet its condition (11.3). -/
def runAfter (n : Nat) (meets : Bool) : Nat := if meets then n + 1 else 0

/-- A sample judged in NORMAL (R174). A loss takes precedence over LEAN. -/
def State.judgeNormal (s : State) : State :=
  let u := s.sup
  let c := s.cfg.power
  let loss := runAfter u.loss (u.vs < c.vOff)
  let lean := runAfter u.lean (u.vs < c.vLean)
  let s1 := { s with sup := { u with loss := loss, lean := lean } }
  if 2 ≤ loss then s1.supplyLost
  else if c.qualifier ≤ lean then s1.changeSupply .lean
  else s1

/-- A sample judged in LEAN (R174). -/
def State.judgeLean (s : State) : State :=
  let u := s.sup
  let c := s.cfg.power
  let loss := runAfter u.loss (u.vs < c.vOff)
  let recover := runAfter u.recover (c.vLean + 500 ≤ u.vs)
  let s1 := { s with sup := { u with loss := loss, recover := recover } }
  if 2 ≤ loss then s1.supplyLost
  else if c.qualifier ≤ recover then s1.changeSupply .normal
  else s1

/-- The return run count advanced, and the change to NORMAL at the count Q (R175, R176). -/
def State.judgeReturn (s : State) : State :=
  let ret := runAfter s.sup.ret (s.cfg.power.vOn ≤ s.sup.vs)
  if s.cfg.power.qualifier ≤ ret then s.changeSupply .normal
  else { s with sup := { s.sup with ret := ret } }

/-- A sample judged in HOLDUP (R175): the storage test comes before the return test. -/
def State.judgeHoldup (s : State) : State :=
  if s.sup.vh < s.cfg.power.vhMin then s.changeSupply .dark else s.judgeReturn

/-- A sample judged against the active POWER group (R174, R175, R176). -/
def State.judgeSupply (s : State) : State :=
  match s.sup.state with
  | .normal => s.judgeNormal
  | .lean => s.judgeLean
  | .holdup => s.judgeHoldup
  | .dark => s.judgeReturn

/-- The hold-up timer expires (R175): DARK, with the return run count kept. -/
def State.holdupExpires (s : State) : State :=
  { s with sup := { s.sup with lean := 0, recover := 0, loss := 0, holdup := none } }.supplyChange .dark

/-- The new POWER values at SUP (R180): run counts 0, and a running hold-up timer limited to the new hold-up time, which
expires it at once when that leaves 0. -/
def State.newPower (s : State) : State :=
  match s.sup.holdup with
  | none => { s with sup := s.sup.clearRuns }
  | some t =>
    let t' := min t s.cfg.power.holdTime
    let s1 := { s with sup := { s.sup.clearRuns with holdup := some t' } }
    if t' = 0 then s1.holdupExpires else s1

/-- Hlim from the motor currents (R178). -/
def heaterAllowance (c : Power) (current : Nat) : Nat :=
  min 255 ((c.budget - current - c.reserve) * 255 / c.heaterNom)

end Sys2Proof.Machine
end

