-- ==== Sys2Proof/Machine/ReloadOps.lean ====
section
/-!
DEFINITION. Making configuration groups active: a RELOAD of each group (R19, R65, R84, R27, R41, R132, R97, R146, R157, R172,
R180), and the acceptance and the refusal of adoption (R9, R10, with each block's initial values).
-/
namespace Sys2Proof.Machine

/-! ### RELOAD by group -/

/-- A motor that a RELOAD of TRACTION removes, or leaves as it is (R65). -/
def reloadMotor (c : Traction) (m : Motor) (x : SrgMotor) : SrgMotor :=
  if c.present m then { x with i := 0, sat := .zero } else {}

/-- A channel at a RELOAD of TRACTION (R84): its counter restarted while the part drives, its counts cleared, and a removed
motor set to OFF. Its applied direction stays, that of a motor newly present too. (DESIGN CHOICE, log entry 51) -/
def reloadChannel (c : Traction) (m : Motor) (driving : Bool) (ch : Channel) : Channel :=
  let x : Channel := { ch with
    persist := 0, cbcMark := false, periodCbc := false, phase := .before,
    pos := if driving then some 0 else none }
  if c.present m then x
  else { Channel.enter c .off x with duty := 0, raised := none, avg := 0, sum := 0, count := 0, periodSample := none }

/-- A valid TRACTION group becomes active in SRG and BFU (R65, R84). The counters' restart is no end of a float window whose
conversions are complete: the window stays open until the next period start. (DESIGN CHOICE, log entry 44) -/
def State.reloadTraction (s : State) (g : Groups) : State :=
  let c := g.traction
  let driving := s.exc.part.driving
  let s1 := { s with
    cfg := g,
    srg := { s.srg with
      motors := ⟨reloadMotor c .a s.srg.motors.a, reloadMotor c .b s.srg.motors.b⟩, regTimer := driving },
    bfu := { s.bfu with
      chans := ⟨reloadChannel c .a driving s.bfu.chans.a, reloadChannel c .b driving s.bfu.chans.b⟩, slipRun := 0 } }
  s1.checkDriver

/-- A valid CURVE group becomes active, and S is derived again (R25, R27). -/
def State.reloadCurve (s : State) (g : Groups) : State :=
  { s with cfg := g }.derive

/-- A valid FUNCTIONS group becomes active (R41): level changes are handed on, key events are not. -/
def State.reloadFunctions (s : State) (g : Groups) : State :=
  { s with cfg := g }.evalLevels

/-- The background at a RELOAD of SOUND (R127, R132). (DEDUCED, log entry 17) -/
def State.reloadBackground (s : State) : State :=
  match s.cfg.sound.bgClip with
  | none => s.endVoice 1 .cut
  | some _ => if s.exc.part = .running ∧ s.sup.state.good = true then s.requestBackground else s

/-- A valid SOUND group becomes active (R132). -/
def State.reloadSound (s : State) (g : Groups) : State :=
  { s with cfg := g, snd := { s.snd with master := g.sound.master } }.reloadBackground

/-- The source state of a source mode (R85). -/
def SourceMode.initial : SourceMode → SourceState
  | .virtual => .virtual
  | _ => .sensorLive

/-- A valid CHUFF group becomes active (R97). -/
def State.reloadChuff (s : State) (g : Groups) : State :=
  { s with
    cfg := g,
    chk := { s.chk with
      prescale := 0, capture := none, lostTimer := none, source := g.chuff.mode.initial,
      next := if g.chuff.perCycle ≤ s.chk.next then 0 else s.chk.next } }

/-- A valid SMOKE group becomes active (R146), its idle duty at once with it (R141). -/
def State.reloadSmoke (s : State) (g : Groups) : State :=
  ({ s with cfg := g, smk := { s.smk with
      fault := false, hot := false, fluid := min s.smk.fluid g.smoke.capacity } }.evalSmoke).idleFan

/-- One output at a RELOAD of LIGHTS (R157). -/
def Lamp.reload (p : Program) (l : Lamp) : Lamp :=
  { l with
    phase := 0,
    fade := match p.effect with
      | .fade _ _ => l.fade
      | _ => 0,
    flash := match p.effect with
      | .chuffFlash _ _ => l.flash
      | _ => 0 }

/-- A valid LIGHTS group becomes active (R157). -/
def State.reloadLights (s : State) (g : Groups) : State :=
  { s with cfg := g, lgt := { s.lgt with lamps := Octet.ofFn fun k => (s.lgt.lamps.get k).reload (g.lights.get k) } }

/-- A valid RADIO group becomes active, and any holder is freed without FAILSAFE (R172). -/
def State.reloadRadio (s : State) (g : Groups) : State :=
  let s1 := { s with cfg := g }
  if s1.rrx.holder.isSome then s1.freeHolder else s1

/-- A valid POWER group becomes active (R180). -/
def State.reloadPower (s : State) (g : Groups) : State :=
  { s with cfg := g }.newPower

/-- Group `n`'s new values become active at once, with the re-initialisation its chapter gives (R19). -/
def State.reloadGroup (s : State) (n : Nat) (g : Groups) : State :=
  match n with
  | 1 => s.reloadTraction g
  | 2 => s.reloadCurve g
  | 3 => s.reloadFunctions g
  | 4 => s.reloadSound g
  | 5 => s.reloadChuff g
  | 6 => s.reloadSmoke g
  | 7 => s.reloadLights g
  | 8 => s.reloadRadio g
  | _ => s.reloadPower g

/-- The bytes of group `n`, read word by word in ascending order (R8). -/
def State.groupBytes (s : State) (n : Nat) : List Byte :=
  bytesOf (s.mem.readWords (groupBase n) (groupWords n))

/-- A RELOAD cue's group read, validated, and made active or refused (R19): the state, and the cue's reason. -/
def State.reload (s : State) (n : Nat) : State × CueReason :=
  if n = 0 ∨ 9 < n then (s, .badGroup)
  else if (n = 1 ∨ n = 2 ∨ n = 5) ∧ s.srg.traction ≠ .standing then (s, .notStanding)
  else match validateGroup n (s.groupBytes n) s.cfg with
    | .refused index reason =>
      ((s.writeAdoptionResult 2 n index reason.code).latch .configResult, .badConfig)
    | .valid g => (((s.reloadGroup n g).writeAdoptionResult 1 0 0 0).latch .configResult, .none)

/-! ### Adoption -/

/-- SMK's values at the acceptance of adoption (R133): the temperature and the heater allowance are kept. -/
def Smk.adopt (capacity : Nat) (k : Smk) : Smk :=
  { timer := true, temp := k.temp, hlim := k.hlim, fluid := capacity }

/-- SND's values at the acceptance of adoption (R99, R100, R116, R129, R131): the end list, the end count, the modulator and a
start in progress are kept. -/
def Snd.adopt (master : Nat) (n : Snd) : Snd :=
  { n with
    voices := Octet.rep {}, order := [], queue := [], master := master, mute := false, squeal := .silent, squealCount := 0,
    squealDue := false }

/-- RRX's values at the acceptance of adoption (R161, R163, R166): the link and the frames in assembly are kept.
(DEDUCED, log entry 14) -/
def Rrx.adopt (r : Rrx) : Rrx :=
  { r with table := Octet.rep none, holder := none, failsafe := none, discard := .none }

/-- The blocks' initial values at the acceptance (R10): DRQ R24 and R36, SRG R43, BFU R66, CHK R85, SND R116, SMK R133,
LGT R147, RRX R163, SUP R180. -/
def State.adoptValues (s : State) (g : Groups) : State :=
  let s1 := { s with
    cfg := g, configured := true, drq := {}, srg := { regTimer := true }, chk := { source := g.chuff.mode.initial },
    snd := s.snd.adopt g.sound.master, smk := s.smk.adopt g.smoke.capacity,
    lgt := { timer := true, lamps := s.lgt.lamps.map Lamp.halted }, rrx := s.rrx.adopt,
    sup := { s.sup.clearRuns with share := true },
    exc := { s.exc with adoption := none, chuffHeld := false } }
  s1.adoptBridge

/-- EXC's share of the acceptance (R10): RUNNING with its mirror, the millisecond count 0, the result, and CONFIG_RESULT.
(DEDUCED, log entry 13) -/
def State.adoptExchange (s : State) : State :=
  (((s.setPart .running).setMs 0).writeAdoptionResult 1 0 0 0).latch .configResult

/-- The background request at the acceptance (R127, R131). -/
def State.adoptBackground (s : State) : State :=
  if s.sup.state.good then s.requestBackground else s

/-- Adoption ends with acceptance (R10). What each block then derives follows: the volume cap (R113), the lamp cap (R155), the
smoke state (R144), the hold-up timer's new limit (R180), the background (R127) and DRVFLT (R78). -/
def State.adoptAccepted (s : State) (g : Groups) : State :=
  let s1 := (s.adoptValues g).adoptExchange
  let s2 := (s1.recomputeCap.recomputeLampCap.evalSmoke).newPower
  s2.adoptBackground.checkDriver

/-- A board write in progress, and the one that waits behind it, abandoned (R21). The generation held moves on from the abandoned
write's odd one to the even one after it, so that the next write makes it odd again; what stands in memory stays.
(DESIGN CHOICE, log entry 40) -/
def Exc.dropBoard (e : Exc) : Exc :=
  { e with board := none, boardHeld := false, boardGen := if e.board.isSome then e.boardGen + 1 else e.boardGen }

/-- The part enters IDLE from a refused adoption: the link is off (R161), the modulator is stopped (R114), and a board write in
progress is abandoned (R21). (DEDUCED, log entry 31) -/
def State.toIdle (s : State) : State :=
  let s1 := s.setPart .idle
  { s1 with
    rrx := s1.rrx.linkOff,
    snd := { s1.snd with modOn := false, modIn := 0, modNow := 0, out := 0 },
    exc := s1.exc.dropBoard }

/-- Adoption ends with refusal (R9): the part goes back to the state adoption began in, without HALTED's entry effects. -/
def State.adoptRefused (s : State) (a : Adoption) (index : Nat) (reason : GroupReason) : State :=
  let s1 := { s with exc := { s.exc with adoption := none } }
  let s2 := if a.fromHalted then s1.setPart .halted else s1.toIdle
  (s2.writeAdoptionResult 2 a.group index reason.code).latch .configResult

end Sys2Proof.Machine
end

