-- ==== Sys2Proof/Machine/ScanOps.lean ====
section
/-!
DEFINITION. The scanner: examining and taking the drive slot (R15, R16), taking cues (R17, R18) with the kinds' own rules
(R37, R118–R122, R140, R19), and going on after the outcome of a PLAY (R119).
-/
namespace Sys2Proof.Machine

/-! ### The drive slot -/

/-- The slot's content judged as read (R16): taken, with what DRQ receives, or refused with nothing handed on. -/
def State.judgeSlot (s : State) (x : Slot) : State × SlotState :=
  if x.emergency = 1 then (s.eStop, .taken)
  else if 1 < x.emergency then (s, .refused)
  else if 1 < x.form ∨ 2 < x.direction ∨ 3 < x.moment then (s, .refused)
  else if x.form = 0 then (s.request .host (.speedUnits (min x.value 4095)) x.direction, .taken)
  else (s.request .host (.throttle (min x.value 200)) x.direction, .taken)

/-- The slot is taken (R16). -/
def State.takeSlot (s : State) : State :=
  let x := s.mem.readSlot
  let r := s.judgeSlot x
  ((r.1.setLastTaken x.tally).setSlotState r.2).latch .slotTaken

/-- A post with this take moment and emergency is taken at this scan (R15). -/
def takesNow (p : PartState) (t : TractionState) (moment emergency : Nat) : Bool :=
  emergency != 0 || 3 < moment
  || (p == .running && (moment == 0 || (moment == 1 && t == .standing)))

/-- The slot state written PENDING if it was not already (R15). -/
def State.markPending (s : State) : State :=
  if s.exc.slotState = .pending then s else s.setSlotState .pending

/-- The slot examined at a scan in RUNNING or STOPPING (R15). -/
def State.examineSlot (s : State) : State :=
  let x := s.mem.readSlot
  if x.tally ≠ s.exc.lastTaken then
    let s1 := s.markPending
    let s2 := { s1 with exc := { s1.exc with
        slotMoment := BitVec.ofNat 8 x.moment, slotEmergency := BitVec.ofNat 8 x.emergency } }
    if takesNow s2.exc.part s2.srg.traction x.moment x.emergency then s2.takeSlot else s2
  else if s.exc.slotState = .pending then s.setSlotState .empty
  else s

/-! ### The cue strip -/

/-- A tag that a RELEASE or STOP cue may name (R120, R121): not 0 and not above 0x8010. -/
def cueTagOk (t : Nat) : Bool := t != 0 && t ≤ 0x8010

/-- A PLAY cue's parameters are in range (R118). -/
def playParamsOk (r : List Byte) : Bool :=
  byteAt r 6 ≤ 127 && byteAt r 7 ≤ 7 && byteAt r 9 ≤ 1 && 1 ≤ halfAt r 0x0A && halfAt r 0x0A ≤ 1023

/-- The POOL start request of a PLAY cue (R118). -/
def playRequest (r : List Byte) : StartReq :=
  { cls := .pool, asker := .playCue, clip := byteAt r 6, pitch := halfAt r 0x0A, volume := byteAt r 8,
    priority := byteAt r 7, tag := BitVec.ofNat 16 (halfAt r 4), loop := byteAt r 9 == 1 }

/-- What taking a cue comes to: its reason, or a PLAY waiting for its start's outcome (R119). -/
inductive CueResult where
  | done (reason : CueReason)
  | waiting
  deriving DecidableEq, Repr

/-- A PLAY cue (R118, R101). -/
def State.cuePlay (s : State) (r : List Byte) : State × CueResult :=
  if 0x7FFF < halfAt r 4 then (s, .done .badTag)
  else if playParamsOk r = false then (s, .done .badParam)
  else if 32 ≤ s.snd.queue.length then (s, .done .noVoice)
  else (s.requestStart (playRequest r), .waiting)

/-- A RELEASE cue (R120). -/
def State.cueRelease (s : State) (r : List Byte) : State × CueResult :=
  if cueTagOk (halfAt r 4) then (s.releaseTag (BitVec.ofNat 16 (halfAt r 4)), .done .none) else (s, .done .badTag)

/-- A STOP cue (R121). -/
def State.cueStop (s : State) (r : List Byte) : State × CueResult :=
  if cueTagOk (halfAt r 4) then (s.cutTag (BitVec.ofNat 16 (halfAt r 4)), .done .none) else (s, .done .badTag)

/-- A MASTER_VOLUME cue (R122). -/
def State.cueMaster (s : State) (r : List Byte) : State × CueResult :=
  if 255 < halfAt r 6 then (s, .done .badParam)
  else ({ s with snd := { s.snd with master := halfAt r 6 } }, .done .none)

/-- A FUNCTION cue (R37). -/
def State.cueFunction (s : State) (r : List Byte) : State × CueResult :=
  match functionOpOf (byteAt r 6) with
  | none => (s, .done .badParam)
  | some op => (s.functionOp op (BitVec.ofNat 32 (wordAt r 8)), .done .none)

/-- A RELOAD cue (R19). -/
def State.cueReload (s : State) (r : List Byte) : State × CueResult :=
  let x := s.reload (byteAt r 6)
  (x.1, .done x.2)

/-- The fluid remaining after a REFILL (R140). -/
def refilled (capacity fluid amount : Nat) : Nat :=
  if amount = 0 then capacity else min capacity (fluid + amount)

/-- A REFILL cue (R140): the smoke state is evaluated if the fluid changed. -/
def State.cueRefill (s : State) (r : List Byte) : State × CueResult :=
  let f := refilled s.cfg.smoke.capacity s.smk.fluid (halfAt r 6)
  if f = s.smk.fluid then (s, .done .none)
  else ({ s with smk := { s.smk with fluid := f } }.evalSmoke, .done .none)

/-- A cue handed to the block that owns its kind (R17). -/
def State.cueKind (s : State) (r : List Byte) : State × CueResult :=
  match byteAt r 1 with
  | 1 => s.cuePlay r
  | 2 => s.cueRelease r
  | 3 => s.cueStop r
  | 4 => s.cueMaster r
  | 5 => s.cueFunction r
  | 6 => s.cueReload r
  | _ => s.cueRefill r

/-- A cue record judged against the part state at its take (R17). -/
def State.judgeCue (s : State) (r : List Byte) : State × CueResult :=
  let kind := byteAt r 1
  if byteAt r 0 ≠ 1 then (s, .done .notPosted)
  else if kind = 0 ∨ 7 < kind then (s, .done .badKind)
  else if s.exc.part = .halted ∧ kind ≠ 6 ∧ kind ≠ 7 then (s, .done .inactive)
  else s.cueKind r

/-- The reason codes of a cue record (1.5). -/
def CueReason.code : CueReason → Nat
  | .none => 0
  | .notPosted => 1
  | .badKind => 2
  | .inactive => 3
  | .badGroup => 4
  | .notStanding => 5
  | .badConfig => 6
  | .badParam => 7
  | .badTag => 8
  | .noVoice => 9
  | .badClip => 10

/-- The first word of a cue record as written back (R17): APPLIED 2 or REFUSED 3, the kind as read, the reason, and 0. -/
def backCells (t : Half) (kind : Byte) (reason : CueReason) : List Host.Cell :=
  [ (cueAddr t, if reason = .none then 2 else 3), (cueAddr t + 1, kind), (cueAddr t + 2, BitVec.ofNat 8 reason.code),
    (cueAddr t + 3, 0) ]

/-- A cue record written back, the take tally advanced, and a refusal latched (R17). -/
def State.writeBack (s : State) (kind : Byte) (reason : CueReason) : State :=
  let s1 := (s.writeMem (backCells s.exc.cueTake kind reason)).setCueTake (s.exc.cueTake + 1)
  if reason = .none then s1 else s1.latch .cueRefused

/-- Cues are taken in RUNNING and HALTED (R14, R17). -/
def PartState.takesCues : PartState → Bool
  | .running => true
  | .halted => true
  | _ => false

/-- Up to `n` records taken in append order (R17). A PLAY whose start is queued makes the scan wait (R119). -/
def State.takeCues : Nat → State → State
  | 0, s => s
  | n + 1, s =>
    if s.exc.part.takesCues then
      let r := s.mem.readCue s.exc.cueTake
      let x := s.judgeCue r
      match x.2 with
      | .done reason => State.takeCues n (x.1.writeBack (r.getD 1 0) reason)
      | .waiting => { x.1 with exc := { x.1.exc with scan := some ⟨r.getD 1 0, n, none⟩ } }
    else s

/-- The cue append tally as read from the directory (R17). -/
def State.appendTally (s : State) : Half := BitVec.ofNat 16 (s.mem.readLe 0x04 2)

/-- The cue strip at a scan (R17, R18). -/
def State.scanCues (s : State) : State :=
  let n := (s.appendTally - s.exc.cueTake).toNat
  if 64 < n then (s.setCueTake s.appendTally).latch .stripOverrun
  else State.takeCues (min n 4) s

/-- The work of one scan, by part state (R14). (DEDUCED, log entry 3) -/
def State.scanWork (s : State) : State :=
  match s.exc.part with
  | .running => s.examineSlot.scanCues
  | .stopping => s.examineSlot
  | .halted => s.scanCues
  | _ => s

/-- How a start's outcome is written to its PLAY cue (R119). -/
def outcomeReason : StartOutcome → CueReason
  | .started _ => .none
  | .refused r => r
  | .withdrawn => .noVoice

/-- The scan goes on once the outcome it waits for has been handed back: the PLAY cue is written back, and the records after
it are taken (R119). -/
def State.resumeScan (s : State) : State :=
  match s.exc.scan with
  | some ⟨kind, left, some o⟩ =>
    State.takeCues left ({ s with exc := { s.exc with scan := none } }.writeBack kind (outcomeReason o))
  | _ => s

end Sys2Proof.Machine
end

