-- ==== Sys2Proof/Machine/BoardOps.lean ====
section
/-!
DEFINITION. The operations of the memory arbiter's multi-word requesters: the status board as its writer forms it (R21, 1.5),
inbox records (R20, R170, 1.5), clip descriptors (R98, R101), and the grants of R6 by class.
-/
namespace Sys2Proof.Machine

/-! ### The codes of the board (1.5) -/

/-- Traction state codes. -/
def TractionState.code : TractionState → Nat
  | .standing => 0
  | .moving => 1
  | .turning => 2
  | .eBrake => 3
  | .eHeld => 4
  | .tripped => 5

/-- Direction codes. -/
def directionCode : Direction → Nat
  | .forward => 0
  | .reverse => 1

/-- Drive source codes. -/
def Source.code : Source → Nat
  | .none => 0
  | .radio => 1
  | .host => 2
  | .failsafe => 3

/-- Trip reason codes. -/
def TripReason.code : TripReason → Nat
  | .none => 0
  | .shortA => 1
  | .shortB => 2
  | .stallA => 3
  | .stallB => 4
  | .driver => 5

/-- Slip state codes. -/
def SlipState.code : SlipState → Nat
  | .normal => 0
  | .slipping => 1

/-- Chuff source state codes. -/
def SourceState.code : SourceState → Nat
  | .sensorLive => 0
  | .sensorLost => 1
  | .virtual => 2

/-- Supply state codes. -/
def Supply.code : Supply → Nat
  | .normal => 0
  | .lean => 1
  | .holdup => 2
  | .dark => 3

/-- Smoke state codes. -/
def SmokeState.code : SmokeState → Nat
  | .off => 0
  | .warming => 1
  | .ready => 2
  | .dry => 3
  | .hot => 4
  | .sensorFault => 5
  | .shed => 6

/-- Voice state codes. -/
def VoiceState.code : VoiceState → Nat
  | .free => 0
  | .playing => 1
  | .looping => 2
  | .released => 3

/-- End reason codes. -/
def EndReason.code : EndReason → Nat
  | .none => 0
  | .playedOut => 1
  | .cut => 2
  | .stolen => 3
  | .shed => 4

/-- Discard reason codes. -/
def Discard.code : Discard → Nat
  | .none => 0
  | .runt => 1
  | .long => 2
  | .overrun => 3
  | .length => 4
  | .check => 5

/-- Inbox verdict codes. -/
def FrameVerdict.code : FrameVerdict → Nat
  | .acted => 1
  | .forHost => 2
  | .hostGated => 3
  | .inactive => 4
  | .notForBroadcast => 5
  | .notBound => 6
  | .noRight => 7
  | .notHolder => 8
  | .unknownKind => 9
  | .badPayload => 10

/-! ### The status board -/

/-- One field of the board: its offset, its size in bytes, and its value as it stands. -/
structure BoardField where
  off  : Nat
  size : Nat
  val  : Nat
  deriving DecidableEq, Repr

/-- A field of motor B, which reads 0 when one motor is configured (1.5). -/
def State.ofMotorB (s : State) (x : Nat) : Nat := if s.cfg.traction.present .b then x else 0

/-- The holder's ID, 0 for none (R166). -/
def State.holderId (s : State) : Nat :=
  match s.rrx.holder with
  | some h => h.id.toNat
  | none => 0

/-- The milliseconds since the holder was last heard, saturating at 65,535, and 0 with no holder (R166). -/
def State.holderAge (s : State) : Nat :=
  match s.rrx.holder with
  | some h => min 65535 (s.exc.ms - h.heard).toNat
  | none => 0

/-- A signed temperature as its 16-bit field. -/
def signedField (t : Int) : Nat := (t % 65536).toNat

/-- The traction and bridge fields of the board (1.5). -/
def State.tractionFields (s : State) : List BoardField :=
  [ ⟨0x004, 1, s.exc.part.code⟩, ⟨0x005, 1, s.srg.traction.code⟩, ⟨0x006, 1, directionCode s.srg.bridgeDir⟩,
    ⟨0x007, 1, s.drq.source.code⟩, ⟨0x008, 2, s.drq.s⟩, ⟨0x00A, 2, s.srg.r⟩, ⟨0x00C, 2, s.srg.motors.a.vf⟩,
    ⟨0x00E, 2, s.ofMotorB s.srg.motors.b.vf⟩, ⟨0x010, 2, s.srg.motors.a.d⟩, ⟨0x012, 2, s.ofMotorB s.srg.motors.b.d⟩,
    ⟨0x014, 2, s.bfu.chans.a.avg⟩, ⟨0x016, 2, s.ofMotorB s.bfu.chans.b.avg⟩, ⟨0x018, 1, s.srg.labour⟩,
    ⟨0x019, 1, s.srg.band⟩, ⟨0x01A, 1, s.bfu.trip.code⟩, ⟨0x01B, 1, s.bfu.slip.code⟩ ]

/-- The chuff, supply and smoke fields of the board (1.5). -/
def State.sensorFields (s : State) : List BoardField :=
  [ ⟨0x020, 1, s.chk.source.code⟩, ⟨0x024, 4, s.chk.count.toNat⟩, ⟨0x028, 4, s.chk.lastSensor⟩,
    ⟨0x02C, 2, s.chk.lastChuff⟩, ⟨0x030, 1, s.sup.state.code⟩, ⟨0x032, 2, s.sup.vs⟩, ⟨0x034, 2, s.sup.vh⟩,
    ⟨0x036, 2, s.sup.holdup.getD 0⟩, ⟨0x038, 1, s.sup.hlim⟩, ⟨0x040, 1, s.smk.state.code⟩, ⟨0x041, 1, s.smk.heater⟩,
    ⟨0x042, 2, signedField s.smk.temp⟩, ⟨0x044, 1, s.smk.fan⟩, ⟨0x046, 2, s.smk.fluid⟩ ]

/-- The lamp fields of the board (1.5). -/
def State.lampFields (s : State) : List BoardField :=
  octetIndices.map fun k => ⟨0x050 + k.val, 1, (s.lgt.lamps.get k).level⟩

/-- One entry of the voice table (1.5, R99). -/
def voiceFields (k : Fin 8) (v : Voice) : List BoardField :=
  let o := 0x060 + 8 * k.val
  [ ⟨o, 1, v.state.code⟩, ⟨o + 1, 1, v.clip⟩, ⟨o + 2, 1, v.priority⟩, ⟨o + 3, 1, v.volume⟩, ⟨o + 4, 2, v.tag.toNat⟩,
    ⟨o + 6, 2, v.pitch⟩ ]

/-- One entry of the end list (1.5, R111). -/
def endFields (k : Fin 8) (e : EndRecord) : List BoardField :=
  let o := 0x0A0 + 4 * k.val
  [ ⟨o, 2, e.tag.toNat⟩, ⟨o + 2, 1, e.reason.code⟩, ⟨o + 3, 1, e.voice⟩ ]

/-- The sound fields of the board (1.5). -/
def State.soundFields (s : State) : List BoardField :=
  (octetIndices.flatMap fun k => voiceFields k (s.snd.voices.get k))
  ++ (octetIndices.flatMap fun k => endFields k (s.snd.endList.get k))
  ++ [ ⟨0x0C0, 4, s.snd.endCount.toNat⟩, ⟨0x0C4, 1, s.snd.master⟩, ⟨0x0C5, 1, s.snd.cap⟩ ]

/-- The radio and function fields of the board (1.5). -/
def State.radioFields (s : State) : List BoardField :=
  [ ⟨0x0D0, 2, s.holderId⟩, ⟨0x0D2, 2, s.holderAge⟩, ⟨0x0D4, 1, s.rrx.signal.toNat⟩, ⟨0x0D5, 1, s.rrx.discard.code⟩,
    ⟨0x0E0, 4, s.drq.functions.toNat⟩ ]

/-- Every field of the board but the generation, in ascending offset (1.5). -/
def State.boardFields (s : State) : List BoardField :=
  s.tractionFields ++ s.sensorFields ++ s.lampFields ++ s.soundFields ++ s.radioFields

/-- The byte at an offset of the board; a byte that no field occupies is 0 (1.5, R21). -/
def State.boardByte (s : State) (o : Nat) : Byte :=
  match s.boardFields.find? fun f => decide (f.off ≤ o ∧ o < f.off + f.size) with
  | some f => BitVec.ofNat 8 (f.val / 256 ^ (o - f.off))
  | none => 0

/-- The address of the status board (1.5). -/
def boardBase : Nat := 0x100

/-- The number of words of the status board (1.5). -/
def boardWords : Nat := 256

/-- Word `k` of the board as the writer's grant changes it, for `k` from 1 to 255 (R21). -/
def State.boardCells (s : State) (k : Nat) : List Host.Cell :=
  [ (boardBase + 4 * k, s.boardByte (4 * k)), (boardBase + 4 * k + 1, s.boardByte (4 * k + 1)),
    (boardBase + 4 * k + 2, s.boardByte (4 * k + 2)), (boardBase + 4 * k + 3, s.boardByte (4 * k + 3)) ]

/-- The board generation written to its word (R21). -/
def State.writeGeneration (s : State) : State := s.writeField boardBase 4 s.exc.boardGen.toNat

/-- One is added to the board generation (R21). -/
def State.bumpGeneration (s : State) : State :=
  { s with exc := { s.exc with boardGen := s.exc.boardGen + 1 } }

/-- The board write in progress goes on at word `k`, or ends (R21). -/
def State.boardAt (s : State) (k : Option Nat) : State :=
  { s with exc := { s.exc with board := k } }

/-- One grant of the status board writer (R21): the odd generation first, the fields word by word, and the even generation
last, with which the write ends. -/
def State.boardGrant (s : State) (k : Nat) : State :=
  if k = 0 then s.writeGeneration.boardAt (some 1)
  else if k < boardWords then (s.writeMem (s.boardCells k)).boardAt (some (k + 1))
  else s.bumpGeneration.writeGeneration.boardAt none

/-- A board write begins (R21): one is added to the generation, which its first grant writes. (DEDUCED, log entry 22) -/
def State.beginBoard (s : State) : State :=
  s.bumpGeneration.boardAt (some 0)

/-! ### Inbox records -/

/-- The `n` low bytes of a value, lowest first. -/
def leBytes : Nat → Nat → List Byte
  | 0, _ => []
  | n + 1, v => BitVec.ofNat 8 v :: leBytes n (v / 256)

/-- The 32 bytes of an inbox record (1.5, R170): the payload is padded with 0, and so are the bytes no field occupies. -/
def InboxRecord.bytes (r : InboxRecord) : List Byte :=
  let head := leBytes 1 r.verdict.code ++ [r.kind] ++ leBytes 2 r.sender.toNat ++ [r.seq] ++ leBytes 1 r.length
    ++ leBytes 2 r.target.toNat ++ leBytes 4 r.time.toNat ++ [r.signal]
  (head ++ r.payload.take 16 ++ List.replicate 32 0).take 32

/-- The address of the inbox record for a put tally (R20). -/
def inboxAddr (put : Half) : Nat := 0xC00 + 32 * (put.toNat % 32)

/-- Word `k` of an inbox record as the writer's grant changes it (R20). -/
def inboxCells (put : Half) (bs : List Byte) (k : Nat) : List Host.Cell :=
  let a := inboxAddr put + 4 * k
  [ (a, bs.getD (4 * k) 0), (a + 1, bs.getD (4 * k + 1) 0), (a + 2, bs.getD (4 * k + 2) 0), (a + 3, bs.getD (4 * k + 3) 0) ]

/-- put − seen, modulo 65536, with the seen tally as read from the directory (R20). -/
def State.inboxAhead (s : State) : Nat :=
  (s.exc.inboxPut - BitVec.ofNat 16 (s.mem.readLe 0x0A 2)).toNat

/-- The number of words of an inbox record (R20). -/
def inboxWords : Nat := 8

/-- The writer reads the seen tally, once for each frame (R20). -/
def State.readSeen (s : State) : State :=
  match s.exc.inboxStep.ahead with
  | some _ => s
  | none => { s with exc := { s.exc with inboxStep := { s.exc.inboxStep with ahead := some s.inboxAhead } } }

/-- The next word of the record at the head of the queue written (R20). -/
def State.writeRecord (s : State) (bs : List Byte) : State :=
  let k := s.exc.inboxStep.words
  { s.writeMem (inboxCells s.exc.inboxPut bs k) with
    exc := { s.exc with inboxStep := { s.exc.inboxStep with words := k + 1 } } }

/-- The frame at the head of the inbox writer's queue is done with: its buffer is free, and the next one begins (R159, R20). -/
def State.inboxDone (s : State) : State :=
  match s.exc.inboxQueue with
  | [] => s
  | j :: rest => ({ s with exc := { s.exc with inboxQueue := rest, inboxStep := {} } }).freeBuffer j.buffer

/-- The inbox writer has a grant to ask for: the seen tally is still to be read, or record words are still to be written
(R20). -/
def State.inboxWaits (s : State) : Bool :=
  match s.exc.inboxQueue with
  | [] => false
  | _ :: _ =>
    match s.exc.inboxStep.ahead with
    | none => true
    | some k => decide (k < 32) && decide (s.exc.inboxStep.words < inboxWords)

/-- One grant of the inbox writer: the seen tally, or the next word of the record (R20). -/
def State.inboxGrant (s : State) : State :=
  match s.exc.inboxQueue with
  | [] => s
  | j :: _ => if s.exc.inboxStep.ahead.isNone then s.readSeen else s.writeRecord j.record.bytes

/-- A grant of one class 3 writer, with the note of who was granted last once a contention has been served (R6).
(DEDUCED, log entry 10) -/
def State.noteGrant (s : State) (w : Class3) : State :=
  { s with exc := { s.exc with class3Last := s.exc.class3Last.map fun _ => w } }

/-! ### Clip descriptors -/

/-- The address of clip `n`'s descriptor (6.2). -/
def descriptorAddr (n : Nat) : Nat := 0x2000 + 16 * n

/-- A descriptor's four words as read (6.2). -/
def Clip.ofWords (ws : List Word) : Clip :=
  let bs := ws.flatMap wordBytes
  { start := wordAt bs 0, length := wordAt bs 4, loopStart := threeAt bs 8, loopEnd := wordAt bs 0x0C, gain := byteAt bs 0x0B }

/-- The descriptor is valid (R98). -/
def Clip.valid (c : Clip) : Bool :=
  decide (1 ≤ c.length ∧ 0x2800 ≤ c.start ∧ c.start + c.length ≤ 0x80000)
  && (c.loopEnd == 0 || decide (c.loopStart < c.loopEnd ∧ c.loopEnd ≤ c.length))

/-- The next `n` descriptor words of the start in progress read (R101). -/
def StartWork.readMore (m : Memory) : Nat → StartWork → StartWork
  | 0, w => w
  | n + 1, w =>
    StartWork.readMore m n { w with words := w.words ++ [m.readWord (descriptorAddr w.req.clip + 4 * w.words.length)] }

/-! ### The grants by class (R6) -/

/-- SND waits for a descriptor word (class 1). -/
def State.soundWaits (s : State) : Bool :=
  match s.snd.current with
  | some w => decide (w.words.length < 4)
  | none => false

/-- The class 1 grant: the next descriptor word of the start in progress (R101). -/
def State.soundGrant (s : State) : State :=
  { s with snd := { s.snd with current := s.snd.current.map (StartWork.readMore s.mem 1) } }

/-- The class 2 grant: the write that the memory port awaits (R3). -/
def State.portGrant (s : State) : State :=
  match s.port.awaiting with
  | some q => { s.writeMem q with port := { s.port with awaiting := none } }
  | none => s

/-- The class 3 writer served when both wait (R6): the status board writer at the first contention after a reset, and after that
the one that was not granted last. -/
def Class3.turn : Option Class3 → Class3
  | none => .board
  | some .board => .inbox
  | some .inbox => .board

/-- A grant to one class 3 writer. -/
def State.class3Grant (s : State) (w : Class3) : State :=
  match w with
  | .board => match s.exc.board with
    | some k => (s.noteGrant .board).boardGrant k
    | none => s
  | .inbox => (s.noteGrant .inbox).inboxGrant

/-- The class 3 grant (R6): when both writers wait, they take turns. -/
def State.writerGrant (s : State) : State :=
  if s.exc.board.isSome = true ∧ s.inboxWaits = true then
    let w := Class3.turn s.exc.class3Last
    ({ s with exc := { s.exc with class3Last := some w } }).class3Grant w
  else if s.exc.board.isSome then s.class3Grant .board
  else s.class3Grant .inbox

/-- The adoption reader waits for a word of its group (class 4). -/
def State.adoptionWaits (s : State) : Bool :=
  match s.exc.adoption with
  | some a => decide (a.words.length < groupWords a.group)
  | none => false

/-- The adoption reader's next `n` words (R8). -/
def Adoption.readMore (m : Memory) (n : Nat) (a : Adoption) : Adoption :=
  { a with words := a.words ++ m.readWords (groupBase a.group + 4 * a.words.length) n }

/-- The class 4 grant: the adoption reader's next word (R8). -/
def State.readerGrant (s : State) : State :=
  { s with exc := { s.exc with adoption := s.exc.adoption.map (Adoption.readMore s.mem 1) } }

/-- One grant, to the waiting request of the lowest-numbered class (R6). -/
def State.grant (s : State) : State :=
  if s.soundWaits then s.soundGrant
  else if s.port.awaiting.isSome then s.portGrant
  else if s.exc.board.isSome || s.inboxWaits then s.writerGrant
  else if s.adoptionWaits then s.readerGrant
  else s

/-- Grants given one after another, at most `n` of them, for as long as a condition on the waiting requests holds (R6). -/
def State.grantWhile (waits : State → Bool) : Nat → State → State
  | 0, s => s
  | n + 1, s => if waits s then State.grantWhile waits n s.grant else s

/-- A request of class 1, 2 or 3 waits: before these the scanner and the adoption reader are granted nothing (R6). -/
def State.lowerWaits (s : State) : Bool :=
  s.soundWaits || s.port.awaiting.isSome || s.exc.board.isSome || s.inboxWaits

/-- The sound engine's waiting descriptor words, at most 4, granted before a grant of class 2 (R6). (DEDUCED, log entry 41) -/
def State.serveSound (s : State) : State := State.grantWhile State.soundWaits 4 s

/-- The waiting requests of classes 1 to 3 granted before a grant of class 4 (R6): at most 4 descriptor words, one port write, 257
grants of a board write, and 9 of the inbox writer. (DEDUCED, log entry 41) -/
def State.serveLower (s : State) : State := State.grantWhile State.lowerWaits 271 s

/-- The grants that the inbox writer still needs for the frame at the head of its queue, at most 9, with those that R6 puts before
them: at most 4 descriptor words, one port write, and the board writer's in its turns. (DEDUCED, log entry 41) -/
def State.serveInbox (s : State) : State := State.grantWhile State.inboxWaits 23 s

/-- The inbox writer's work on the frame at the head of its queue, carried to its end (R20). (DESIGN CHOICE, log entry 7) -/
def State.inboxFinish (s : State) : State :=
  match s.exc.inboxQueue with
  | [] => s
  | _ :: _ =>
    let s1 := s.serveInbox
    if 32 ≤ s1.exc.inboxStep.ahead.getD 0 then s1.inboxDone.latch .inboxFull
    else ((s1.setInboxPut (s1.exc.inboxPut + 1)).inboxDone).latch .radioFrame

end Sys2Proof.Machine
end

