-- ==== Sys2Proof/Machine/Port.lean ====
section
/-!
DEFINITION. The commands of the memory port but the PCTL writes (R2, R3, R4, R5), and the memory arbiter's grant (R6).
-/
namespace Sys2Proof.Machine

/-- The outcome of a command that is carried out: the next state, in which a scan that waited for a start's outcome goes on if
this command handed it back (R119), after the requests that R6 puts before the scanner's. -/
def finish (s : State) : Host.Outcome State Fault Refusal :=
  match s.exc.scan with
  | some ⟨_, _, some _⟩ => .next s.serveLower.resumeScan
  | _ => .next s

/-- What the memory port shifts out in a transaction. (DESIGN CHOICE, log entry 9) -/
def State.shiftOut (s : State) (bs : List Byte) : State :=
  { s with port := { s.port with out := bs, hiZ := false } }

/-- The bytes a read-memory transaction shifts out from memory `m`; while CLEARING is set every byte is 0 (R3). -/
def readBytesOut (clearing : Bool) (m : Memory) (addr n : Nat) (late : List Nat) : List Byte :=
  if clearing then List.replicate n 0 else readOut m n addr 0 late

/-- READ_MEMORY (R2, R3): the sound engine's waiting requests (R6) and the write grant the port still awaits come before the
transaction's first read grant. (DESIGN CHOICE, log entry 8) -/
def execReadMemory (_lanes : Lanes) (addr : BitVec 24) (n : Nat) (late : List Nat) (s : State) :
    Host.Outcome State Fault Refusal :=
  let s1 := if n = 0 then s else s.serveSound.portGrant
  .next (s1.shiftOut (readBytesOut s.exc.clearing s1.mem (wrapAddr addr.toNat) n late))

/-- The write grant awaited at the start of a write-memory transaction, with its delay, and the delays of the transaction's own
grants (R3). -/
def awaitedAt (w : Option (List Host.Cell)) (delays : List Nat) : AwaitedWrite × List Nat :=
  match w with
  | none => (none, delays)
  | some q => (some (q, delays.headD 0), delays.tail)

/-- The end of a write-memory transaction: a grant no longer awaited has changed its bytes; one still awaited stays so (R3). -/
def settleWrite (q : AwaitedWrite) (m : Memory) : Option (List Host.Cell) × Memory :=
  match q with
  | none => (none, m)
  | some (cells, 0) => (none, m.writeCells cells)
  | some (cells, _ + 1) => (some cells, m)

/-- A write-memory transaction of data bytes from an address on: what the port awaits afterwards, and the memory (R3). -/
def writeTransaction (addr : Nat) (data : List Byte) (delays : List Nat) (w : Option (List Host.Cell)) (m : Memory) :
    Option (List Host.Cell) × Memory :=
  let first := awaitedAt w delays
  let r := passWords (gather data addr []) first.2 first.1 m
  settleWrite r.1 r.2

/-- A write-memory transaction carried out (R3). -/
def State.portWrite (s : State) (addr : Nat) (data : List Byte) (delays : List Nat) : State :=
  let r := writeTransaction addr data delays s.port.awaiting s.mem
  { s with mem := r.2, port := { s.port with awaiting := r.1 } }

/-- A write-memory transaction needs a grant: for bytes of its own, or for a write that the port still awaits (R3). -/
def State.writeNeedsGrant (s : State) (data : List Byte) : Bool := !data.isEmpty || s.port.awaiting.isSome

/-- WRITE_MEMORY (R2, R3): the bits of an incomplete last byte are discarded, and so is the whole transaction while CLEARING is
set. The sound engine's waiting requests come before the grants that the transaction needs (R6). -/
def execWriteMemory (_lanes : Lanes) (addr : BitVec 24) (data : List Byte) (_tailBits : Nat) (delays : List Nat) (s : State) :
    Host.Outcome State Fault Refusal :=
  if s.exc.clearing then .next s
  else .next ((if s.writeNeedsGrant data then s.serveSound else s).portWrite (wrapAddr addr.toNat) data delays)

/-- The two bytes of a register, low byte first (R2). -/
def halfBytes (h : Half) : List Byte := [h.setWidth 8, (h >>> 8).setWidth 8]

/-- A read of the register takes a free value: PCTL and NLAT have bits that 1.5 does not list. -/
def usesFree (reg : Byte) : Bool := reg == 0 || reg == 1

/-- READ_REGISTER (R2, R4): the value as it stands at the end of the turnaround. -/
def execReadRegister (_lanes : Lanes) (reg : Byte) (s : State) : Host.Outcome State Fault Refusal :=
  let s1 := s.shiftOut (halfBytes (s.readRegister reg))
  .next (if usesFree reg then { s1 with freeCount := s1.freeCount + 1 } else s1)

/-- PORT_COMMAND_INVALID (R2): nothing is shifted out, and the outputs stay high-impedance. -/
def execPortCommandInvalid (_cmd : Byte) (s : State) : Host.Outcome State Fault Refusal :=
  .next { s with port := { s.port with out := [], hiZ := true } }

/-- REGISTER_WRITE_IGNORED (R2, R4): a write to IDNT or to a number above 3, or one cut short, is dropped. -/
def execRegisterWriteIgnored (_reg : Byte) (_value : Half) (_complete : Bool) (s : State) : Host.Outcome State Fault Refusal :=
  .next s

/-- NLAT_WRITE (R5): every kind whose bit is written 1 is cleared; dropped while CLEARING is set (R3). -/
def execNlatWrite (value : Half) (s : State) : Host.Outcome State Fault Refusal :=
  if s.exc.clearing then .next s
  else .next { s with exc := { s.exc with nlat := s.exc.nlat &&& ~~~(value.setWidth 15) } }

/-- NEN_WRITE (R4): the enables are set; dropped while CLEARING is set (R3). -/
def execNenWrite (value : Half) (s : State) : Host.Outcome State Fault Refusal :=
  if s.exc.clearing then .next s
  else .next { s with exc := { s.exc with nen := value.setWidth 15 } }

/-- ARBITER_GRANT (R6). -/
def execArbiterGrant (s : State) : Host.Outcome State Fault Refusal :=
  .next s.grant

end Sys2Proof.Machine
end

