-- ==== Sys2Proof/Machine/Control.lean ====
section
/-!
DEFINITION. The commands of part control: the PCTL writes (R4, R7, R12, R13, R23), power-on reset and the end of a clearing (R22,
R23), and the adoption reader's groups (R8, R9, R10).
-/
namespace Sys2Proof.Machine

/-- The codes of the PCTL commands (1.5). -/
def startCode : BitVec 3 := 1

/-- The code of HALT_SOFT (1.5). -/
def haltSoftCode : BitVec 3 := 2

/-- The code of HALT_HARD (1.5). -/
def haltHardCode : BitVec 3 := 3

/-- The code of RESET (1.5). -/
def resetCode : BitVec 3 := 4

/-- SND's modulator starts with Out = 0 (R114). -/
def State.startModulator (s : State) : State :=
  { s with snd := { s.snd with modOn := true, modIn := 0, modNow := 0, out := 0 } }

/-- The link is switched on; the first frame after has no previous falling edge (R159, R161). -/
def State.linkOn (s : State) : State :=
  { s with rrx := { s.rrx.linkOff with link := true } }

/-- The part leaves IDLE for ADOPTING: the modulator starts (R114) and the link is switched on (R161). -/
def State.leaveIdle (s : State) : State := s.startModulator.linkOn

/-- Adoption begins (R7, R8): ADOPTING, the result NONE with group, index and reason 0, and the first group to be read. -/
def State.beginAdoption (s : State) (fromHalted : Bool) : State :=
  let s1 := (s.setPart .adopting).writeAdoptionResult 0 0 0 0
  { s1 with exc := { s1.exc with adoption := some { fromHalted := fromHalted, group := 1, words := [], values := Groups.none } } }

/-- START (R7): accepted in IDLE and HALTED; dropped while CLEARING is set (R3). -/
def execStart (_upper : BitVec 13) (s : State) : Host.Outcome State Fault Refusal :=
  if s.exc.clearing then .next s
  else match s.exc.part with
    | .idle => .next ((s.recordCommand startCode .accepted).leaveIdle.beginAdoption false)
    | .halted => .next ((s.recordCommand startCode .accepted).beginAdoption true)
    | _ => .next (s.recordCommand startCode .refused)

/-- The part leaves RUNNING: an AT_CHUFF take that is still to be made lapses (R15). -/
def State.dropChuff (s : State) : State :=
  { s with exc := { s.exc with chuffHeld := false } }

/-- HALT_SOFT (R7, R12): accepted in RUNNING; STOPPING and the stop order, and HALTED at once when its end condition holds. -/
def execHaltSoft (_upper : BitVec 13) (s : State) : Host.Outcome State Fault Refusal :=
  if s.exc.clearing then .next s
  else if s.exc.part = .running then
    finish ((((s.recordCommand haltSoftCode .accepted).setPart .stopping).dropChuff.stopOrder).endStopping)
  else .next (s.recordCommand haltSoftCode .refused)

/-- HALT_HARD (R7, R13): accepted in RUNNING and STOPPING. -/
def execHaltHard (_upper : BitVec 13) (s : State) : Host.Outcome State Fault Refusal :=
  if s.exc.clearing then .next s
  else if s.exc.part.driving then finish ((s.recordCommand haltHardCode .accepted).enterHalted)
  else .next (s.recordCommand haltHardCode .refused)

/-- Exchange memory as a soft reset leaves it: directory bytes 0x04–0x16 and the whole status board are 0 (R23). -/
def Memory.softCleared (m : Memory) : Memory := (m.clear 0x04 0x17).clear 0x100 0x500

/-- The state after a soft reset, with CLEARING set (R23): every block at its reset values, NEN and what the manual keeps of
exchange memory kept. (DEDUCED, log entry 23) -/
def State.softReset (s : State) : State :=
  { exc := { clearing := true, lastCmd := resetCode, lastResult := .accepted, nen := s.exc.nen },
    port := { out := s.port.out, hiZ := s.port.hiZ },
    mem := s.mem.softCleared, freeCount := s.freeCount, pending := s.pending }

/-- RESET (R7, R23): accepted in every part state. -/
def execReset (_upper : BitVec 13) (s : State) : Host.Outcome State Fault Refusal :=
  if s.exc.clearing then .next s else .next s.softReset

/-- PCTL_NO_COMMAND (R4): no effect, and the last command is unchanged. -/
def execPctlNoCommand (_upper : BitVec 13) (s : State) : Host.Outcome State Fault Refusal :=
  .next s

/-- PCTL_RESERVED_COMMAND (R4): recorded as the last command, REFUSED. -/
def execPctlReservedCommand (code : BitVec 3) (_upper : BitVec 13) (s : State) : Host.Outcome State Fault Refusal :=
  if s.exc.clearing then .next s else .next (s.recordCommand code .refused)

/-- POWER_ON_RESET (R22): everything in progress abandoned, every reset value taken, exchange memory cleared and the identity
written, with CLEARING set. (DEDUCED, log entry 23) -/
def execPowerOnReset (s : State) : Host.Outcome State Fault Refusal :=
  .next { exc := { clearing := true }, mem := identityMemory, freeCount := s.freeCount, pending := s.pending }

/-- MEMORY_CLEAR_DONE (R22, R23). -/
def execMemoryClearDone (s : State) : Host.Outcome State Fault Refusal :=
  .next { s with exc := { s.exc with clearing := false } }

/-- The last group that adoption reads (R8). -/
def lastGroup : Nat := 9

/-- The adoption reader goes on with the next group, the valid one held as pending values (R8). -/
def State.nextGroup (s : State) (a : Adoption) (g : Groups) : State :=
  { s with exc := { s.exc with adoption := some { a with group := a.group + 1, words := [], values := g } } }

/-- The words of the group as the adoption reader has read them, with those it has still to read (R8).
(DESIGN CHOICE, log entry 7) -/
def Adoption.finishGroup (m : Memory) (a : Adoption) : Adoption :=
  a.readMore m (groupWords a.group - a.words.length)

/-- The requests that R6 puts before the adoption reader's are granted while it still has words to read. -/
def State.readerTurn (s : State) : State := if s.adoptionWaits then s.serveLower else s

/-- A group read whole: validated, and adoption goes on or ends (R8, R9, R10). -/
def State.judgeGroup (s : State) (a : Adoption) : Host.Outcome State Fault Refusal :=
  match validateGroup a.group (bytesOf (a.finishGroup s.mem).words) a.values with
  | .refused index reason => finish (s.adoptRefused a index reason)
  | .valid g => if a.group = lastGroup then finish (s.adoptAccepted g) else .next (s.nextGroup a g)

/-- ADOPTION_GROUP_READ (R8, R9, R10). -/
def execAdoptionGroupRead (s : State) : Host.Outcome State Fault Refusal :=
  match s.exc.adoption with
  | none => .next s
  | some a => s.readerTurn.judgeGroup a

end Sys2Proof.Machine
end

