-- ==== Sys2Proof/Machine/Exchange.lean ====
section
/-!
DEFINITION. The exchange controller's own events: the scan timer and the scan work (R14 to R19), the AT_CHUFF take (R15), the
inbox writer (R20) and the board timer (R21).
-/
namespace Sys2Proof.Machine

/-- A running timer's remaining ms, one ms later. -/
def msLess (t : Option Nat) : Option Nat := t.map fun n => n - 1

/-- What counts in ms outside SUP: the chuff interval count in RUNNING and STOPPING (R93), and the remaining times of the lost
timer (R90), the turn timer (R54) and the failsafe timer (R167). (DESIGN CHOICE, log entry 11) -/
def State.countMs (s : State) : State :=
  { s with
    chk := { s.chk with
      interval := if s.exc.part.driving then min 65535 (s.chk.interval + 1) else s.chk.interval,
      lostTimer := msLess s.chk.lostTimer },
    srg := { s.srg with turnTimer := msLess s.srg.turnTimer },
    rrx := { s.rrx with failsafe := msLess s.rrx.failsafe } }

/-- The millisecond count at an expiry of the scan timer in any state but IDLE (R14). -/
def State.advanceMs (s : State) : State := (s.setMs (s.exc.ms + 1)).countMs

/-- Scan work waits for a start's outcome (R119). -/
def State.scanBusy (s : State) : Bool := s.exc.scan.isSome

/-- The scan work of an expiry is held while earlier scan work is in progress (R14). -/
def State.holdScan (s : State) (held : Bool) : State :=
  { s with exc := { s.exc with scanHeld := held } }

/-- An expiry of the scan timer: the count, and the scan's work or its being held (R14). -/
def State.scanExpiry (s : State) : State :=
  let s1 := s.advanceMs
  if s1.scanBusy then s1.holdScan true else s1.scanWork

/-- SCAN_TIMER (R14): in IDLE it sets nothing off, and in every other state the requests of the lower-numbered classes come before
the scanner's grants (R6). -/
def execScanTimer (s : State) : Host.Outcome State Fault Refusal :=
  if s.exc.part = .idle then .next s else finish s.serveLower.scanExpiry

/-- SCAN_WORK_DEFERRED (R14): held scan work starts when the work in progress has ended. -/
def execScanWorkDeferred (s : State) : Host.Outcome State Fault Refusal :=
  if s.exc.scanHeld = true ∧ s.scanBusy = false then finish (s.serveLower.holdScan false).scanWork else .next s

/-- The AT_CHUFF take in RUNNING: a post withdrawn since is not taken, and the slot state becomes EMPTY (R15).
(DEDUCED, log entry 16) -/
def State.chuffTake (s : State) : State :=
  if s.mem.readSlot.tally = s.exc.lastTaken then s.setSlotState .empty else s.takeSlot

/-- AT_CHUFF_SLOT_TAKE (R15): the take of a chuff event that reached EXC, made once no scan work is in progress. -/
def execAtChuffSlotTake (s : State) : Host.Outcome State Fault Refusal :=
  if s.exc.chuffHeld = true ∧ s.scanBusy = false then
    finish (if s.exc.part = .running then s.serveLower.dropChuff.chuffTake else s.dropChuff)
  else .next s

/-- INBOX_WRITE (R20). -/
def execInboxWrite (s : State) : Host.Outcome State Fault Refusal :=
  .next s.inboxFinish

/-- BOARD_TIMER (R21): a board write begins, or one waits behind the write in progress. -/
def execBoardTimer (s : State) : Host.Outcome State Fault Refusal :=
  if s.exc.part = .idle then .next s
  else if s.exc.board.isSome then .next { s with exc := { s.exc with boardHeld := true } }
  else .next s.beginBoard

/-- BOARD_WRITE_DEFERRED (R21): the write that waited begins when the one in progress has ended. -/
def execBoardWriteDeferred (s : State) : Host.Outcome State Fault Refusal :=
  if s.exc.boardHeld = true ∧ s.exc.board = none then .next { s with exc := { s.exc with boardHeld := false } }.beginBoard
  else .next s

end Sys2Proof.Machine
end

