-- ==== Sys2Proof/Machine/Regulation.lean ====
section
/-!
DEFINITION. The regulation tick: its start (R44, R45, R46, R54, R55, R58, R72), the settle time (R72), its completion (R47 to R53,
R54, R74, R76, R81, R82, R90, R91), and the turn timeout (R56).
-/
namespace Sys2Proof.Machine

/-! ### The start of a tick -/

/-- A flip (R55): the bridge direction becomes the requested direction, I and sat are 0, and the turn timer stops. -/
def State.flipBridge (s : State) : State :=
  { s with srg := { s.srg with
      bridgeDir := s.drq.dir, motors := s.srg.motors.map fun x => { x with i := 0, sat := .zero } } }.stopTurn

/-- The traction state changed at a tick's start, with no other effect of its own (R45). -/
def State.toTraction (s : State) (t : TractionState) : State :=
  { s with srg := { s.srg with traction := t } }

/-- The requested direction differs from the bridge direction (R45). -/
def State.otherWay (s : State) : Bool := s.drq.dir != s.srg.bridgeDir

/-- STANDING settled (R45). -/
def State.settleStanding (s : State) : State :=
  let s1 := if s.otherWay then s.flipBridge else s
  if 0 < s1.drq.s ∧ s1.sup.state ≠ .dark then s1.toTraction .moving else s1

/-- MOVING settled (R45, R54). -/
def State.settleMoving (s : State) : State :=
  if s.otherWay then
    if 0 < s.srg.r then s.toTraction .turning else s.flipBridge
  else s

/-- A turn waits no longer: the locomotive stands, or the turn timeout has passed (R45, R56). -/
def State.turnDone (s : State) : Bool :=
  s.srg.r == 0 && (decide (s.srg.vl ≤ s.cfg.traction.standstill) || s.srg.turnMark)

/-- TURNING settled (R45, R54, R55). -/
def State.settleTurning (s : State) : State :=
  if s.otherWay = false then s.stopTurn.toTraction .moving
  else if s.turnDone then
    if 0 < s.drq.s then s.flipBridge.toTraction .moving else s.flipBridge.toStanding
  else s

/-- The traction state settled against the request at a tick's start (R45). -/
def State.settle (s : State) : State :=
  match s.srg.traction with
  | .standing => s.settleStanding
  | .moving => s.settleMoving
  | .turning => s.settleTurning
  | _ => s

/-- One ramp step toward a target; a step of 0 jumps (R46). -/
def rampStep (r target up down : Nat) : Nat :=
  if r < target then (if up = 0 then target else min (r + up) target)
  else if target < r then (if down = 0 then target else max (r - down) target)
  else r

/-- A step of the momentum, used as 0 while MOMENTUM_OFF is on (R46). -/
def momentumStep (off : Bool) (step : Nat) : Nat := if off then 0 else step

/-- R after the ramp of a tick (R46). -/
def State.rampedR (s : State) : Nat :=
  let c := s.cfg.traction
  let up := momentumStep s.drq.momentumOff c.accel
  let down := momentumStep s.drq.momentumOff c.decel
  match s.srg.traction with
  | .moving => rampStep s.srg.r s.drq.s up down
  | .turning => rampStep s.srg.r 0 up down
  | .eBrake => rampStep s.srg.r 0 up c.emergency
  | _ => s.srg.r

/-- E_BRAKE whose ramp leaves R = 0 becomes E_HELD (R58): duty 0, the brake order, and slip ended (R83). -/
def State.toHeld (s : State) : State :=
  let s1 := s.zeroDuty
  (({ s1 with srg := { s1.srg with traction := .eHeld, brakeOrder := true } }).endSlip).followModes

/-- The ramp of a tick with what follows from R = 0 in E_BRAKE (R58) and in TURNING (R51, R68, R83). -/
def State.ramp (s : State) : State :=
  let s1 := { s with srg := { s.srg with r := s.rampedR } }
  if s1.srg.r = 0 then
    match s1.srg.traction with
    | .eBrake => s1.toHeld
    | .turning => s1.stopSlip.followModes
    | _ => s1.followModes
  else s1.followModes

/-- The direction that a flip settled at this tick's start gives the channels (R72). -/
def flipOf (before after : State) : Option Direction :=
  if before.srg.bridgeDir = after.srg.bridgeDir then none else some after.srg.bridgeDir

/-- The ramp of a tick brought R to 0 in TURNING (R54). -/
def turnZeroOf (before after : State) : Bool :=
  decide (0 < before.srg.r) && after.srg.r == 0 && after.srg.traction == .turning

/-- The tick goes on to its completion: SRG asks BFU for the float windows (R46, R72). -/
def State.openTick (s : State) (flip : Option Direction) (turnZero : Bool) : State :=
  ({ s with srg := { s.srg with tick := some ⟨s.cfg.traction, s.srg.bridgeDir, turnZero⟩ } }).openWindow flip

/-- A tick begins (R44, R45, R46). A settled state or a ramp that ends STOPPING abandons it (R12, R62). -/
def State.beginTick (s : State) : State :=
  let s1 := s.settle
  let s2 := s1.endStopping
  if s2.exc.part.driving = false then s2
  else
    let s3 := s2.ramp
    let s4 := s3.endStopping
    if s4.exc.part.driving = false then s4
    else s4.openTick (flipOf s s4) (turnZeroOf s2 s4)

/-- REGULATION_TIMER (R44): while the part is RUNNING or STOPPING, an expiry begins a tick once the previous one has completed.
(DEDUCED, log entry 25) -/
def execRegulationTimer (s : State) : Host.Outcome State Fault Refusal :=
  if s.exc.part.driving = true ∧ s.srg.regTimer = true ∧ s.srg.tick = none then finish s.beginTick else .next s

/-- SETTLE_TIME_ELAPSED (R72): the conversions of the open float window begin. -/
def execSettleTimeElapsed (s : State) : Host.Outcome State Fault Refusal :=
  match s.bfu.window with
  | some ⟨.settling, flip⟩ => .next { s with bfu := { s.bfu with window := some ⟨.converting, flip⟩ } }
  | _ => .next s

/-- TURN_TIMEOUT (R56): the running turn timer expires and sets its mark. -/
def execTurnTimeout (s : State) : Host.Outcome State Fault Refusal :=
  if s.srg.turnTimer.isSome then .next { s with srg := { s.srg with turnTimer := none, turnMark := true } } else .next s

/-! ### The completion of a tick: BFU's share -/

/-- The current average formed at a completion, the samples discarded (R74). -/
def Channel.average (ch : Channel) : Channel :=
  { ch with avg := if ch.count = 0 then 0 else ch.sum / ch.count, sum := 0, count := 0 }

/-- The persistence count updated from the CBC mark, which is then cleared (R76). -/
def Channel.persistStep (ch : Channel) : Channel :=
  { ch with persist := if ch.cbcMark then ch.persist + 1 else 0, cbcMark := false }

/-- The present motors' channels at a completion (R74, R76). -/
def State.judgeChannels (s : State) : State :=
  let f := fun (m : Motor) (ch : Channel) => if s.cfg.traction.present m then ch.average.persistStep else ch
  { s with bfu := { s.bfu with chans := ⟨f .a s.bfu.chans.a, f .b s.bfu.chans.b⟩ } }

/-- A motor's persistence count has reached K (R76). -/
def State.stalled (s : State) (m : Motor) : Bool :=
  s.cfg.traction.present m && decide (s.cfg.traction.persist ≤ (s.chan m).persist)

/-- Both persistence counts become 0 (R76). -/
def State.clearPersist (s : State) : State :=
  s.onChans fun ch => { ch with persist := 0 }

/-- The stall trips of a completion; STALL_A comes first (R76). -/
def State.judgeStall (s : State) : State :=
  if s.stalled .a then s.clearPersist.tripNow .stallA
  else if s.stalled .b then s.clearPersist.tripNow .stallB
  else s

/-- The window stays open until the next period start (R72). -/
def State.windowEnding (s : State) : State :=
  { s with bfu := { s.bfu with window := s.bfu.window.map fun w => { w with phase := .ending } } }

/-! ### The completion of a tick: SRG's share -/

/-- The raw speed V (R47). -/
def rawSpeed (kc b : Nat) : Nat := min 4095 ((b * kc + 128) / 256)

/-- The filtered speed Vf (R48). -/
def filterSpeed (vf v : Nat) : Nat := ((vf : Int) + ((v : Int) - vf) / 4).toNat

/-- The motor takes part in a tick that began under `c`: it is present under `c` and under the active group (R44, R65).
(DEDUCED, log entry 32) -/
def State.inTick (s : State) (c : Traction) (m : Motor) : Bool := c.present m && s.cfg.traction.present m

/-- A motor's speed estimated and filtered (R47, R48). -/
def SrgMotor.estimate (kc b : Nat) (x : SrgMotor) : SrgMotor := { x with vf := filterSpeed x.vf (rawSpeed kc b) }

/-- The loco speed (R48). -/
def locoSpeed (two : Bool) (p : PerMotor SrgMotor) : Nat := if two then (p.a.vf + p.b.vf) / 2 else p.a.vf

/-- The speed estimates and the loco speed at a completion (R47, R48). -/
def State.estimate (s : State) (t : Tick) (emfA emfB : EmfSet) : State :=
  let a := if s.inTick t.cfg .a then s.srg.motors.a.estimate t.cfg.kc (emfAverage emfA t.dir) else s.srg.motors.a
  let b := if s.inTick t.cfg .b then s.srg.motors.b.estimate t.cfg.kc (emfAverage emfB t.dir) else s.srg.motors.b
  { s with srg := { s.srg with motors := ⟨a, b⟩, vl := locoSpeed (s.inTick t.cfg .b) ⟨a, b⟩ } }

/-- MOVING with R = 0 at or below the standstill threshold becomes STANDING (R49). -/
def State.judgeStanding (s : State) (c : Traction) : State :=
  if s.srg.traction = .moving ∧ s.srg.r = 0 ∧ s.srg.vl ≤ c.standstill then s.toStanding else s

/-- The traction states in which a completion regulates and judges slip (R50, R81). -/
def State.regulating (s : State) : Bool :=
  match s.srg.traction with
  | .moving => true
  | .eBrake => true
  | .turning => decide (0 < s.srg.r)
  | _ => false

/-- The difference of the filtered speeds (R81). -/
def speedGap (p : PerMotor SrgMotor) : Nat := (p.a.vf - p.b.vf) + (p.b.vf - p.a.vf)

/-- The motor with the greater Vf, or the one named before when the two are equal (R82). -/
def fasterMotor (p : PerMotor SrgMotor) (before : Option Motor) : Option Motor :=
  if p.b.vf < p.a.vf then some .a else if p.a.vf < p.b.vf then some .b else before

/-- Slip judged in NORMAL (R81, R82). -/
def State.slipNormal (s : State) (c : Traction) : State :=
  let run := if c.slipThresh < speedGap s.srg.motors then s.bfu.slipRun + 1 else 0
  if c.slipTicks ≤ run then
    { s with bfu := { s.bfu with slip := .slipping, slipRun := 0, faster := fasterMotor s.srg.motors s.bfu.faster } }.latch .slip
  else { s with bfu := { s.bfu with slipRun := run } }

/-- Slip judged in SLIPPING (R81, R82). -/
def State.slipSlipping (s : State) (c : Traction) : State :=
  let run := if speedGap s.srg.motors ≤ c.slipThresh / 2 then s.bfu.slipRun + 1 else 0
  if c.slipTicks ≤ run then s.endSlip
  else { s with bfu := { s.bfu with slipRun := run, faster := fasterMotor s.srg.motors s.bfu.faster } }

/-- Slip detection is in force: two motors and a threshold above 0 (R81). -/
def State.slipInForce (s : State) (c : Traction) : Bool := s.inTick c .b && decide (0 < c.slipThresh)

/-- Slip judged at a completion (R81, R82, R83). -/
def State.judgeSlip (s : State) (c : Traction) : State :=
  if s.slipInForce c = false then s.endSlip
  else if s.regulating = false then s
  else match s.bfu.slip with
    | .normal => s.slipNormal c
    | .slipping => s.slipSlipping c

/-- The smallest and the greatest integral (R43). -/
def integralMin : Int := -1048576

/-- The greatest integral (R43). -/
def integralMax : Int := 1048575

/-- The integral after a completion (R50). -/
def nextIntegral (ki : Nat) (e i : Int) (sat : Sat) : Int :=
  if (sat = .plus ∧ 0 < e) ∨ (sat = .minus ∧ e < 0) then i else clampInt (i + e * ki) integralMin integralMax

/-- The regulator sum P (R50). -/
def regulatorSum (c : Traction) (r : Nat) (e i : Int) : Int := (r : Int) * c.kff + e * c.kp + i

/-- The saturation flag of a completion; +1 is chosen first (R52). -/
def nextSat (q : Int) (dlim : Nat) : Sat := if (dlim : Int) ≤ q then .plus else if q ≤ 0 then .minus else .zero

/-- A motor regulated at a completion (R50, R52). -/
def SrgMotor.regulate (c : Traction) (r dlim : Nat) (x : SrgMotor) : SrgMotor :=
  let e : Int := (r : Int) - x.vf
  let i := nextIntegral c.ki e x.i x.sat
  let q := regulatorSum c r e i / 1024
  { x with i := i, d := clampNat q dlim, sat := nextSat q dlim }

/-- One motor regulated, and its duty handed (R50, R51, R52). -/
def State.regulateMotor (s : State) (c : Traction) (m : Motor) : State :=
  if s.inTick c m then
    let x := (s.srg.motors.get m).regulate c s.srg.r (s.dutyLimit c m)
    { s with srg := { s.srg with motors := s.srg.motors.set m x } }.handDuty m x.d
  else s

/-- Regulation at a completion; in the states without it, duty, integral and flag are 0 (R50). -/
def State.regulate (s : State) (c : Traction) : State :=
  if s.regulating then (s.regulateMotor c .a).regulateMotor c .b else s.zeroDuty

/-- The average duty over the present motors (R53). -/
def meanDuty (two : Bool) (p : PerMotor SrgMotor) : Nat := if two then (p.a.d + p.b.d) / 2 else p.a.d

/-- Labour (R53). -/
def labourOf (mean dff : Nat) : Nat := clampNat (4 + ((mean : Int) - dff) / 64) 7

/-- Speed band (R53). -/
def bandOf (c : Traction) (vl : Nat) : Nat :=
  (if c.t1 ≤ vl then 1 else 0) + (if c.t2 ≤ vl then 1 else 0) + (if c.t3 ≤ vl then 1 else 0)

/-- Labour and speed band at a completion (R53). -/
def State.judgeLabour (s : State) (c : Traction) : State :=
  { s with srg := { s.srg with
      labour := labourOf (meanDuty (s.inTick c .b) s.srg.motors) (s.srg.r * c.kff / 1024), band := bandOf c s.srg.vl } }

/-- The turn timer's time in ms (R54). -/
def turnTime : Nat := 500

/-- The turn timer started at the completion of the tick that brought R to 0 in TURNING (R54). -/
def State.startTurn (s : State) (t : Tick) : State :=
  if t.turnZero = true ∧ s.srg.traction = .turning then
    { s with srg := { s.srg with turnTimer := some turnTime, turnMark := false } }
  else s

/-- BFU's share of a completion: averages, persistence and stalls, and the window on its way to its end (R72, R74, R76). -/
def State.completeBridge (s : State) : State :=
  ({ s with srg := { s.srg with tick := none } }.windowEnding.judgeChannels).judgeStall

/-- SRG's share of a completion up to the traction state (R47, R48, R49, R12). -/
def State.completeSpeed (s : State) (t : Tick) (emfA emfB : EmfSet) : State :=
  ((s.estimate t emfA emfB).judgeStanding t.cfg).endStopping

/-- The rest of a completion: slip, duty, labour, the turn timer, and the chuff clock (R50 to R54, R81, R90, R91). -/
def State.completeDrive (s : State) (t : Tick) : State :=
  ((((s.judgeSlip t.cfg).regulate t.cfg).judgeLabour t.cfg).startTurn t).judgeLost.camAdvance

/-- A completion (R47 to R53). A stall or a standstill that ends STOPPING abandons the rest (R44, R62). (DEDUCED, log entry 18) -/
def State.complete (s : State) (t : Tick) (emfA emfB : EmfSet) : State :=
  let s1 := s.completeBridge
  if s1.exc.part.driving = false then s1
  else
    let s2 := s1.completeSpeed t emfA emfB
    if s2.exc.part.driving = false then s2 else s2.completeDrive t

/-- The conversions of the open window are being taken (R72). -/
def State.converting (s : State) : Bool :=
  match s.bfu.window with
  | some ⟨.converting, _⟩ => true
  | _ => false

/-- TICK_COMPLETION (R47): BFU delivers the conversions of the tick in progress. -/
def execTickCompletion (emfA emfB : EmfSet) (s : State) : Host.Outcome State Fault Refusal :=
  match s.srg.tick with
  | none => .next s
  | some t => if s.converting then finish (s.complete t emfA emfB) else .next s

end Sys2Proof.Machine
end

