-- ==== Sys2Proof/Machine/Bridge.lean ====
section
/-!
DEFINITION. The bridge and fault unit's own events: period starts (R69, R71, R72), dead times (R70), current samples (R74), the
comparators (R75, R77) and DRVFLT (R78).
-/
namespace Sys2Proof.Machine

/-- The switches of a channel brought to the pattern of its mode (R68). -/
def Channel.holdMode (c : Traction) (m : Mode) (ch : Channel) : Channel := (ch.enter c m).apply c

/-- The float window has completed its conversions and ends at this period start (R72). -/
def State.windowEnds (s : State) : Bool :=
  match s.bfu.window with
  | some ⟨.ending, _⟩ => true
  | _ => false

/-- The direction that a flip gives the channels at the end of the window (R72). -/
def State.windowFlip (s : State) : Option Direction :=
  match s.bfu.window with
  | some w => w.flip
  | none => none

/-- The window closed, with a settled flip applied (R72). It turns both channels, that of an absent motor too, so that a motor which a RELOAD
makes newly present stands in the bridge direction (R84 gives it none). (DESIGN CHOICE, log entry 51) -/
def State.closeWindow (s : State) : State :=
  let d := s.windowFlip
  let s1 := s.onChans fun ch => { ch with dir := d.getD ch.dir }
  { s1 with bfu := { s1.bfu with window := none } }

/-- Both channels in the mode that R68 gives at this moment. -/
def State.takeModes (s : State) : State :=
  (s.onChan .a (Channel.holdMode s.cfg.traction (s.modeOf .a))).onChan .b
    (Channel.holdMode s.cfg.traction (s.modeOf .b))

/-- A period start of both counters (R69, R71, R72): raised duties apply, a window whose conversions are complete ends, and
outside a window each channel takes its mode, DRIVE among them. -/
def State.periodStart (s : State) : State :=
  let open1 := s.bfu.window.isSome && !s.windowEnds
  let s1 := s.onChans (Channel.newPeriod s.cfg.traction open1)
  if open1 then s1
  else (if s.windowEnds then s1.closeWindow else s1).takeModes

/-- PWM_PERIOD_START (R69): both counters run from the same start. -/
def execPwmPeriodStart (s : State) : Host.Outcome State Fault Refusal :=
  if (s.chan .a).pos.isSome then .next s.periodStart else .next s

/-- One half-bridge of a channel changed. -/
def Channel.onLeg (l : LegId) (f : Leg → Leg) (ch : Channel) : Channel :=
  match l with
  | .leg1 => { ch with leg1 := f ch.leg1 }
  | .leg2 => { ch with leg2 := f ch.leg2 }

/-- DEAD_TIME_ELAPSED (R70): the delayed turn-on of a half-bridge takes place. -/
def execDeadTimeElapsed (m : Motor) (leg : LegId) (s : State) : Host.Outcome State Fault Refusal :=
  .next (s.onChan m (Channel.onLeg leg Leg.elapse))

/-- The middle of the period (R69). -/
def periodMiddle (c : Traction) : Nat := periodTicks c / 2

/-- The value of the sample of a period (R74): the limit level when the limit comparator has ended the on interval, 0 without an
on interval, and otherwise the current as measured. -/
def sampleValue (c : Traction) (ch : Channel) (counts : BitVec 10) (flow : Direction) : Nat :=
  if ch.phase = .limited then c.limit
  else if ch.duty = 0 then 0
  else currentMilliamps counts flow ch.dir

/-- The current sample of a period taken at its middle (R74). -/
def Channel.sample (c : Traction) (counts : BitVec 10) (flow : Direction) (ch : Channel) : Channel :=
  let x := ch.moveTo c (periodMiddle c)
  let v := sampleValue c x counts flow
  { x with sum := x.sum + v, count := x.count + 1, periodSample := some v }

/-- A period that gives a sample: in DRIVE, outside a float window, not sampled yet (R74). -/
def Channel.samples (ch : Channel) : Bool :=
  ch.mode == .drive && !ch.overlap && ch.periodSample.isNone && ch.pos.isSome

/-- CURRENT_SAMPLE (R74). -/
def execCurrentSample (m : Motor) (counts : BitVec 10) (flow : Direction) (s : State) : Host.Outcome State Fault Refusal :=
  if (s.chan m).samples then .next (s.onChan m (Channel.sample s.cfg.traction counts flow)) else .next s

/-- A channel in DRIVE counted on to its on interval, when that is still to come (R69). -/
def Channel.toOn (c : Traction) (ch : Channel) : Channel :=
  if ch.mode = .drive ∧ ch.phase = .before ∧ 0 < ch.duty then ch.moveTo c (onStart c ch.duty) else ch

/-- The limit comparator ends the on interval (R75): the limit off action follows, and the CBC mark is set. Whether this period
set a mark that was clear is kept for a float window that may overlap it (R72). -/
def Channel.limited (c : Traction) (ch : Channel) : Channel :=
  Channel.apply c { ch with phase := .limited, cbcMark := true, periodCbc := ch.periodCbc || !ch.cbcMark }

/-- CBC_LIMIT (R75): the comparator acts only during an on interval of DRIVE. -/
def execCbcLimit (m : Motor) (s : State) : Host.Outcome State Fault Refusal :=
  let ch := (s.chan m).toOn s.cfg.traction
  if ch.mode = .drive ∧ ch.phase = .on then .next (s.onChan m fun _ => ch.limited s.cfg.traction) else .next s

/-- The trip reason of a short on a motor (R77). -/
def shortReason : Motor → TripReason
  | .a => .shortA
  | .b => .shortB

/-- A channel with a conducting switch, counted on to its on interval where none conducts yet (R77). -/
def Channel.conducting (c : Traction) (ch : Channel) : Channel := if ch.conducts then ch else ch.toOn c

/-- SHORT_DETECTED (R77): the comparator acts at every moment a switch of the channel conducts. -/
def execShortDetected (m : Motor) (s : State) : Host.Outcome State Fault Refusal :=
  let ch := (s.chan m).conducting s.cfg.traction
  if ch.conducts then finish ((s.onChan m fun _ => ch).tripNow (shortReason m)) else .next s

/-- DRVFLT_QUALIFIED (R78): the qualified level, and the trip DRIVER where its conditions hold. -/
def execDrvfltQualified (level : Level) (s : State) : Host.Outcome State Fault Refusal :=
  finish { s with bfu := { s.bfu with drvflt := some level } }.checkDriver

end Sys2Proof.Machine
end

