-- ==== Sys2Proof/Machine/ChuffClock.lean ====
section
/-!
DEFINITION. The chuff clock's own events: the AXS samples (R86 to R89) and the lost timer's expiry (R90).
-/
namespace Sys2Proof.Machine

/-- One sample of AXS: the capture timer counts, the qualifier judges, and a qualified edge goes on to the prescaler (R86, R87). -/
def State.sampleAxs (s : State) (level : Level) : State :=
  let r := s.chk.capturePass.qualify s.cfg.chuff.qualifier level
  let s1 := { s with chk := r.1 }
  match r.2 with
  | some x => s1.qualifiedEdge x
  | none => s1

/-- AXS_SAMPLE (R86): AXS is sampled in RUNNING and STOPPING. -/
def execAxsSample (level : Level) (s : State) : Host.Outcome State Fault Refusal :=
  if s.exc.part.driving then .next (s.sampleAxs level) else .next s

/-- The sensor is lost (R90). -/
def State.loseSensor (s : State) : State :=
  { s with chk := { s.chk with source := .sensorLost, lostTimer := none } }.latch .sensorLost

/-- LOST_TIMER_EXPIRY (R90): the running lost timer expires, in SENSOR_LIVE. -/
def execLostTimerExpiry (s : State) : Host.Outcome State Fault Refusal :=
  if s.chk.lostTimer.isSome = true ∧ s.chk.source = .sensorLive then .next s.loseSensor else .next s

end Sys2Proof.Machine
end

