-- ==== Sys2Proof/Machine/SoundEngine.lean ====
section
/-!
DEFINITION. The sound engine's own events: the output sample timer with the mixer (R106, R107, R110, R112, R113), the modulator's
carrier period (R114), starts (R101 to R105), and the squeal check (R129, R130).
-/
namespace Sys2Proof.Machine

/-! ### Playback and the mixer -/

/-- A voice's sample: the byte at its position, read as signed (R106). -/
def Voice.sampleAt (m : Memory) (v : Voice) : Int := (m.read (wrapAddr (v.copy.start + v.pos / 256))).toInt

/-- A voice's gain, from its clip gain and volume (R112). -/
def Voice.gain (v : Voice) : Nat := v.copy.gain * v.volume / 255

/-- A voice's contribution to the mix (R112). -/
def Voice.contribution (m : Memory) (v : Voice) : Int := v.sampleAt m * v.gain

/-- A position at or beyond the loop end brought back into the loop: the loop length is subtracted for as long as the position
still stands there (R107). -/
def loopBack (c : Clip) (p : Nat) : Nat :=
  let e := c.loopEnd * 256
  let l := (c.loopEnd - c.loopStart) * 256
  if p < e then p else p - l * ((p - e) / l + 1)

/-- A voice after one expiry: the pitch step, and the loop rule in LOOPING (R106, R107). -/
def Voice.advance (v : Voice) : Voice :=
  let p := v.pos + v.pitch
  { v with pos := if v.state = .looping then loopBack v.copy p else p }

/-- The voice has reached its clip end (R110). -/
def Voice.atEnd (v : Voice) : Bool := v.state != .looping && decide (v.copy.length * 256 ≤ v.pos)

/-- One voice's part in an expiry: what it adds to the sum, its advance, and its end (R106). -/
def State.playVoice (v : Fin 8) (acc : State × Int) : State × Int :=
  let x := acc.1.voice v
  if x.active then
    let y := x.advance
    let s1 := acc.1.setVoice v y
    (if y.atEnd then s1.endVoice v .playedOut else s1, acc.2 + x.contribution acc.1.mem)
  else acc

/-- Voices' parts in an expiry, in ascending voice number (R106). -/
def State.playVoices : List (Fin 8) → State × Int → State × Int
  | [], acc => acc
  | v :: rest, acc => State.playVoices rest (State.playVoice v acc)

/-- The output value of a sum under an effective volume (R113). -/
def outputValue (sum : Int) (volume : Nat) : Int := clampInt (sum * volume / 256) (-32768) 32767

/-- The output value of the previous expiry handed to the modulator (R106, R114). -/
def State.handOutput (s : State) : State := { s with snd := { s.snd with modIn := s.snd.out } }

/-- The next output value formed from the voices active now (R106, R112, R113). -/
def State.formOutput (s : State) : State :=
  let r := State.playVoices octetIndices (s, 0)
  { r.1 with snd := { r.1.snd with out := outputValue r.2 (min s.snd.master s.snd.cap) } }

/-- The squeal check count in RUNNING and STOPPING: at the expiry that brings it round to 0 a squeal check falls due (R129). -/
def State.countSqueal (s : State) : State :=
  if s.exc.part.driving then
    if 159 ≤ s.snd.squealCount then { s with snd := { s.snd with squealCount := 0, squealDue := true } }
    else { s with snd := { s.snd with squealCount := s.snd.squealCount + 1 } }
  else s

/-- OUTPUT_SAMPLE_TIMER (R106): in every part state but IDLE. -/
def execOutputSampleTimer (s : State) : Host.Outcome State Fault Refusal :=
  if s.exc.part = .idle then .next s else .next s.handOutput.formOutput.countSqueal

/-- CARRIER_PERIOD_START (R114): the running modulator uses the value handed to it last. -/
def execCarrierPeriodStart (s : State) : Host.Outcome State Fault Refusal :=
  if s.snd.modOn then .next { s with snd := { s.snd with modNow := s.snd.modIn } } else .next s

/-- How much of each carrier period SPKP is high, in 65,536ths of it: Out + 32,768 while the modulator runs, and 0, held low,
while it is stopped (R114, R116). It is computed, never stored. -/
def State.spkpHigh (s : State) : Nat := if s.snd.modOn then (s.snd.modNow + 32768).toNat else 0

/-- How much of each carrier period SPKN is high, in 65,536ths of it: the complement of SPKP while the modulator runs, and 0, held
low, while it is stopped (R114, R116). It is computed, never stored. -/
def State.spknHigh (s : State) : Nat := if s.snd.modOn then 65536 - s.spkpHigh else 0

/-! ### Starts -/

/-- A start request's own fields are in range (R101). -/
def StartReq.paramsOk (r : StartReq) : Bool :=
  decide (1 ≤ r.pitch ∧ r.pitch ≤ 1023 ∧ r.volume ≤ 255 ∧ r.priority ≤ 7 ∧ r.clip ≤ 127)

/-- A start in progress ends with an outcome, which is handed back (R101). -/
def State.endStart (s : State) (asker : Requester) (o : StartOutcome) : State :=
  { s with snd := { s.snd with current := none } }.handBack asker o

/-- The start at the head of the queue begun (R101): it is refused without its descriptor when SND is inactive or a field is out
of range, and otherwise its descriptor is to be read. (DEDUCED, log entry 34) -/
def State.beginStart (s : State) (r : StartReq) (rest : List StartReq) : State :=
  let s1 := { s with snd := { s.snd with queue := rest, current := some { req := r } } }
  if s1.soundInactive then s1.endStart r.asker (.refused .inactive)
  else if r.paramsOk = false then s1.endStart r.asker (.refused .badParam)
  else s1

/-- START_BEGIN (R101): with no start in progress and the queue not empty. -/
def execStartBegin (s : State) : Host.Outcome State Fault Refusal :=
  match s.snd.current, s.snd.queue with
  | none, r :: rest => finish (s.beginStart r rest)
  | _, _ => .next s

/-- The state a started voice takes (R105). -/
def startState (c : Clip) (r : StartReq) : VoiceState :=
  if c.loopEnd ≠ 0 ∧ r.loop = true then (if r.mark then .released else .looping) else .playing

/-- The voice record of a start (R105): priority and tag belong to POOL only. -/
def startedVoice (c : Clip) (r : StartReq) : Voice :=
  { state := startState c r, clip := r.clip, copy := c, pos := 0, pitch := r.pitch, volume := r.volume,
    priority := if r.cls = .pool then r.priority else 0, tag := if r.cls = .pool then r.tag else 0 }

/-- A request started on a voice (R105); a pool voice joins the end of the start order list (R100). -/
def State.startOn (s : State) (v : Fin 8) (c : Clip) (r : StartReq) : State :=
  let s1 := s.setVoice v (startedVoice c r)
  if r.cls = .pool then { s1 with snd := { s1.snd with order := s1.snd.order.erase v ++ [v] } } else s1

/-- A voice ended for one reason, and a request started on it (R102, R103, R104). -/
def State.replaceOn (s : State) (v : Fin 8) (reason : EndReason) (c : Clip) (r : StartReq) : State :=
  (s.endVoice v reason).startOn v c r

/-- The active pool voice that a request's nonzero tag restarts in place (R103). -/
def State.restartVoice (s : State) (r : StartReq) : Option (Fin 8) :=
  if r.tag = 0 then none else s.taggedVoice r.tag

/-- The lowest-numbered FREE pool voice (R104). -/
def State.freePoolVoice (s : State) : Option (Fin 8) := poolVoices.find? fun v => !(s.voice v).active

/-- The arbiter's victim among voices in start order: the lowest priority strictly below the request's, the earliest among equal
ones (R104). -/
def victimOf (prio : Fin 8 → Nat) (limit : Nat) (order : List (Fin 8)) : Option (Fin 8) :=
  order.foldl (fun best v =>
    if prio v < limit then
      match best with
      | none => some v
      | some b => if prio v < prio b then some v else best
    else best) none

/-- A POOL start decided: restart in place, a free voice, a victim, or none (R103, R104). -/
def State.decidePool (s : State) (c : Clip) (r : StartReq) : State × StartOutcome :=
  match s.restartVoice r with
  | some v => (s.replaceOn v .cut c r, .started v)
  | none =>
    match s.freePoolVoice with
    | some v => (s.startOn v c r, .started v)
    | none =>
      match victimOf (fun v => (s.voice v).priority) r.priority s.snd.order with
      | some v => (s.replaceOn v .stolen c r, .started v)
      | none => (s, .refused .noVoice)

/-- A start with a valid descriptor decided by its class (R102, R103, R104). -/
def State.decideClass (s : State) (c : Clip) (r : StartReq) : State × StartOutcome :=
  match r.cls with
  | .chuff => (s.replaceOn 0 .cut c r, .started 0)
  | .background => (s.replaceOn 1 .cut c r, .started 1)
  | .pool => s.decidePool c r

/-- A start decided (R101): refused INACTIVE where SND is inactive or has been shed since the start began (R115), BAD_CLIP where
the descriptor is not valid (R98). -/
def State.decideStart (s : State) (w : StartWork) (c : Clip) : State × StartOutcome :=
  if w.doomed = true ∨ s.soundInactive = true then (s, .refused .inactive)
  else if c.valid = false then (s, .refused .badClip)
  else s.decideClass c w.req

/-- The descriptor of the start in progress, with the words that are still to be read (R101). (DESIGN CHOICE, log entry 7) -/
def StartWork.descriptor (m : Memory) (w : StartWork) : Clip :=
  Clip.ofWords (w.readMore m (4 - w.words.length)).words

/-- START_DECIDED (R101): after the fourth descriptor word. -/
def execStartDecided (s : State) : Host.Outcome State Fault Refusal :=
  match s.snd.current with
  | none => .next s
  | some w =>
    let r := s.decideStart w (w.descriptor s.mem)
    finish (r.1.endStart w.req.asker r.2)

/-! ### The squeal -/

/-- The traction states of the squeal condition (R129). -/
def TractionState.squeals : TractionState → Bool
  | .moving => true
  | .turning => true
  | .eBrake => true
  | _ => false

/-- The squeal condition (R129). -/
def State.squealHolds (s : State) : Bool :=
  s.cfg.sound.sqClip.isSome && s.srg.traction.squeals && labourClass s.srg.labour == 0
  && decide (s.cfg.sound.sqLow ≤ s.srg.vl ∧ s.srg.vl ≤ s.cfg.sound.sqHigh)

/-- The squeal state set. -/
def State.setSqueal (s : State) (q : SquealState) : State := { s with snd := { s.snd with squeal := q } }

/-- The squeal's start request (R130). -/
def State.requestSqueal (s : State) : State :=
  match s.cfg.sound.sqClip with
  | none => s
  | some c => (s.setSqueal .sounding).requestStart
      { cls := .pool, asker := .squeal, clip := c, pitch := 256, volume := s.cfg.sound.sqVolume,
        priority := s.cfg.sound.sqPriority, tag := squealTag, loop := true }

/-- A squeal check (R130). -/
def State.checkSqueal (s : State) : State :=
  match s.snd.squeal, s.squealHolds with
  | .silent, true => s.requestSqueal
  | .sounding, false => (s.releaseTag squealTag).setSqueal .silent
  | .spent, false => s.setSqueal .silent
  | _, _ => s

/-- The due squeal check is made. -/
def State.dropSqueal (s : State) : State := { s with snd := { s.snd with squealDue := false } }

/-- SQUEAL_CHECK (R129, R130): the check that the count's coming round to 0 made due, in RUNNING and STOPPING.
(DESIGN CHOICE, log entry 5) -/
def execSquealCheck (s : State) : Host.Outcome State Fault Refusal :=
  if s.exc.part.driving = true ∧ s.snd.squealDue = true then .next s.dropSqueal.checkSqueal else .next s

end Sys2Proof.Machine
end

