-- ==== Sys2Proof/Machine/SmokeUnit.lean ====
section
/-!
DEFINITION. The smoke unit's own events: the smoke timer (R134, R135, R137, R139) and the two ends within a puff (R142, R143).
-/
namespace Sys2Proof.Machine

/-- The temperature between two points of the thermistor table (R134). -/
def interpolate (c0 : Nat) (t0 : Int) (c1 : Nat) (t1 : Int) (c : Nat) : Int :=
  t0 + (t1 - t0) * ((c0 : Int) - c) / ((c0 : Int) - c1)

/-- The temperature of a code in a table, `none` where the table gives none (R134). -/
def temperatureOf (c : Nat) : List (Nat × Int) → Option Int
  | [] => none
  | [(c0, t0)] => if c = c0 then some t0 else none
  | (c0, t0) :: (c1, t1) :: rest =>
    if c0 < c then none
    else if c1 < c then some (interpolate c0 t0 c1 t1 c)
    else temperatureOf c ((c1, t1) :: rest)

/-- The hot latch judged at a converted temperature (R135). -/
def State.judgeHot (s : State) : State :=
  if s.smk.hot = false then
    if s.cfg.smoke.tMax ≤ s.smk.temp then { s with smk := { s.smk with hot := true } }.latch .smokeAlert else s
  else if s.smk.temp ≤ s.cfg.smoke.tMax - 30 then { s with smk := { s.smk with hot := false } }
  else s

/-- THM converted and judged, with the fault latch and the hot latch (R134, R135). -/
def State.convertTemp (s : State) (c : Nat) : State :=
  if s.smk.fault then s
  else match temperatureOf c s.cfg.smoke.points with
    | none => { s with smk := { s.smk with fault := true } }.latch .smokeAlert
    | some t => { s with smk := { s.smk with temp := t } }.judgeHot

/-- Fluid used at an expiry in READY; reaching 0 evaluates the state, now DRY, with its output effects (R139). -/
def State.useFluid (s : State) : State :=
  if s.smk.state = .ready then
    let s1 := { s with smk := { s.smk with fluid := s.smk.fluid - 1 } }
    if s1.smk.fluid = 0 then s1.evalSmoke.latch .smokeAlert else s1
  else s

/-- The temperature of a target, with the groups' values (R136). -/
def targetTemp (c : Smoke) : SmokeTarget → Int
  | .none => 0
  | .warm => c.tWarm
  | .set => c.tSet

/-- The heater demand Hd (R137). -/
def heaterDemand (c : Smoke) (t : SmokeTarget) (temp : Int) : Nat := clampNat ((targetTemp c t - temp) * c.gain / 4) 255

/-- The heater duty formed at an expiry (R137). -/
def State.formHeater (s : State) : State :=
  { s with smk := { s.smk with heater :=
      match s.smk.state with
      | .warming => min (heaterDemand s.cfg.smoke s.smk.target s.smk.temp) s.smk.hlim
      | .ready => min (heaterDemand s.cfg.smoke s.smk.target s.smk.temp) s.smk.hlim
      | _ => 0 } }

/-- SMOKE_TIMER (R134): conversion, hot latch, evaluation, fluid, heater, in this order. SMK acts on no event in IDLE, nor while
ADOPTING from IDLE (R133). -/
def execSmokeTimer (code : BitVec 10) (s : State) : Host.Outcome State Fault Refusal :=
  if s.smk.timer = true ∧ s.smokeActs = true then .next ((s.convertTemp code.toNat).evalSmoke.useFluid.formHeater) else .next s

/-- The kick of a running puff is over: the fan drops to the puff duty (R142). -/
def State.endKick (s : State) (f : Puff) : State :=
  { s with smk := { s.smk with puff := some { f with kickOver := true }, fan := f.duty } }

/-- KICK_END (R142): a puff whose kick fills its whole length has no puff-duty interval. -/
def execKickEnd (s : State) : Host.Outcome State Fault Refusal :=
  match s.smk.puff with
  | some f => if f.kickOver = false ∧ f.kick < f.length then .next (s.endKick f) else .next s
  | none => .next s

/-- PUFF_END (R142, R143): the running puff ends, and the fan returns to its idle duty. -/
def execPuffEnd (s : State) : Host.Outcome State Fault Refusal :=
  if s.smk.puff.isSome then .next { s with smk := { s.smk with puff := none, fan := s.cfg.smoke.idle } } else .next s

end Sys2Proof.Machine
end

