-- ==== Sys2Proof/Machine/Lights.lean ====
section
/-!
DEFINITION. The light unit's own events: the effect timer (R150 to R155) and the period starts of the lamp PWMs (R155).
-/
namespace Sys2Proof.Machine

/-- One step of the flicker generator (R150). -/
def lfsrStep (g : BitVec 16) : BitVec 16 :=
  let top := (g ^^^ (g >>> 2) ^^^ (g >>> 3) ^^^ (g >>> 5)) &&& 1
  (g >>> 1) ||| (top <<< 15)

/-- The value n that FLICKER outputs use (R150). -/
def flickerValue (g : BitVec 16) : Nat := g.toNat % 256

/-- A function is set in function state. -/
def functionSet (f : BitVec 32) (n : Nat) : Bool := f.getLsbD n

/-- The binding of a program holds (R151). -/
def Program.bound (p : Program) (f : BitVec 32) : Bool :=
  match p.binding with
  | none => true
  | some n => functionSet f n

/-- The direction condition holds for a bridge direction (R151). -/
def DirCond.holds (c : DirCond) (d : Direction) : Bool :=
  match c, d with
  | .any, _ => true
  | .forward, .forward => true
  | .reverse, .reverse => true
  | _, _ => false

/-- The motion condition holds (R151). -/
def MotionCond.holds (c : MotionCond) (t : TractionState) : Bool :=
  match c with
  | .any => true
  | .standingOnly => t == .standing
  | .movingOnly => t != .standing

/-- An output is active (R151). -/
def State.lampActive (s : State) (p : Program) : Bool :=
  p.bound s.drq.functions && p.dirCond.holds s.srg.bridgeDir && p.motion.holds s.srg.traction

/-- An output is dimmed (R151). -/
def State.lampDimmed (s : State) (p : Program) : Bool :=
  match p.dim with
  | none => false
  | some n => functionSet s.drq.functions n

/-- A fade value one expiry later (R153). -/
def fadeStep (rise fall target v : Nat) : Nat :=
  if v < target then (if rise = 0 then target else min (v + rise) target)
  else if target < v then (if fall = 0 then target else max (v - fall) target)
  else v

/-- The fade value and the flash remaining of an output at an expiry (R153, R154). -/
def Lamp.step (p : Program) (l : Lamp) : Lamp :=
  match p.effect with
  | .fade rise fall => { l with fade := fadeStep rise fall (if l.active then p.level else 0) l.fade }
  | .chuffFlash _ _ => { l with flash := l.flash - 10 }
  | _ => l

/-- The effect value of output `k` at an expiry (R152, R153, R154). -/
def effectValue (k : Fin 8) (n : Nat) (p : Program) (l : Lamp) : Nat :=
  match p.effect with
  | .fade _ _ => l.fade
  | .steady => if l.active then p.level else 0
  | .blink _ onTime => if l.active = true ∧ l.phase < onTime then p.level else 0
  | .alternate partner period =>
    if l.active then
      (if k.val < partner.val then (if l.phase < period / 2 then p.level else 0)
      else if period / 2 ≤ l.phase then p.level else 0)
    else 0
  | .flicker low => if l.active then low + n * (p.level - low) / 256 else 0
  | .chuffFlash low _ => if l.active then (if 0 < l.flash then p.level else low) else 0

/-- The phase of a BLINK or ALTERNATE output one expiry later (R151). -/
def nextPhase (p : Program) (phase : Nat) : Nat :=
  match p.effect with
  | .blink period _ => (phase + 1) % period
  | .alternate _ period => (phase + 1) % period
  | _ => phase

/-- Output `k` at an expiry: judged, worked out, dimmed and capped, and its phase advanced (R151 to R155). -/
def State.lampExpiry (s : State) (n : Nat) (k : Fin 8) : Lamp :=
  let p := s.cfg.lights.get k
  let l0 := s.lgt.lamps.get k
  let l1 := { l0 with active := s.lampActive p, dimmed := s.lampDimmed p }.step p
  let l2 := l1.show p s.lgt.cap (effectValue k n p l1)
  { l2 with phase := nextPhase p l2.phase }

/-- An expiry of the effect timer (R151). -/
def State.effectExpiry (s : State) : State :=
  let g := lfsrStep s.lgt.lfsr
  { s with lgt := { s.lgt with lfsr := g, lamps := Octet.ofFn (s.lampExpiry (flickerValue g)) } }

/-- EFFECT_TIMER (R151): the effect timer runs while the part is RUNNING or STOPPING. -/
def execEffectTimer (s : State) : Host.Outcome State Fault Refusal :=
  if s.lgt.timer then .next s.effectExpiry else .next s

/-- LAMP_PWM_PERIOD_START (R155): the output takes the output level last set. -/
def execLampPwmPeriodStart (k : Fin 8) (s : State) : Host.Outcome State Fault Refusal :=
  let l := s.lgt.lamps.get k
  .next { s with lgt := { s.lgt with lamps := s.lgt.lamps.set k { l with pwm := l.level } } }

end Sys2Proof.Machine
end

