-- ==== Sys2Proof/Machine/RadioLink.lean ====
section
/-!
DEFINITION. The radio link's two edges (R159, R160, R161) and the failsafe timer's expiry (R167).
-/
namespace Sys2Proof.Machine

/-- Less than this many µs after the previous falling edge a frame is not stored (R159). -/
def frameGap : Nat := 50

/-- The frame begins too soon after the link's previous falling edge (R159). -/
def Rrx.tooSoon (r : Rrx) (time : Nat) : Bool :=
  match r.lastEnd with
  | some t => decide (time < t + frameGap)
  | none => false

/-- The frame begun by a rising edge: into a free assembly buffer, or marked for OVERRUN (R159). -/
def Rrx.beginFrame (r : Rrx) (time : Nat) : Rrx :=
  if r.tooSoon time then { r with frame := some .overrun }
  else match r.freeBuffer with
    | none => { r with frame := some .overrun }
    | some b => { (r.setBuffer b (some [])) with frame := some (.stored b) }

/-- FRAME_BEGIN (R159, R161): ignored while the link is off. -/
def execFrameBegin (time : Nat) (s : State) : Host.Outcome State Fault Refusal :=
  if s.rrx.link = true ∧ s.rrx.frame = none then .next { s with rrx := s.rrx.beginFrame time } else .next s

/-- A frame's end: the link has no frame in flight, and its falling edge is noted (R159). -/
def State.endFrame (s : State) (time : Nat) : State :=
  { s with rrx := { s.rrx with frame := none, lastEnd := some time } }

/-- A frame discarded for one reason (R160). -/
def State.discardFrame (s : State) (d : Discard) : State :=
  { s with rrx := { s.rrx with discard := d } }

/-- Frames are checked in RUNNING, STOPPING and HALTED; in ADOPTING they are discarded, and in IDLE the link is off (R161). -/
def PartState.hearsFrames : PartState → Bool
  | .idle => false
  | .adopting => false
  | _ => true

/-- A stored frame at its arrival: discarded in ADOPTING (R161), discarded by the first link check that fails, or a checked frame
(R160). -/
def State.arriveStored (s : State) (b : BufferId) (bits : Nat) (bytes : List Byte) : State :=
  if s.exc.part.hearsFrames = false then s.freeBuffer b
  else match linkCheck bits bytes with
    | some d => (s.discardFrame d).freeBuffer b
    | none => { s with rrx := s.rrx.setBuffer b (some bytes) }.checkedFrame (Frame.parse bytes) b

/-- A frame that was not stored is discarded at its arrival with reason OVERRUN, in ADOPTING without a reason (R159, R161). -/
def State.arriveOverrun (s : State) : State :=
  if s.exc.part.hearsFrames then s.discardFrame .overrun else s

/-- A frame's arrival (R160). -/
def State.arrive (s : State) (f : FrameInFlight) (bits : Nat) (bytes : List Byte) : State :=
  match f with
  | .overrun => s.arriveOverrun
  | .stored b => s.arriveStored b bits bytes

/-- FRAME_ARRIVAL (R160): the falling edge of the frame in flight. (DESIGN CHOICE, log entry 29) -/
def execFrameArrival (time bits : Nat) (bytes : List Byte) (s : State) : Host.Outcome State Fault Refusal :=
  match s.rrx.frame with
  | none => .next s
  | some f => finish ((s.endFrame time).arrive f bits bytes)

/-- FAILSAFE_EXPIRY (R167): the running failsafe timer frees the holder. -/
def execFailsafeExpiry (s : State) : Host.Outcome State Fault Refusal :=
  if s.rrx.failsafe.isSome then .next (s.freeHolder.latch .failsafe) else .next s

end Sys2Proof.Machine
end

