-- ==== Sys2Proof/Machine/SupplyMonitor.lean ====
section
/-!
DEFINITION. The supply monitor's own events: samples (R173 to R176), the hold-up timer's expiry (R175), and the share timer (R178).
-/
namespace Sys2Proof.Machine

/-- A sample's readings (R173), with the hold-up timer one ms further (R175). (DESIGN CHOICE, log entry 11) -/
def State.takeSample (s : State) (vsen hsen : Nat) : State :=
  { s with sup := { s.sup with
      vs := supplyReading vsen, vh := supplyReading hsen, holdup := s.sup.holdup.map fun n => n - 1 } }

/-- SUPPLY_TIMER (R173, R174, R175, R176): a sample is judged while a POWER group is active. -/
def execSupplyTimer (vsen hsen : Nat) (s : State) : Host.Outcome State Fault Refusal :=
  let s1 := s.takeSample vsen hsen
  finish (if s1.configured then s1.judgeSupply else s1)

/-- HOLDUP_TIMER_EXPIRY (R175): the running hold-up timer expires. -/
def execHoldupTimerExpiry (s : State) : Host.Outcome State Fault Refusal :=
  if s.sup.holdup.isSome then finish s.holdupExpires else .next s

/-- The motor currents that the share computation reads (R178). -/
def State.motorCurrents (s : State) : Nat :=
  (s.chan .a).avg + (if s.cfg.traction.present .b then (s.chan .b).avg else 0)

/-- A share computation (R178), with the allowance handed to SMK (R138). -/
def State.shareOut (s : State) : State :=
  let h := heaterAllowance s.cfg.power s.motorCurrents
  { s with sup := { s.sup with hlim := h } }.setHlim h

/-- SHARE_TIMER (R178): the share timer runs while a POWER group is active. -/
def execShareTimer (s : State) : Host.Outcome State Fault Refusal :=
  if s.sup.share then .next s.shareOut else .next s

end Sys2Proof.Machine
end

