-- ==== Sys2Proof/Machine/Dispatch.lean ====
section
/-!
DEFINITION. The dispatch of the commands to their meanings: one arm per row of the opcode table, in its order.
-/
namespace Sys2Proof.Machine

/-- The meaning of a command on everything but the queue. (DEDUCED, log entry 3) -/
def exec (i : Instr) (s : State) : Host.Outcome State Fault Refusal :=
  match i with
  | .readMemory lanes addr n late => Sys2Proof.Machine.execReadMemory lanes addr n late s
  | .writeMemory lanes addr data tailBits delays => Sys2Proof.Machine.execWriteMemory lanes addr data tailBits delays s
  | .readRegister lanes reg => Sys2Proof.Machine.execReadRegister lanes reg s
  | .portCommandInvalid cmd => Sys2Proof.Machine.execPortCommandInvalid cmd s
  | .start upper => Sys2Proof.Machine.execStart upper s
  | .haltSoft upper => Sys2Proof.Machine.execHaltSoft upper s
  | .haltHard upper => Sys2Proof.Machine.execHaltHard upper s
  | .reset upper => Sys2Proof.Machine.execReset upper s
  | .pctlNoCommand upper => Sys2Proof.Machine.execPctlNoCommand upper s
  | .pctlReservedCommand code upper => Sys2Proof.Machine.execPctlReservedCommand code upper s
  | .nlatWrite value => Sys2Proof.Machine.execNlatWrite value s
  | .nenWrite value => Sys2Proof.Machine.execNenWrite value s
  | .registerWriteIgnored reg value complete => Sys2Proof.Machine.execRegisterWriteIgnored reg value complete s
  | .arbiterGrant => Sys2Proof.Machine.execArbiterGrant s
  | .powerOnReset => Sys2Proof.Machine.execPowerOnReset s
  | .memoryClearDone => Sys2Proof.Machine.execMemoryClearDone s
  | .adoptionGroupRead => Sys2Proof.Machine.execAdoptionGroupRead s
  | .scanTimer => Sys2Proof.Machine.execScanTimer s
  | .scanWorkDeferred => Sys2Proof.Machine.execScanWorkDeferred s
  | .atChuffSlotTake => Sys2Proof.Machine.execAtChuffSlotTake s
  | .inboxWrite => Sys2Proof.Machine.execInboxWrite s
  | .boardTimer => Sys2Proof.Machine.execBoardTimer s
  | .boardWriteDeferred => Sys2Proof.Machine.execBoardWriteDeferred s
  | .regulationTimer => Sys2Proof.Machine.execRegulationTimer s
  | .settleTimeElapsed => Sys2Proof.Machine.execSettleTimeElapsed s
  | .tickCompletion emfA emfB => Sys2Proof.Machine.execTickCompletion emfA emfB s
  | .turnTimeout => Sys2Proof.Machine.execTurnTimeout s
  | .pwmPeriodStart => Sys2Proof.Machine.execPwmPeriodStart s
  | .deadTimeElapsed m leg => Sys2Proof.Machine.execDeadTimeElapsed m leg s
  | .currentSample m counts flow => Sys2Proof.Machine.execCurrentSample m counts flow s
  | .cbcLimit m => Sys2Proof.Machine.execCbcLimit m s
  | .shortDetected m => Sys2Proof.Machine.execShortDetected m s
  | .drvfltQualified level => Sys2Proof.Machine.execDrvfltQualified level s
  | .axsSample level => Sys2Proof.Machine.execAxsSample level s
  | .lostTimerExpiry => Sys2Proof.Machine.execLostTimerExpiry s
  | .outputSampleTimer => Sys2Proof.Machine.execOutputSampleTimer s
  | .carrierPeriodStart => Sys2Proof.Machine.execCarrierPeriodStart s
  | .startBegin => Sys2Proof.Machine.execStartBegin s
  | .startDecided => Sys2Proof.Machine.execStartDecided s
  | .squealCheck => Sys2Proof.Machine.execSquealCheck s
  | .smokeTimer code => Sys2Proof.Machine.execSmokeTimer code s
  | .kickEnd => Sys2Proof.Machine.execKickEnd s
  | .puffEnd => Sys2Proof.Machine.execPuffEnd s
  | .effectTimer => Sys2Proof.Machine.execEffectTimer s
  | .frameBegin time => Sys2Proof.Machine.execFrameBegin time s
  | .frameArrival time bits bytes => Sys2Proof.Machine.execFrameArrival time bits bytes s
  | .failsafeExpiry => Sys2Proof.Machine.execFailsafeExpiry s
  | .supplyTimer vsen hsen => Sys2Proof.Machine.execSupplyTimer vsen hsen s
  | .holdupTimerExpiry => Sys2Proof.Machine.execHoldupTimerExpiry s
  | .shareTimer => Sys2Proof.Machine.execShareTimer s
  | .lampPwmPeriodStart k => Sys2Proof.Machine.execLampPwmPeriodStart k s

end Sys2Proof.Machine
end

