-- ==== Sys2Proof/Machine/Step.lean ====
section
/-!
DEFINITION. One step of the part: the command at the front of the queue, and 50 ns of the PWM counters and dead times while no
command waits (R69, R70).
-/
namespace Sys2Proof.Machine

/-- One step: the front of the queue is carried out on the state with the queue's rest; on an empty queue 50 ns pass.
(DESIGN CHOICE, log entry 2) -/
def step (s : State) : Host.Outcome State Fault Refusal :=
  match s.pending with
  | [] => .next s.pwmTick
  | c :: rest => exec c { s with pending := rest }

/-- The state with the command of a memory port transaction (R2, R4) waiting at the end of the queue; a transaction that is no
command leaves it. (DESIGN CHOICE, log entry 1) -/
def State.transact (s : State) (x : Transaction) : State :=
  match x.command with
  | some c => { s with pending := s.pending ++ [c] }
  | none => s

/-- The state with the command that a word spells at the front of its queue; the table gives no row any bits.
(DESIGN CHOICE, log entry 1) -/
def State.withFetchWord (s : State) (nbits w : Nat) : State :=
  match Sys2Proof.decodeTableWord nbits w with
  | some i => { s with pending := i :: s.pending }
  | none => s

end Sys2Proof.Machine
end

