-- ==== Sys2Proof/Safety.lean ====
section
/-!
DEFINITION. What a safe state is, in the manual's own terms: the promises that its rules make about every state of the part, as
decidable conditions on State.
-/
namespace Sys2Proof.Machine

/-! ### Exchange memory (R2, R6) -/

/-- The bytes of a write that the port awaits lie inside exchange memory. -/
def cellsInside (q : List Host.Cell) : Bool := q.all fun c => decide (c.1 < memorySize)

/-- Exchange memory is in its canonical form, and a write that the port awaits stays inside it. -/
def State.memOk (s : State) : Prop :=
  s.mem.wf = true ∧ ∀ q, s.port.awaiting = some q → cellsInside q = true

/-- The word, counted from the one that holds the address, in which byte `i` of a transaction falls (R3). -/
def portWord (addr i : Nat) : Nat := (addr % 4 + i) / 4

/-- The place of byte `i` among the bytes of the transaction that fall in its word (R3). -/
def portDue (addr i : Nat) : Nat := if portWord addr i = 0 then i else (addr % 4 + i) % 4

/-! ### The half-bridges (R70) -/

/-- The high and the low switch of the half-bridge do not conduct together. -/
def Leg.safe (g : Leg) : Bool := !(g.high && g.low)

/-- Both half-bridges of a channel are safe. -/
def Channel.safe (ch : Channel) : Bool := ch.leg1.safe && ch.leg2.safe

/-- No half-bridge of the part has both switches on (R70). -/
def State.noShootThrough (s : State) : Prop :=
  s.bfu.chans.a.safe = true ∧ s.bfu.chans.b.safe = true

/-! ### The switch pattern (R68 to R70, R75) -/

/-- The switches that are due on the driving leg and on the return leg of a channel, if any (R68, R69, R70, R75): by its mode, and in
DRIVE by the part of the period it is in. The off interval of DRIVE_BRAKE leaves the driving leg a dead time at each end, and none at
all where it is no longer than twice the dead time. The period is counted in steps of 50 ns. -/
structure Channel.Due (c : Traction) (x : Channel) (driving back : Option Switch) : Prop where
  off       : x.mode = .off ∨ x.mode = .float → driving = none ∧ back = none
  brake     : x.mode = .brake → driving = some .low ∧ back = some .low
  on        : x.mode = .drive → x.phase = .on → driving = some .high ∧ back = some .low
  limited   : x.mode = .drive → x.phase = .limited →
    (c.limitOff = .coast → driving = none ∧ back = none) ∧ (c.limitOff = .brake → driving = some .low ∧ back = some .low)
  coasts    : x.mode = .drive → x.phase = .before ∨ x.phase = .after → c.offStyle = .coast → driving = none ∧ back = none
  brakes    : x.mode = .drive → x.phase = .before ∨ x.phase = .after → c.offStyle = .brake →
    back = some .low ∧ driving = if 2 * c.deadTime * 1024 < periodTicks c * (1024 - x.duty)
      ∧ (x.phase = .after ∨ x.duty = 0 ∨ 2048 * (x.pos.getD 0 + c.deadTime) < periodTicks c * (1024 - x.duty))
      then some .low else none

/-- The driving leg: leg 1 in FORWARD, leg 2 in REVERSE (R69). -/
def Channel.drivingLeg (d : Direction) (x : Channel) : Leg :=
  match d with
  | .forward => x.leg1
  | .reverse => x.leg2

/-- The return leg: leg 2 in FORWARD, leg 1 in REVERSE (R69). -/
def Channel.returnLeg (d : Direction) (x : Channel) : Leg :=
  match d with
  | .forward => x.leg2
  | .reverse => x.leg1

/-- A half-bridge shows the switch that is due on it, or none (R70): no other switch conducts, and one that is due and does not conduct
is a turn-on that waits. -/
structure Leg.Shows (want : Option Switch) (h : Leg) : Prop where
  high  : h.high = true → want = some .high
  low   : h.low = true → want = some .low
  waits : h.delayed = if h.high = true ∨ h.low = true then none else want

/-- What a half-bridge `g` becomes when a switch is due on it, or none (R70). The switch that is due conducts if it conducted before, or
if the dead time since the other one's end is over and no turn-on of it waits already; otherwise its turn-on waits. The dead time of a
switch starts as the other one turns off. -/
structure Leg.Turns (dead : Nat) (want : Option Switch) (g h : Leg) : Prop where
  high     : h.high = true ↔ want = some .high
    ∧ (g.high = true ∨ (g.delayed ≠ some .high ∧ (if g.low = true then dead else g.deadHigh) = 0))
  low      : h.low = true ↔ want = some .low
    ∧ (g.low = true ∨ (g.delayed ≠ some .low ∧ (if g.high = true then dead else g.deadLow) = 0))
  waits    : h.delayed = if h.high = true ∨ h.low = true then none else want
  deadHigh : h.deadHigh = if g.low = true ∧ h.low = false then dead else g.deadHigh
  deadLow  : h.deadLow = if g.high = true ∧ h.high = false then dead else g.deadLow

/-- Both half-bridges of a channel `ch` turn to what is due in `x`, which has its mode, its phase and its direction already. -/
structure Channel.Turns (c : Traction) (ch x : Channel) : Prop where
  legs : ∃ driving back, Channel.Due c x driving back
    ∧ Leg.Turns c.deadTime driving (ch.drivingLeg x.dir) (x.drivingLeg x.dir)
    ∧ Leg.Turns c.deadTime back (ch.returnLeg x.dir) (x.returnLeg x.dir)

/-- Both half-bridges of a channel show what is due. -/
structure Channel.Shown (c : Traction) (x : Channel) : Prop where
  legs : ∃ driving back, Channel.Due c x driving back
    ∧ Leg.Shows driving (x.drivingLeg x.dir) ∧ Leg.Shows back (x.returnLeg x.dir)

/-- No dead time runs on a half-bridge, and no turn-on waits. -/
def Leg.settled (g : Leg) : Prop := g.deadHigh = 0 ∧ g.deadLow = 0 ∧ g.delayed = none

/-- A channel `x` that has taken its mode, from `ch` before (R68, R69, R70): both half-bridges show what is due, and no turn-on waits
where no dead time ran and none comes in: with a dead time of 0, and after OFF and FLOAT with no switch conducting. -/
structure Channel.Taken (c : Traction) (ch x : Channel) : Prop where
  shows : Channel.Shown c x
  ready : ch.leg1.settled → ch.leg2.settled →
    c.deadTime = 0 ∨ ((ch.mode = .off ∨ ch.mode = .float) ∧ ch.conducts = false) →
    x.leg1.delayed = none ∧ x.leg2.delayed = none

/-- What a duty `d` handed by SRG makes of a channel `ch` (R71): outside DRIVE it is kept as the applied duty; in DRIVE the same one
changes nothing, a higher one waits for the next period start, and a lower one applies at once, ending an on interval that it would
already have ended, with the switches that follow. -/
structure DutyHanded (c : Traction) (ch ch' : Channel) (d : Nat) : Prop where
  kept    : ch.mode ≠ .drive → ch' = { ch with duty := d, raised := none }
  same    : ch.mode = .drive → ch.duty = d → ch' = { ch with raised := none }
  raised  : ch.mode = .drive → ch.duty < d → ch' = { ch with raised := some d }
  lowered : ch.mode = .drive → d < ch.duty →
    ch' = { ch with duty := d, raised := none, phase := ch'.phase, leg1 := ch'.leg1, leg2 := ch'.leg2 }
    ∧ ch'.phase = (if ch.phase = .on ∧ (d = 0 ∨ periodTicks c * (1024 + d) ≤ 2048 * ch.pos.getD 0) then .after else ch.phase)
    ∧ Channel.Turns c ch ch'

/-! ### The status board (R21) -/

/-- The board generation is odd exactly while a board write is in progress. -/
def State.boardOk (s : State) : Prop :=
  s.exc.board.isSome = true ↔ s.exc.boardGen.toNat % 2 = 1

/-! ### Adoption (R7, R8) -/

/-- Adoption is in progress exactly while the part is ADOPTING. -/
def State.adoptionOk (s : State) : Prop :=
  s.exc.adoption.isSome = true ↔ s.exc.part = .adopting

/-! ### The checks of a configuration group (R8) -/

/-- The check at an index of a group's bytes: outside its range the parameter fails with OUT_OF_RANGE, in its range it fails with the
reason named at its index exactly when the relation fails, and otherwise it passes. -/
structure CheckedAt (n : Nat) (bs : List Byte) (index : Nat) (ranged related : Prop) (reason : GroupReason) : Prop where
  check : ∃ v, (groupChecks n bs)[index]? = some (index, v)
    ∧ (¬ ranged → v = some .outOfRange) ∧ (ranged → ¬ related → v = some reason) ∧ (ranged → related → v = none)

/-- The check at an index that has a range alone. -/
def RangedAt (n : Nat) (bs : List Byte) (index : Nat) (ranged : Prop) : Prop := CheckedAt n bs index ranged True .outOfRange

/-! ### The drive -/

/-- Traction is TRIPPED exactly while there is a trip reason (R60, R79, R80). -/
def State.tripOk (s : State) : Prop :=
  s.srg.traction = .tripped ↔ s.bfu.trip ≠ .none

/-- R is 0 whenever traction is STANDING, E_HELD or TRIPPED (R45, R46, R58, R60). -/
def State.restOk (s : State) : Prop :=
  s.srg.traction = .standing ∨ s.srg.traction = .eHeld ∨ s.srg.traction = .tripped → s.srg.r = 0

/-- STOPPING ends at the first moment at which traction is STANDING, TRIPPED or E_HELD, or the supply is DARK (R12): no state of
STOPPING is one of these. -/
def State.stoppingOk (s : State) : Prop :=
  s.exc.part = .stopping → s.srg.traction.ends = false ∧ s.sup.state ≠ .dark

/-- The conditions under which the applied duty is 0 (R52). -/
def State.quiet (s : State) : Prop :=
  s.srg.traction = .standing ∨ s.srg.traction = .tripped ∨ s.srg.traction = .eHeld ∨ s.sup.state = .dark
  ∨ s.exc.part.driving = false

/-- A channel with applied duty 0 and no higher one waiting. -/
def Channel.still (ch : Channel) : Bool := ch.duty == 0 && (ch.raised == none || ch.raised == some 0)

/-- No motor is driven: D and the applied duty are 0 on both. -/
def State.undriven (s : State) : Prop :=
  s.srg.motors.a.d = 0 ∧ s.srg.motors.b.d = 0 ∧ s.bfu.chans.a.still = true ∧ s.bfu.chans.b.still = true

/-- While SRG's source is RADIO a holder is set (R32). -/
def State.holderOk (s : State) : Prop :=
  s.drq.source = .radio → s.rrx.holder.isSome = true

/-- What a latch clear in RUNNING makes of a state `s` in E_HELD or TRIPPED (R49, R59, R80, R83, R92): SRG, BFU, CHK and the notices
alone change; every duty, integral and saturation flag is 0, the chuff clock is told and slip is over. With no fault still present
traction is STANDING, the brake order withdrawn, the trip reason none, and the channels OFF but within a float window; with DRVFLT
still active after TRIPPED the part is TRIPPED again at once, with reason DRIVER and TRIP latched. -/
structure LatchCleared (s t : State) : Prop where
  only  : t = { s with srg := t.srg, bfu := t.bfu, chk := t.chk, exc := { s.exc with nlat := t.exc.nlat } }
  chuff : t.chk = { s.chk with acc := 65535, next := 0, first := true }
  rest  : ∀ m, t.srg.motors.get m = { s.srg.motors.get m with i := 0, sat := .zero, d := 0 }
    ∧ (t.chan m).duty = 0 ∧ (t.chan m).raised = none ∧ (t.chan m).dir = (s.chan m).dir
  slip  : t.bfu.slip = .normal ∧ t.bfu.slipRun = 0 ∧ t.bfu.faster = none
  kept  : t.bfu.window = s.bfu.window ∧ t.bfu.drvflt = s.bfu.drvflt
  held  : s.srg.traction = .eHeld →
    t.srg = { s.srg with traction := .standing, brakeOrder := false, motors := t.srg.motors } ∧ t.bfu.trip = s.bfu.trip
    ∧ t.exc.nlat = s.exc.nlat ∧ (s.bfu.window = none → ∀ m, (t.chan m).mode = .off)
  clear : s.srg.traction = .tripped → s.bfu.drvflt ≠ some s.cfg.traction.polarity →
    t.srg = { s.srg with traction := .standing, motors := t.srg.motors } ∧ t.bfu.trip = .none ∧ t.exc.nlat = s.exc.nlat
    ∧ (∀ m, (t.chan m).persist = 0 ∧ (t.chan m).cbcMark = false) ∧ (s.bfu.window = none → ∀ m, (t.chan m).mode = .off)
  again : s.srg.traction = .tripped → s.bfu.drvflt = some s.cfg.traction.polarity →
    t.srg = { s.srg with
      traction := .tripped, r := 0, brakeOrder := false, turnTimer := none, turnMark := false, motors := t.srg.motors }
    ∧ t.bfu.trip = .driver ∧ t.exc.nlat = s.exc.nlat ||| 0x80
    ∧ ∀ m, (t.chan m).persist = 0 ∧ (t.chan m).cbcMark = false ∧ (t.chan m).mode = .off ∧ (t.chan m).avg = 0
      ∧ (t.chan m).leg1.high = false ∧ (t.chan m).leg1.low = false ∧ (t.chan m).leg2.high = false ∧ (t.chan m).leg2.low = false

/-- What taking a request makes of a state `s` that holds it already (R28, R29, R34): a zero request in E_HELD or TRIPPED is a latch
clear, and any other changes nothing more. -/
def RequestTaken (s t : State) : Prop :=
  ((s.srg.traction ≠ .eHeld ∧ s.srg.traction ≠ .tripped) ∨ s.drq.s ≠ 0 → t = s)
  ∧ (s.srg.traction = .eHeld ∨ s.srg.traction = .tripped → s.drq.s = 0 → LatchCleared s t)

/-- What an e-stop makes of a state `s` (R33, R57): the request is zeroed and ESTOP latched; STANDING, MOVING and TURNING become E_BRAKE,
with a turn's timer stopped and its mark cleared, and E_BRAKE, E_HELD and TRIPPED stay, with nothing changed in SRG and BFU. R, D, the
integrals, the duties and the directions are unchanged. -/
structure EmergencyTaken (s t : State) : Prop where
  only  : t = { s with
    drq := { s.drq with origin := .speedUnits 0, s := 0 }, exc := { s.exc with nlat := s.exc.nlat ||| 0x100 },
    srg := t.srg, bfu := t.bfu }
  brake : s.srg.traction = .standing ∨ s.srg.traction = .moving → t.srg = { s.srg with traction := .eBrake }
  turn  : s.srg.traction = .turning → t.srg = { s.srg with traction := .eBrake, turnTimer := none, turnMark := false }
  stays : s.srg.traction = .eBrake ∨ s.srg.traction = .eHeld ∨ s.srg.traction = .tripped → t.srg = s.srg ∧ t.bfu = s.bfu
  chans : t.bfu = { s.bfu with chans := t.bfu.chans }
    ∧ ∀ m, (t.chan m).duty = (s.chan m).duty ∧ (t.chan m).raised = (s.chan m).raised ∧ (t.chan m).dir = (s.chan m).dir
      ∧ (s.exc.part.driving = true → s.bfu.trip = .none → s.cfg.traction.present m = true → (t.chan m).mode = (s.chan m).mode)

/-- A channel that is OFF with no switch conducting (R84). -/
def Channel.dead (ch : Channel) : Bool :=
  ch.mode == .off && !ch.leg1.high && !ch.leg1.low && !ch.leg2.high && !ch.leg2.low && ch.duty == 0

/-- What a shedding makes of the voices and starts of a state `s` (R111, R115): every active voice ends, with an end record of reason SHED
for each tagged one in ascending voice number, and VOICE_END latched with the first; every waiting start is gone, and a start in progress
is to be refused at its decision. -/
structure VoicesShed (s t : State) : Prop where
  voices  : ∀ v, t.voice v = if (s.voice v).active then {} else s.voice v
  starts  : t.snd.queue = [] ∧ t.snd.current = s.snd.current.map fun w => { w with doomed := true }
  records : ∃ tagged : List (Fin 8), tagged = octetIndices.filter (fun v => (s.voice v).active && (s.voice v).tag != 0)
    ∧ t.snd.endCount = s.snd.endCount + BitVec.ofNat 32 tagged.length ∧ (tagged ≠ [] → t.exc.nlat.getLsbD Notice.voiceEnd.bit = true)
    ∧ ∀ i < tagged.length, t.snd.endList.get (Fin.ofNat 8 ((s.snd.endCount.toNat + i) % 8))
      = ⟨(s.voice (tagged.getD i 0)).tag, .shed, (tagged.getD i 0).val⟩

/-- What an entry to HALTED makes of a state `s` (R13, R62, R83, R84, R95, R115, R131, R144, R156): the blocks' shares in the order of the
rules' chapters. MOVING, TURNING and E_BRAKE become STANDING, and the other traction states stay. -/
structure HaltedFacts (s t : State) : Prop where
  part      : t.exc.part = .halted
  mirror    : ∀ a, t.mem.read a = if a = 0x10 then 4 else s.mem.read a
  notice    : t.exc.nlat.getLsbD Notice.halted.bit = true
  drive     : t.srg = { s.srg with
      traction := if s.srg.traction.ends then s.srg.traction else .standing, r := 0, brakeOrder := false, tick := none,
      regTimer := false, turnTimer := none, turnMark := false, motors := t.srg.motors }
    ∧ ∀ m, t.srg.motors.get m = { s.srg.motors.get m with i := 0, sat := .zero, d := 0 }
  bridges   : t.bfu = { s.bfu with chans := t.bfu.chans, window := none, slip := .normal, slipRun := 0, faster := none }
    ∧ ∀ m, (t.chan m).dead = true ∧ (t.chan m).raised = none ∧ (t.chan m).pos = none ∧ (t.chan m).dir = (s.chan m).dir
      ∧ (t.chan m).avg = 0 ∧ (t.chan m).persist = 0 ∧ (t.chan m).cbcMark = false
  chuff     : t.chk = { s.chk with
    level := none, previous := t.chk.previous, run := 0, prescale := 0, capture := none, lostTimer := none, acc := 65535, next := 0,
    first := true }
  voices    : VoicesShed s t
  squeal    : t.snd.squeal = .silent ∧ t.snd.squealCount = 0 ∧ t.snd.squealDue = false
  smoke     : t.smk = { s.smk with
    state := if s.smk.fault then .sensorFault else .off, target := .none, heater := 0, fan := 0, puff := none }
  lamps     : t.lgt = { s.lgt with timer := false, lamps := t.lgt.lamps, cap := 0 }
    ∧ ∀ k, t.lgt.lamps.get k = { pwm := (s.lgt.lamps.get k).pwm }
  untouched : t.cfg = s.cfg ∧ t.rrx = s.rrx ∧ t.sup = s.sup ∧ t.port = s.port ∧ t.exc.lastTaken = s.exc.lastTaken
    ∧ t.exc.cueTake = s.exc.cueTake ∧ t.exc.inboxPut = s.exc.inboxPut ∧ t.exc.slotState = s.exc.slotState

/-! ### Scans -/

/-- A scan finds nothing to do: the drive slot's posting tally is the last taken one and no post is pending, where the slot is
examined, and the cue strip is empty, where cues are taken (R14, R15, R17). -/
def State.nothingToTake (s : State) : Prop :=
  (s.exc.part.driving = true → s.mem.read 0x500 = s.exc.lastTaken ∧ s.exc.slotState ≠ .pending)
  ∧ (s.exc.part.takesCues = true → s.mem.readLe 0x04 2 = s.exc.cueTake.toNat)

/-- The drive slot holds a post: each field at its offset of 1.5. -/
def Memory.slotHolds (m : Memory) (x : Slot) : Prop :=
  m.read 0x500 = x.tally ∧ (m.read 0x501).toNat = x.form ∧ m.readLe 0x502 2 = x.value ∧ (m.read 0x504).toNat = x.direction
  ∧ (m.read 0x505).toNat = x.moment ∧ (m.read 0x506).toNat = x.emergency

/-- The byte of the directory's millisecond count at an address from 0x0C to 0x0F (1.5). -/
def msByte (ms : Word) (a : Nat) : Byte := BitVec.ofNat 8 (ms.toNat / 256 ^ (a - 0x0C))

/-- No scan holds an outcome that it has not gone on with (R119). -/
def State.scanQuiet (s : State) : Prop :=
  ∀ w, s.exc.scan = some w → w.outcome = none

/-! ### Cues -/

/-- Scan work that is held and finds one cue record, with the bytes `r`, and nothing to do at the drive slot; no scan work is in
progress, and no request of a lower-numbered class waits (R6, R14, R15, R17). -/
structure State.CueReady (s : State) (r : List Byte) : Prop where
  mem    : s.mem.wf = true
  held   : s.exc.scanHeld = true
  free   : s.exc.scan = none
  alone  : s.lowerWaits = false
  takes  : s.exc.part.takesCues = true
  slot   : s.exc.part = .running → s.mem.read 0x500 = s.exc.lastTaken ∧ s.exc.slotState ≠ .pending
  tally  : s.mem.readLe 0x04 2 = (s.exc.cueTake.toNat + 1) % 65536
  length : r.length = 16
  record : ∀ i < 16, s.mem.read (0x800 + 16 * (s.exc.cueTake.toNat % 64) + i) = r.getD i 0

/-- EXC after held scan work has taken one cue and latched notices (R14, R17). -/
def State.cueExc (s : State) (notices : BitVec 15) : Exc :=
  { s.exc with scanHeld := false, cueTake := s.exc.cueTake + 1, nlat := s.exc.nlat ||| notices }

/-- Exchange memory after a cue record has been written back with a reason (R17): its first word, the take tally, the directory's
adoption result as `result` gives it, and nothing else. -/
structure CueWritten (s t : State) (r : List Byte) (reason : Nat) (result : Nat → Byte) : Prop where
  state  : t.mem.read (0x800 + 16 * (s.exc.cueTake.toNat % 64)) = if reason = 0 then 2 else 3
  kind   : t.mem.read (0x801 + 16 * (s.exc.cueTake.toNat % 64)) = r.getD 1 0
  reason : t.mem.read (0x802 + 16 * (s.exc.cueTake.toNat % 64)) = BitVec.ofNat 8 reason
  zero   : t.mem.read (0x803 + 16 * (s.exc.cueTake.toNat % 64)) = 0
  tally  : t.mem.readLe 0x06 2 = (s.exc.cueTake.toNat + 1) % 65536
  result : ∀ a, 0x11 ≤ a → a ≤ 0x14 → t.mem.read a = result a
  others : ∀ a, a ≠ 0x06 → a ≠ 0x07 → ¬ (0x11 ≤ a ∧ a ≤ 0x14) →
    (a < 0x800 + 16 * (s.exc.cueTake.toNat % 64) ∨ 0x804 + 16 * (s.exc.cueTake.toNat % 64) ≤ a) → t.mem.read a = s.mem.read a

/-! ### Frames -/

/-- The receiver once a checked frame has ended in buffer `b` (R159, R160, R166): signal strength, and the holder it comes from
heard now. -/
def State.heardFrame (s : State) (time : Nat) (b : BufferId) (bytes : List Byte) : Rrx :=
  let f := Frame.parse bytes
  { s.rrx.setBuffer b (some bytes) with
    frame := none, lastEnd := some time, signal := f.signal,
    holder := if s.isHolder f.sender then some ⟨f.sender, s.exc.ms⟩ else s.rrx.holder,
    failsafe := if s.isHolder f.sender then some s.cfg.radio.failsafe else s.rrx.failsafe }

/-- The part after a frame judged with a verdict and recorded, before anything it sets off: its repeat table entry `i`, and its
record for the inbox writer (R163, R170). -/
def State.judgedFrame (s : State) (time : Nat) (b : BufferId) (bytes : List Byte) (i : Fin 8) (v : FrameVerdict) : State :=
  let f := Frame.parse bytes
  { s with
    rrx := { s.heardFrame time b bytes with table := s.rrx.table.set i (some ⟨f.sender, f.seq, s.exc.ms⟩) },
    exc := { s.exc with inboxQueue := s.exc.inboxQueue ++
      [⟨{ verdict := v, kind := f.kind, sender := f.sender, seq := f.seq, length := f.payload.length, target := f.target,
          time := s.exc.ms, signal := f.signal, payload := f.payload }, b⟩] } }

/-! ### Chuffs -/

/-- What a chuff with one index and one period, and the clips of its chuff set, makes of a state `s` in its four consumers, at the
labour and the speed band of `t` (R94): SND cuts voice 0 or queues a CHUFF start (R125), SMK in READY makes a puff (R142), LGT flashes
(R154), and EXC has an AT_CHUFF take to make (R15). -/
structure ChuffReaches (s t : State) (index period : Nat) (clips : List Nat) : Prop where
  chosen  : clips = s.cfg.sound.sets.getD
    (3 * t.srg.band + (if t.srg.labour ≤ 2 then 0 else if t.srg.labour ≤ 4 then 1 else 2)) []
  cut     : clips = [] → t.voice 0 = (if (s.voice 0).active then {} else s.voice 0)
    ∧ (∀ v, v ≠ 0 → t.voice v = s.voice v) ∧ t.snd.queue = s.snd.queue
  start   : clips ≠ [] → s.snd.queue.length < 32 → t.snd = { s.snd with queue := s.snd.queue ++
    [{ cls := .chuff, asker := .chuff, clip := clips.getD (index % clips.length) 0, pitch := 256,
       volume := s.cfg.sound.chuffVolume.getD t.srg.labour 0, priority := 0, tag := 0, loop := false }] }
  noStart : clips ≠ [] → 32 ≤ s.snd.queue.length → t.snd = s.snd
  noPuff  : s.smk.state ≠ .ready → t.smk = s.smk
  puff    : s.smk.state = .ready → ∃ length kick duty : Nat,
    length = min s.cfg.smoke.puffMax (period * 7 / 10) ∧ kick = min s.cfg.smoke.kick length
    ∧ (duty : Int) = max 0 (min (s.cfg.smoke.base + t.srg.labour * s.cfg.smoke.step) 255)
    ∧ (length = 0 → t.smk = { s.smk with puff := none, fan := s.cfg.smoke.idle })
    ∧ (0 < length → t.smk = { s.smk with
        puff := some ⟨s.exc.ms, kick, length, duty, kick == 0⟩, fan := if kick = 0 then duty else 255 })
  lamps   : ∀ k : Fin 8, let p := s.cfg.lights.get k
    let l := s.lgt.lamps.get k
    ((∀ low flash, p.effect ≠ .chuffFlash low flash) → t.lgt.lamps.get k = l)
    ∧ ∀ low flash, p.effect = .chuffFlash low flash →
      (l.active = false → t.lgt.lamps.get k = { l with flash := 10 * flash })
      ∧ (l.active = true → ∃ v, v = (if l.dimmed then p.level * p.dimLevel / 255 else p.level)
        ∧ t.lgt.lamps.get k = { l with flash := 10 * flash, program := v, level := min v s.lgt.cap })
  slot    : t.exc.chuffHeld = true ↔ s.exc.chuffHeld = true
    ∨ (s.exc.part = .running ∧ s.exc.slotState = .pending ∧ s.exc.slotMoment = 2 ∧ s.exc.slotEmergency = 0)

/-- What the chuff clock makes of a completion (R90, R91, R93), from `s` before it to `t` after it, by the loco speed and the traction
state of `t`. The lost timer runs on, starts or stops, in SENSOR_LIVE alone. In STANDING the virtual cam is unchanged; in every other
state it advances, and its wrap is a chuff in source mode VIRTUAL, and in AUTO while the sensor is lost. -/
def ClockCompleted (s t : State) : Prop :=
  let sum := s.chk.acc + min 65535 (t.srg.vl * s.cfg.chuff.kcam / 64)
  let lost := if s.chk.source ≠ .sensorLive then s.chk.lostTimer
    else if t.srg.vl < s.cfg.chuff.moving then none else some (s.chk.lostTimer.getD s.cfg.chuff.lostTime)
  let chuffs := t.srg.traction ≠ .standing ∧ 65536 ≤ sum
    ∧ (s.cfg.chuff.mode = .virtual ∨ (s.cfg.chuff.mode = .auto ∧ s.chk.source = .sensorLost))
  (¬ chuffs → t.chk = { s.chk with
      acc := if t.srg.traction = .standing then s.chk.acc else if 65536 ≤ sum then sum - 65536 else sum, lostTimer := lost }
    ∧ t.snd = s.snd ∧ t.smk = s.smk ∧ t.lgt = s.lgt ∧ t.exc.chuffHeld = s.exc.chuffHeld)
  ∧ (chuffs →
    let period := if s.chk.first then 65535 else s.chk.interval
    t.chk = { s.chk with
      acc := sum - 65536, lostTimer := lost, lastChuff := period, next := (s.chk.next + 1) % s.cfg.chuff.perCycle,
      first := false, interval := 0, count := s.chk.count + 1 }
    ∧ ∃ clips, ChuffReaches s t s.chk.next period clips)

/-! ### Sound -/

/-- The start order list names each active pool voice once, and nothing else (R100). -/
def State.orderOk (s : State) : Prop :=
  s.snd.order.Nodup ∧ ∀ v, v ∈ s.snd.order ↔ (v ∈ poolVoices ∧ (s.voice v).active = true)

/-- No two active voices carry one nonzero tag, and the chuff and background voices carry none (R99). -/
def State.tagsOk (s : State) : Prop :=
  (s.voice 0).tag = 0 ∧ (s.voice 1).tag = 0
  ∧ ∀ u v, (s.voice u).active = true → (s.voice v).active = true → (s.voice u).tag = (s.voice v).tag → (s.voice u).tag ≠ 0 → u = v

/-- Nothing keeps the outcome of a start that a requester waits for: no outcome waits to be taken up, and for a PLAY cue, which the last
record of a scan in progress has posted, no other request is at the arbiter, which R6 would serve before the scan goes on (R119). -/
structure State.Answers (s : State) (asker : Requester) : Prop where
  quiet : s.scanQuiet
  cue   : asker = .playCue → s.mem.wf = true ∧ (∃ kind, s.exc.scan = some ⟨kind, 0, none⟩)
    ∧ s.port.awaiting = none ∧ s.exc.board = none ∧ s.inboxWaits = false

/-- What a start's outcome, handed back to its requester, makes of a state `s` that holds the start's own effects (R119, R130). The reason
is 0 for a start that was made, and otherwise the reason code of its refusal (1.5). A PLAY cue is written back with it, and a refusal
latched; a SOUNDING squeal falls SILENT at a refusal; no one else is told. -/
structure OutcomeHanded (s t : State) (asker : Requester) (reason : Nat) : Prop where
  others : asker ≠ .playCue → asker ≠ .squeal → t = s
  squeal : asker = .squeal → t = { s with snd := { s.snd with
    squeal := if reason ≠ 0 ∧ s.snd.squeal = .sounding then .silent else s.snd.squeal } }
  cue    : ∀ kind : Byte, asker = .playCue → s.exc.scan = some ⟨kind, 0, none⟩ →
    let base := 0x800 + 16 * (s.exc.cueTake.toNat % 64)
    t = { s with
      exc := { s.exc with
        scan := none, cueTake := s.exc.cueTake + 1, nlat := if reason = 0 then s.exc.nlat else s.exc.nlat ||| 4 },
      mem := t.mem }
    ∧ t.mem.readLe 0x06 2 = (s.exc.cueTake.toNat + 1) % 65536
    ∧ t.mem.read base = (if reason = 0 then 2 else 3) ∧ t.mem.read (base + 1) = kind
    ∧ t.mem.read (base + 2) = BitVec.ofNat 8 reason ∧ t.mem.read (base + 3) = 0
    ∧ ∀ a, a ≠ 0x06 → a ≠ 0x07 → (a < base ∨ base + 4 ≤ a) → t.mem.read a = s.mem.read a

/-- What the end of voice `v` with a reason makes of a state `s`, and of the notices (R100, R110, R111): the end record of a tagged
voice, and the squeal's answer to the end of a voice of tag 0x8010 (R130, log entry 15). The voices themselves are not looked at. -/
structure VoiceEnded (s t : State) (v : Fin 8) (reason : EndReason) : Prop where
  untagged : (s.voice v).tag = 0 → t.snd.endList = s.snd.endList ∧ t.snd.endCount = s.snd.endCount ∧ t.exc = s.exc
  tagged   : (s.voice v).tag ≠ 0 → t.snd.endCount = s.snd.endCount + 1 ∧ t.exc = { s.exc with nlat := s.exc.nlat ||| 0x10 }
    ∧ t.snd.endList = s.snd.endList.set (Fin.ofNat 8 (s.snd.endCount.toNat % 8)) ⟨(s.voice v).tag, reason, v.val⟩
  squeal   : t.snd.squeal = if (s.voice v).tag = 0x8010 ∧ s.snd.squeal = .sounding then .spent else s.snd.squeal

/-! ### Smoke -/

/-- WARMING and READY, the states in which the heater may be on (R137). -/
def SmokeState.heats : SmokeState → Bool
  | .warming => true
  | .ready => true
  | _ => false

/-- The smoke state `x` and the target that R136 gives a state: the first row whose condition holds. -/
structure SmokeRanked (s : State) (x : SmokeState) (target : SmokeTarget) : Prop where
  fault   : s.smk.fault = true → x = .sensorFault ∧ target = .none
  halted  : s.smk.fault = false → s.haltedLike = true → x = .off ∧ target = .none
  shed    : s.smk.fault = false → s.haltedLike = false → s.sup.state ≠ .normal → x = .shed ∧ target = .none
  dry     : s.smk.fault = false → s.haltedLike = false → s.sup.state = .normal → s.smk.fluid = 0 → x = .dry ∧ target = .none
  hot     : s.smk.fault = false → s.haltedLike = false → s.sup.state = .normal → s.smk.fluid ≠ 0 → s.smk.hot = true →
    x = .hot ∧ target = .none
  enabled : s.smk.fault = false → s.haltedLike = false → s.sup.state = .normal → s.smk.fluid ≠ 0 → s.smk.hot = false →
    (s.smk.enable = false → s.cfg.smoke.keepWarm = false → x = .off ∧ target = .none)
    ∧ (s.smk.enable = false → s.cfg.smoke.keepWarm = true → x = .warming ∧ target = .warm)
    ∧ (s.smk.enable = true → s.cfg.smoke.tVapor ≤ s.smk.temp → x = .ready ∧ target = .set)
    ∧ (s.smk.enable = true → s.smk.temp < s.cfg.smoke.tVapor → x = .warming ∧ target = .set)

/-- What an evaluation of the smoke state makes of a state `s` (R136): the ranked state and target, and at a change of them the outputs:
into READY the heater off and the fan at its idle duty, into any other state both off and a puff abandoned, and from one target to the
other the heater off. With neither changed nothing changes. -/
structure SmokeEvaluated (s t : State) : Prop where
  ranked : SmokeRanked s t.smk.state t.smk.target
  only   : t = { s with smk := t.smk }
  ready  : t.smk.state = .ready → s.smk.state ≠ .ready →
    t.smk = { s.smk with state := .ready, target := t.smk.target, heater := 0, fan := s.cfg.smoke.idle }
  other  : t.smk.state ≠ .ready → s.smk.state ≠ t.smk.state →
    t.smk = { s.smk with state := t.smk.state, target := t.smk.target, heater := 0, fan := 0, puff := none }
  target : s.smk.state = t.smk.state → s.smk.target ≠ t.smk.target → t.smk = { s.smk with target := t.smk.target, heater := 0 }
  same   : s.smk.state = t.smk.state → s.smk.target = t.smk.target → t = s

/-- What an entry to DARK makes of a state `s` in every part state but STOPPING, which it ends (R49, R51, R61, R83, R113, R115, R130, R136,
R155, R156): MOVING, TURNING and E_BRAKE become STANDING, E_HELD and TRIPPED stay; R, the duties and both caps are 0, the voices are shed, and
the smoke state is evaluated where the smoke unit acts on events. A SOUNDING squeal that loses its voice is SPENT (log entry 15). The
drive request, memory and the other blocks are as before. -/
structure DarkEntered (s t : State) : Prop where
  only    : t = { s with
    sup := t.sup, exc := { s.exc with nlat := t.exc.nlat }, srg := t.srg, bfu := t.bfu, chk := t.chk, snd := t.snd, smk := t.smk,
    lgt := t.lgt }
  notices : t.sup.state = .dark ∧ t.exc.nlat = s.exc.nlat ||| 0x2000
    ||| if (∃ v, (s.voice v).active = true ∧ (s.voice v).tag ≠ 0) then 0x10 else 0
  rests   : s.srg.traction ≠ .eHeld → s.srg.traction ≠ .tripped → t.srg = { s.srg with
    traction := .standing, r := 0, turnTimer := none, turnMark := false, motors := t.srg.motors }
  latched : s.srg.traction = .eHeld ∨ s.srg.traction = .tripped → t.srg = { s.srg with motors := t.srg.motors }
  duties  : ∀ m, t.srg.motors.get m = (if s.srg.traction.ends then { s.srg.motors.get m with d := 0 }
      else { s.srg.motors.get m with i := 0, sat := .zero, d := 0 })
    ∧ (t.chan m).duty = 0 ∧ (t.chan m).raised = none ∧ (t.chan m).dir = (s.chan m).dir
    ∧ (s.srg.traction.ends = false → s.bfu.window = none → (t.chan m).mode = .off)
  stands  : s.srg.traction.ends = false → t.chk = { s.chk with acc := 65535, next := 0, first := true }
    ∧ t.bfu = { s.bfu with chans := t.bfu.chans, slip := .normal, slipRun := 0, faster := none }
  stood   : s.srg.traction.ends = true → t.chk = s.chk ∧ t.bfu = { s.bfu with chans := t.bfu.chans }
  voices  : VoicesShed s t
  sound   : t.snd = { s.snd with
    voices := t.snd.voices, order := t.snd.order, queue := t.snd.queue, current := t.snd.current, endList := t.snd.endList,
    endCount := t.snd.endCount, squeal := t.snd.squeal, cap := 0 }
  squeal  : t.snd.squeal =
    if s.snd.squeal = .sounding ∧ ∃ v, (s.voice v).active = true ∧ (s.voice v).tag = 0x8010 then .spent
    else if s.snd.squeal = .sounding ∧ ∃ q ∈ s.snd.queue, q.asker = .squeal then .silent else s.snd.squeal
  smoke   : (s.exc.part.driving = true ∨ s.haltedLike = true → SmokeEvaluated { t with smk := s.smk } t)
    ∧ (s.exc.part.driving = false → s.haltedLike = false → t.smk = s.smk)
  lamps   : t.lgt = { s.lgt with lamps := t.lgt.lamps, cap := 0 }
    ∧ ∀ k, t.lgt.lamps.get k = { s.lgt.lamps.get k with level := 0 }

/-- What R138 and R139 promise of the heater and the fluid. -/
structure State.HeaterOk (s : State) : Prop where
  allowance : s.smk.hlim = s.sup.hlim
  below     : s.smk.heater ≤ s.smk.hlim
  heats     : s.smk.heater ≠ 0 → s.smk.state.heats = true
  lit       : s.smk.state.heats = true → s.sup.state = .normal ∧ s.smk.fluid ≠ 0 ∧ s.exc.part.driving = true
  fluid     : s.smk.fluid ≤ s.cfg.smoke.capacity

/-! ### Lamps -/

/-- The flicker generator never holds 0 (R150). -/
def State.lfsrOk (s : State) : Prop := s.lgt.lfsr ≠ 0

end Sys2Proof.Machine
end

