-- ==== Sys2Proof/Certificates/Slice0/Obligations.lean ====
section
/-!
DEFINITION. The statements about this model, for the provers.
-/

open Sys2Proof Sys2Proof.Machine

/-! ### The step and the queue -/

/-- A step carries out the command at the front of the queue on the state with the queue's rest; on an empty queue 50 ns pass in
the PWM counters and dead times (log entry 2, the model's choice), and nothing else happens. -/
def Obligations.StepRunsFrontCommand : Prop :=
  (∀ (c : Instr) (rest : List Instr) (s : State),
    step { s with pending := c :: rest } = exec c { s with pending := rest })
  ∧ ∀ s : State, s.pending = [] → step s = .next { s with bfu := { s.bfu with chans := s.bfu.chans.map (Channel.tick s.cfg.traction) } }

/-- No command touches the queue of the commands that wait (the model's own field, log entry 1), and none leaves a scan with an
outcome that it has not gone on with (R119). -/
def Obligations.CommandsKeepQueue : Prop :=
  ∀ (c : Instr) (s t : State), s.scanQuiet → exec c s = .next t → t.pending = s.pending ∧ t.scanQuiet

/-! ### Invariants -/

/-- The state after power-on reset meets every promise of Safety.lean.
Some of the reset values are read by inference (log entry 38). -/
def Obligations.ResetIsSafe : Prop :=
  State.reset.memOk ∧ State.reset.noShootThrough ∧ State.reset.adoptionOk ∧ State.reset.tripOk ∧ State.reset.restOk
  ∧ State.reset.scanQuiet ∧ State.reset.undriven
  ∧ State.reset.holderOk ∧ State.reset.orderOk ∧ State.reset.tagsOk ∧ State.reset.HeaterOk ∧ State.reset.lfsrOk
  ∧ State.reset.boardOk ∧ State.reset.stoppingOk

/-- Every step keeps exchange memory in its canonical form, and a write that the port awaits inside exchange memory (R2). -/
def Obligations.StepsKeepMemory : Prop :=
  ∀ s t : State, s.memOk → step s = .next t → t.memOk

/-- No step lets both switches of a half-bridge conduct (R70). -/
def Obligations.StepsPreventShootThrough : Prop :=
  ∀ s t : State, s.noShootThrough → step s = .next t → t.noShootThrough

/-- Every step keeps the heater duty at or below the latest allowance, 0 outside WARMING and READY with the supply NORMAL, and 0
with no fluid; and the fluid at or below the capacity (R138, R139). -/
def Obligations.StepsKeepHeater : Prop :=
  ∀ s t : State, s.adoptionOk → s.HeaterOk → step s = .next t → t.adoptionOk ∧ t.HeaterOk

/-- Every step keeps traction TRIPPED exactly while there is a trip reason, and R at 0 while traction is STANDING, E_HELD or
TRIPPED; and every step keeps STOPPING out of STANDING, TRIPPED, E_HELD and DARK, each of which ends it (R12, R45, R46, R58, R60, R79,
R80). -/
def Obligations.StepsKeepTrip : Prop :=
  ∀ s t : State, step s = .next t → (s.tripOk → s.restOk → t.tripOk ∧ t.restOk) ∧ (s.stoppingOk → t.stoppingOk)

/-- Every step keeps the duties 0 whenever traction is STANDING, TRIPPED or E_HELD, the supply is DARK, or the part is in neither
RUNNING nor STOPPING (R52). -/
def Obligations.StepsKeepUndriven : Prop :=
  ∀ s t : State, s.adoptionOk → (s.quiet → s.undriven) → step s = .next t → t.adoptionOk ∧ (t.quiet → t.undriven)

/-- Every step keeps the start order list the list of the active pool voices, each once, and the tags of active voices distinct
(R99, R100). -/
def Obligations.StepsKeepStartOrder : Prop :=
  ∀ s t : State, s.orderOk → s.tagsOk → step s = .next t → t.orderOk ∧ t.tagsOk

/-- Every step keeps a holder set while the source of the drive request is RADIO (R32), the flicker generator off 0 (R150), and the
board generation odd exactly while a board write is in progress (R21).
That an abandoned write's odd generation moves on to the even one after it is the model's choice (log entry 40). -/
def Obligations.StepsKeepHolderFlickerBoard : Prop :=
  (∀ s t : State, s.holderOk → step s = .next t → t.holderOk)
  ∧ (∀ s t : State, s.lfsrOk → step s = .next t → t.lfsrOk)
  ∧ ∀ s t : State, s.boardOk → step s = .next t → t.boardOk

/-! ### Whole-machine rules -/

/-- HALTED is left only by START, by RESET and by power-on reset (R13, R22). -/
def Obligations.HaltedLeftOnlyByCommand : Prop :=
  ∀ (c : Instr) (s t : State), s.adoptionOk → s.exc.part = .halted → exec c s = .next t → t.exc.part ≠ .halted →
    (∃ u, c = .start u) ∨ (∃ u, c = .reset u) ∨ c = .powerOnReset

/-- While the part is RUNNING or STOPPING, the bridge direction changes only at the start of a regulation tick, at which R is 0
(R55). -/
def Obligations.BridgeTurnsOnlyAtTick : Prop :=
  ∀ (c : Instr) (s t : State), s.adoptionOk → s.restOk → s.exc.part.driving = true → exec c s = .next t → t.exc.part.driving = true →
    t.srg.bridgeDir ≠ s.srg.bridgeDir → c = .regulationTimer ∧ s.srg.r = 0

/-! ### The memory port -/

/-- A memory port transaction and its command: 0xA read-memory, 0xB write-memory, 0xC read-register and 0xD write-register above 1 for
one lane and 4 for four; three address bytes, the most significant first; a register number and two data bytes, low byte first; a
write to PCTL delivers the command of bits 0 to 2, with bits 3 to 15 ignored; a register write that ends before its second data byte,
or to IDNT or above, is dropped; any other command byte is an undefined one. The command then waits in the queue, and a step carries
it out (R2, R4).
How late the port's grants are is given with the transaction (log entry 8), a transaction cut off before its address or its register
number is no command (log entry 42), bytes beyond those of the transaction change nothing (log entry 49), and the queue is the model's own (log entry 1). -/
def Obligations.PortTransactions : Prop :=
  (∀ (x : Transaction) (cmd : Byte) (lanes : Lanes) (rest : List Byte), x.bytes = cmd :: rest →
    cmd.toNat % 16 = (match lanes with | .one => 1 | .four => 4) →
    (∀ a2 a1 a0 more, rest = a2 :: a1 :: a0 :: more → ∃ addr : BitVec 24,
      addr.toNat = 65536 * a2.toNat + 256 * a1.toNat + a0.toNat
      ∧ (cmd.toNat / 16 = 0xA → x.command = some (.readMemory lanes addr x.out x.late))
      ∧ (cmd.toNat / 16 = 0xB → x.command = some (.writeMemory lanes addr more x.tailBits x.delays)))
    ∧ (∀ reg more, rest = reg :: more → cmd.toNat / 16 = 0xC → x.command = some (.readRegister lanes reg))
    ∧ (∀ reg lo hi more, rest = reg :: lo :: hi :: more → cmd.toNat / 16 = 0xD →
      ∃ (value : Half) (upper : BitVec 13) (code : BitVec 3), value.toNat = lo.toNat + 256 * hi.toNat
        ∧ code.toNat = value.toNat % 8 ∧ upper.toNat = value.toNat / 8
        ∧ (reg = 0 → x.command = some (match code with
            | 0 => .pctlNoCommand upper
            | 1 => .start upper
            | 2 => .haltSoft upper
            | 3 => .haltHard upper
            | 4 => .reset upper
            | c => .pctlReservedCommand c upper))
        ∧ (reg = 1 → x.command = some (.nlatWrite value)) ∧ (reg = 2 → x.command = some (.nenWrite value))
        ∧ (3 ≤ reg.toNat → x.command = some (.registerWriteIgnored reg value true)))
    ∧ (∀ reg more, rest = reg :: more → more.length < 2 → cmd.toNat / 16 = 0xD →
      ∃ value, x.command = some (.registerWriteIgnored reg value false)))
  ∧ (∀ (x : Transaction) (cmd : Byte) (rest : List Byte), x.bytes = cmd :: rest →
    (cmd.toNat % 16 ≠ 1 ∧ cmd.toNat % 16 ≠ 4) ∨ cmd.toNat / 16 < 0xA ∨ 0xD < cmd.toNat / 16 → x.command = some (.portCommandInvalid cmd))
  ∧ ∀ (s : State) (x : Transaction) (c : Instr), s.pending = [] → x.command = some c → step (s.transact x) = exec c s

/-- READ_MEMORY: byte `i` is the byte of exchange memory at the address counted on by `i`, from 0x7FFFF to 0x00000, or 0 where it
fell due before its word's grant; a write that the port still awaited has changed its bytes before; while CLEARING is set every
byte is 0 (R2, R3). Stated for no waiting request of the sound engine, which GrantOrder puts first.
When grants come late is an operand, and that the awaited write comes before the read is the model's reading (log entry 8). -/
def Obligations.ReadMemoryDelivers : Prop :=
  ∀ (lanes : Lanes) (addr : BitVec 24) (n : Nat) (late : List Nat) (s : State),
    (s.exc.clearing = false → 0 < n → s.soundWaits = false →
      ∃ t, exec (.readMemory lanes addr n late) s = .next t
        ∧ t = { s with mem := s.mem.writeCells (s.port.awaiting.getD []), port := t.port }
        ∧ t.port.awaiting = none ∧ t.port.hiZ = false ∧ t.port.out.length = n
        ∧ ∀ i < n, t.port.out[i]? = some
            (if portDue addr.toNat i < late.getD (portWord addr.toNat i) 0 then 0
             else t.mem.read ((addr.toNat + i) % 524288)))
    ∧ exec (.readMemory lanes addr 0 late) s = .next { s with port := { s.port with out := [], hiZ := false } }
    ∧ (s.exc.clearing = true → s.port.awaiting = none → s.soundWaits = false →
        exec (.readMemory lanes addr n late) s
          = .next { s with port := { s.port with out := List.replicate n 0, hiZ := false } })

/-- WRITE_MEMORY with every grant given before the next word boundary: the write that the port still awaited is made, each complete byte
is stored at its address, in order, and nothing else changes; with its grant still to come at the end, a transaction without data bytes
changes nothing; while CLEARING is set nothing changes. Of two aligned words the second is discarded while the first one's grant
is still awaited at its boundary, and a grant still awaited at the end changes no byte yet (R2, R3). Stated for no waiting request of
the sound engine, which GrantOrder puts first.
When grants are given is an operand (log entry 8, the model's choice). -/
def Obligations.WriteMemoryStores : Prop :=
  ((∀ (lanes : Lanes) (addr : BitVec 24) (data : List Byte) (tail : Nat) (s : State),
     s.exc.clearing = false → s.soundWaits = false →
       exec (.writeMemory lanes addr data tail []) s = .next { s with
         mem := (s.mem.writeCells (s.port.awaiting.getD [])).writeCells
           ((List.range data.length).map fun i => ((addr.toNat + i) % 524288, data.getD i 0)),
         port := { s.port with awaiting := none } }
       ∧ ∀ k, exec (.writeMemory lanes addr [] tail [k + 1]) s = .next s)
   ∧ ∀ (lanes : Lanes) (addr : BitVec 24) (data : List Byte) (tail : Nat) (delays : List Nat) (s : State),
       s.exc.clearing = true → exec (.writeMemory lanes addr data tail delays) s = .next s)
  ∧ ∀ (lanes : Lanes) (addr : BitVec 24) (b0 b1 b2 b3 c0 c1 c2 c3 : Byte) (tail : Nat) (s : State),
    addr.toNat % 4 = 0 → s.exc.clearing = false → s.port.awaiting = none → s.soundWaits = false →
    let a := addr.toNat % 524288
    let first : List Host.Cell := [(a, b0), (a + 1, b1), (a + 2, b2), (a + 3, b3)]
    exec (.writeMemory lanes addr [b0, b1, b2, b3, c0, c1, c2, c3] tail [1]) s = .next { s with mem := s.mem.writeCells first }
    ∧ exec (.writeMemory lanes addr [b0, b1, b2, b3, c0, c1, c2, c3] tail [2]) s
        = .next { s with port := { s.port with awaiting := some first } }

/-- READ_REGISTER: IDNT reads 7140, a number above 3 reads 0, NEN and NLAT read their kinds, and PCTL reads the part state, CLEARING,
the last command's result and its code; each low byte first (R2, R4). What the bits that 1.5 does not list read as is left
open (log entry 6). NLAT_WRITE clears exactly the kinds written 1, NEN_WRITE sets the enables, and ATTN is low exactly while a kind
is both latched and enabled (R4, R5). -/
def Obligations.RegisterReadsAndWrites : Prop :=
  (∀ (lanes : Lanes) (reg : Byte) (s : State),
    ∃ t lo hi, exec (.readRegister lanes reg) s = .next t
      ∧ t = { s with port := { s.port with out := [lo, hi], hiZ := false }, freeCount := t.freeCount }
      ∧ (reg = 3 → lo = 0xE4 ∧ hi = 0x1B)
      ∧ (3 < reg.toNat → lo = 0 ∧ hi = 0)
      ∧ (reg = 2 → lo.toNat + 256 * hi.toNat = s.exc.nen.toNat)
      ∧ (reg = 1 → lo.toNat + 256 * (hi.toNat % 128) = s.exc.nlat.toNat)
      ∧ (reg = 0 → lo.toNat % 8 = s.exc.part.code ∧ lo.toNat / 8 % 2 = (if s.exc.clearing then 1 else 0)
          ∧ lo.toNat / 16 % 2 = s.exc.lastResult.code ∧ hi.toNat % 8 = s.exc.lastCmd.toNat))
  ∧ ∀ (value : Half) (s : State), s.exc.clearing = false →
    (∃ t, exec (.nlatWrite value) s = .next t ∧ t = { s with exc := { s.exc with nlat := t.exc.nlat } }
      ∧ (∀ k : Notice, t.exc.nlat.getLsbD k.bit = (s.exc.nlat.getLsbD k.bit && !value.getLsbD k.bit))
      ∧ (t.attnLow = true ↔ ∃ k : Notice, t.exc.nlat.getLsbD k.bit = true ∧ t.exc.nen.getLsbD k.bit = true))
    ∧ ∃ t, exec (.nenWrite value) s = .next t ∧ t = { s with exc := { s.exc with nen := t.exc.nen } }
      ∧ (∀ k : Notice, t.exc.nen.getLsbD k.bit = value.getLsbD k.bit)
      ∧ (t.attnLow = true ↔ ∃ k : Notice, t.exc.nlat.getLsbD k.bit = true ∧ t.exc.nen.getLsbD k.bit = true)

/-! ### Part control -/

/-- A command that the part state refuses, and a reserved one in every state, changes nothing but the last command and its result
(R4, R7); while CLEARING is set every register write is dropped (R3). An undefined command byte, a write to IDNT or above, a write
cut short, and a PCTL write of code 0 change nothing, but that the port's outputs stay high-impedance after an undefined command
byte (R2, R4). -/
def Obligations.RefusedAndDroppedCommands : Prop :=
  (∀ (u : BitVec 13) (code : BitVec 3) (s : State), s.exc.clearing = false →
     (s.exc.part ≠ .idle → s.exc.part ≠ .halted →
       exec (.start u) s = .next { s with exc := { s.exc with lastCmd := 1, lastResult := .refused } })
     ∧ (s.exc.part ≠ .running →
       exec (.haltSoft u) s = .next { s with exc := { s.exc with lastCmd := 2, lastResult := .refused } })
     ∧ (s.exc.part ≠ .running → s.exc.part ≠ .stopping →
       exec (.haltHard u) s = .next { s with exc := { s.exc with lastCmd := 3, lastResult := .refused } })
     ∧ exec (.pctlReservedCommand code u) s = .next { s with exc := { s.exc with lastCmd := code, lastResult := .refused } })
  ∧ (∀ (u : BitVec 13) (code : BitVec 3) (value : Half) (s : State), s.exc.clearing = true →
    exec (.start u) s = .next s ∧ exec (.haltSoft u) s = .next s ∧ exec (.haltHard u) s = .next s
    ∧ exec (.reset u) s = .next s ∧ exec (.pctlReservedCommand code u) s = .next s
    ∧ exec (.nlatWrite value) s = .next s ∧ exec (.nenWrite value) s = .next s)
  ∧ ∀ (cmd reg : Byte) (value : Half) (complete : Bool) (u : BitVec 13) (s : State),
    exec (.portCommandInvalid cmd) s = .next { s with port := { s.port with out := [], hiZ := true } }
    ∧ exec (.registerWriteIgnored reg value complete) s = .next s
    ∧ exec (.pctlNoCommand u) s = .next s

/-- START accepted: ADOPTING with its mirror, the result NONE with group, index and reason 0, and adoption at its first group; from
IDLE the link is switched on and the modulator starts with Out = 0. The blocks go on as they were (R7, R8, R114, R161). -/
def Obligations.StartBeginsAdoption : Prop :=
  ∀ (u : BitVec 13) (s : State), s.mem.wf = true → s.exc.clearing = false →
    s.exc.part = .idle ∨ s.exc.part = .halted →
    ∃ t, exec (.start u) s = .next t
      ∧ t = { s with exc := t.exc, mem := t.mem, snd := t.snd, rrx := t.rrx }
      ∧ t.exc = { s.exc with
          part := .adopting, lastCmd := 1, lastResult := .accepted,
          adoption := some { fromHalted := s.exc.part == .halted, group := 1, words := [], values := Groups.none } }
      ∧ (∀ a, t.mem.read a = if a = 0x10 then 1 else if 0x11 ≤ a ∧ a ≤ 0x14 then 0 else s.mem.read a)
      ∧ (s.exc.part = .halted → t.snd = s.snd ∧ t.rrx = s.rrx)
      ∧ (s.exc.part = .idle →
          t.snd = { s.snd with modOn := true, modIn := 0, modNow := 0, out := 0 }
          ∧ t.rrx = { s.rrx with link := true, lastEnd := none, frame := none, buf1 := none, buf2 := none })

/-- HALT_SOFT accepted while its end condition does not hold: STOPPING with its mirror, and the stop order, which sets S and its
origin to 0 and keeps source and requested direction; nothing else changes (R7, R12, R31). HALT_HARD, and HALT_SOFT where STOPPING
ends at once, enter HALTED (`HaltedFacts`): MOVING, TURNING and E_BRAKE become STANDING, the tick is abandoned, the timers stop and every
duty, integral and saturation flag is 0; both bridges off with their counters stopped and slip over; the chuff clock at its values there;
every voice shed and the squeal SILENT; heater and fan off; every lamp level, phase, fade value and flash 0 with the effect timer stopped;
HALTED latched, and the mirror written; the configuration, the radio receiver and the supply monitor are untouched (R12, R13, R62, R83,
R84, R95, R115, R131, R144, R156). -/
def Obligations.HaltsStopOrHalt : Prop :=
  (∀ (u : BitVec 13) (s : State), s.mem.wf = true → s.scanQuiet → s.exc.clearing = false → s.exc.part = .running →
    s.srg.traction.ends = false → s.sup.state ≠ .dark →
    ∃ t, exec (.haltSoft u) s = .next t
      ∧ t = { s with exc := t.exc, mem := t.mem, drq := { s.drq with origin := .speedUnits 0, s := 0 } }
      ∧ t.exc = { s.exc with part := .stopping, lastCmd := 2, lastResult := .accepted, chuffHeld := false }
      ∧ ∀ a, t.mem.read a = if a = 0x10 then 3 else s.mem.read a)
  ∧ ∀ (u : BitVec 13) (s : State), s.mem.wf = true → s.exc.scan = none → s.exc.clearing = false →
    ∃ t t', (s.exc.part.driving = true → exec (.haltHard u) s = .next t ∧ HaltedFacts s t ∧ t.exc.lastCmd = 3 ∧ t.drq = s.drq)
      ∧ (s.exc.part = .running → s.srg.traction.ends = true ∨ s.sup.state = .dark →
          exec (.haltSoft u) s = .next t' ∧ HaltedFacts s t' ∧ t'.exc.lastCmd = 2
          ∧ t'.drq = { s.drq with origin := .speedUnits 0, s := 0 })

/-- RESET: every block at its reset values, IDLE, the last command RESET and ACCEPTED, NLAT 0 and NEN kept; directory bytes
0x04–0x16 and the status board 0, and every other byte of exchange memory kept; CLEARING set (R23). POWER_ON_RESET: the state after
reset with CLEARING set, exchange memory 0 but for the family code 7140 and the layout revision 3; MEMORY_CLEAR_DONE clears CLEARING
and nothing else (R22). Either way SPKP and SPKN are held low (R114, R116).
That memory is cleared at the command, and that the port's outputs are kept by RESET while its awaited write is abandoned, is the
model's reading (log entries 9, 23, 35), and some reset values are read by inference (log entry 38). -/
def Obligations.ResetValues : Prop :=
  (∀ (u : BitVec 13) (s : State), s.exc.clearing = false →
    ∃ t, exec (.reset u) s = .next t
      ∧ t = { State.reset with
          exc := { State.reset.exc with clearing := true, lastCmd := 4, nen := s.exc.nen },
          port := { State.reset.port with out := s.port.out, hiZ := s.port.hiZ },
          mem := t.mem, freeCount := s.freeCount, pending := s.pending }
      ∧ t.spkpHigh = 0 ∧ t.spknHigh = 0
      ∧ ∀ a, t.mem.read a = if (0x04 ≤ a ∧ a ≤ 0x16) ∨ (0x100 ≤ a ∧ a ≤ 0x4FF) then 0 else s.mem.read a)
  ∧ (∀ s : State,
    exec .powerOnReset s = .next { State.reset with
      exc := { State.reset.exc with clearing := true }, freeCount := s.freeCount, pending := s.pending }
    ∧ exec .memoryClearDone s = .next { s with exc := { s.exc with clearing := false } })
  ∧ State.reset.mem.readLe 0x00 2 = 7140 ∧ State.reset.mem.readLe 0x02 2 = 3
  ∧ (∀ a, 4 ≤ a → State.reset.mem.read a = 0)
  ∧ State.reset.exc.part = .idle ∧ State.reset.exc.lastCmd = 0 ∧ State.reset.exc.lastResult = .accepted
  ∧ State.reset.exc.nlat = 0 ∧ State.reset.exc.nen = 0 ∧ State.reset.exc.boardGen = 0
  ∧ State.reset.spkpHigh = 0 ∧ State.reset.spknHigh = 0

/-! ### Adoption -/

/-- What makes a configuration group valid: its parameters are checked in index order, and the first that fails refuses the group with
its index and reason; a group with none that fails is valid, and only its own values are replaced. Then, group by group and index by
index, when the parameter at that index fails: with OUT_OF_RANGE outside its range, and in its range with NOT_MONOTONIC, INCONSISTENT or
DUPLICATE where the relation named at its index does not hold (R8, R27, R38, R64, R67, R96, R117, R145, R148, R149, R171, R179). A LIGHTS
group that passes pairs each ALTERNATE output with one other, both naming each other and sharing one period.
R149's steps are read together at each index (log entry 27). -/
def Obligations.GroupChecks : Prop :=
  (∀ (n : Nat) (bs : List Byte) (g : Groups),
     ((∀ c ∈ groupChecks n bs, c.2 = none) → validateGroup n bs g = .valid (parseGroup n bs g))
     ∧ (∀ before index reason after, groupChecks n bs = before ++ (index, some reason) :: after → (∀ c ∈ before, c.2 = none) →
       validateGroup n bs g = .refused index reason)
     ∧ (1 ≤ n → n ≤ 9 → (groupChecks n bs).map Prod.fst = List.range ([0, 26, 11, 160, 188, 8, 44, 72, 13, 13].getD n 0)))
  ∧ ∀ bs : List Byte,
    let b := fun i => (bs.getD i 0).toNat
    let p := fun i => b (2 * i) + 256 * b (2 * i + 1)
    let signed := fun i => if b (i + 1) < 128 then ((b i + 256 * b (i + 1) : Nat) : Int) else (b i + 256 * b (i + 1) : Nat) - 65536
    let clip := fun x : Nat => x ≤ 127 ∨ x = 255
    let function := fun x : Nat => x ≤ 31 ∨ x = 255
    -- TRACTION
    (RangedAt 1 bs 0 (1 ≤ p 0 ∧ p 0 ≤ 2) ∧ RangedAt 1 bs 1 (p 1 = 5 ∨ p 1 = 10 ∨ p 1 = 20)
      ∧ RangedAt 1 bs 2 (p 2 ≤ 4095) ∧ RangedAt 1 bs 3 (p 3 ≤ 4095) ∧ RangedAt 1 bs 4 (p 4 ≤ 4095)
      ∧ RangedAt 1 bs 5 (p 5 ≤ 1023) ∧ RangedAt 1 bs 6 (p 6 ≤ 1023) ∧ RangedAt 1 bs 7 (p 7 ≤ 1023) ∧ RangedAt 1 bs 8 (p 8 ≤ 255)
      ∧ RangedAt 1 bs 9 (1 ≤ p 9 ∧ p 9 ≤ 1023) ∧ RangedAt 1 bs 10 (p 10 ≤ 1023)
      ∧ CheckedAt 1 bs 11 (p 11 ≤ 4095) (p 10 < p 11) .inconsistent ∧ CheckedAt 1 bs 12 (p 12 ≤ 4095) (p 11 ≤ p 12) .notMonotonic
      ∧ CheckedAt 1 bs 13 (p 13 ≤ 4095) (p 12 ≤ p 13) .notMonotonic
      ∧ RangedAt 1 bs 14 (p 14 ≤ 3) ∧ RangedAt 1 bs 15 (p 15 ≤ 63) ∧ RangedAt 1 bs 16 (p 16 ≤ 1)
      ∧ RangedAt 1 bs 17 (100 ≤ p 17 ∧ p 17 ≤ 1000 ∧ p 17 % 50 = 0) ∧ RangedAt 1 bs 18 (500 ≤ p 18 ∧ p 18 ≤ 8000 ∧ p 18 % 100 = 0)
      ∧ RangedAt 1 bs 19 (p 19 ≤ 1) ∧ CheckedAt 1 bs 20 (600 ≤ p 20 ∧ p 20 ≤ 8100 ∧ p 20 % 100 = 0) (p 18 < p 20) .inconsistent
      ∧ RangedAt 1 bs 21 (1 ≤ p 21 ∧ p 21 ≤ 255) ∧ RangedAt 1 bs 22 (p 22 ≤ 1) ∧ RangedAt 1 bs 23 (p 23 ≤ 1023)
      ∧ RangedAt 1 bs 24 (1 ≤ p 24 ∧ p 24 ≤ 32) ∧ RangedAt 1 bs 25 (p 25 ≤ 90))
    -- CURVE
    ∧ (RangedAt 2 bs 0 (p 0 ≤ 4095) ∧ ∀ k < 10, CheckedAt 2 bs (k + 1) (p (k + 1) ≤ 4095) (p k ≤ p (k + 1)) .notMonotonic)
    -- FUNCTIONS
    ∧ (∀ n < 32, RangedAt 3 bs (5 * n) (b (8 * n) ≤ 4) ∧ ∀ j < 4,
        let code := b (8 * n + 1 + j)
        RangedAt 3 bs (5 * n + 1 + j) (j < b (8 * n) → (1 ≤ code ∧ code ≤ 4) ∨ (0x10 ≤ code ∧ code ≤ 0x1F)))
    -- SOUND
    ∧ (RangedAt 4 bs 0 True ∧ RangedAt 4 bs 1 (clip (b 1)) ∧ RangedAt 4 bs 2 True ∧ RangedAt 4 bs 3 (clip (b 3))
      ∧ RangedAt 4 bs 4 (1 ≤ b 4 ∧ b 4 ≤ 7) ∧ RangedAt 4 bs 5 True ∧ RangedAt 4 bs 6 (p 3 ≤ 4095)
      ∧ CheckedAt 4 bs 7 (p 4 ≤ 4095) (p 3 ≤ p 4) .inconsistent
      ∧ (∀ k < 16, RangedAt 4 bs (8 + 4 * k) (clip (b (0x10 + 4 * k)))
          ∧ RangedAt 4 bs (9 + 4 * k) (1 ≤ b (0x11 + 4 * k) ∧ b (0x11 + 4 * k) ≤ 7) ∧ RangedAt 4 bs (10 + 4 * k) True
          ∧ RangedAt 4 bs (11 + 4 * k) (b (0x13 + 4 * k) ≤ 1))
      ∧ (∀ k < 8, RangedAt 4 bs (72 + k) True)
      ∧ ∀ j < 12, RangedAt 4 bs (80 + 9 * j) (b (0x60 + 16 * j) ≤ 8)
          ∧ ∀ i < 8, RangedAt 4 bs (81 + 9 * j + i) (i < b (0x60 + 16 * j) → b (0x61 + 16 * j + i) ≤ 127))
    -- CHUFF
    ∧ (RangedAt 5 bs 0 (p 0 ≤ 2) ∧ RangedAt 5 bs 1 (2 ≤ p 1 ∧ p 1 ≤ 15) ∧ RangedAt 5 bs 2 (p 2 ≤ 2)
      ∧ RangedAt 5 bs 3 (1 ≤ p 3 ∧ p 3 ≤ 16) ∧ RangedAt 5 bs 4 (p 4 ≤ 1023) ∧ RangedAt 5 bs 5 (100 ≤ p 5 ∧ p 5 ≤ 5000)
      ∧ RangedAt 5 bs 6 (1 ≤ p 6 ∧ p 6 ≤ 4095) ∧ RangedAt 5 bs 7 (p 7 = 2 ∨ p 7 = 4 ∨ p 7 = 6 ∨ p 7 = 8))
    -- SMOKE
    ∧ (RangedAt 6 bs 0 (p 0 ≤ 1) ∧ RangedAt 6 bs 1 (p 1 ≤ 300) ∧ CheckedAt 6 bs 2 (50 ≤ p 2 ∧ p 2 ≤ 350) (p 1 < p 2) .inconsistent
      ∧ CheckedAt 6 bs 3 (50 ≤ p 3 ∧ p 3 ≤ 350) (p 2 ≤ p 3) .inconsistent
      ∧ CheckedAt 6 bs 4 (60 ≤ p 4 ∧ p 4 ≤ 400) (p 3 < p 4) .inconsistent ∧ RangedAt 6 bs 5 (1 ≤ p 5 ∧ p 5 ≤ 255)
      ∧ RangedAt 6 bs 6 (1 ≤ p 6) ∧ RangedAt 6 bs 7 (p 7 ≤ 255) ∧ RangedAt 6 bs 8 (p 8 ≤ 255)
      ∧ RangedAt 6 bs 9 (20 ≤ p 9 ∧ p 9 ≤ 2000) ∧ RangedAt 6 bs 10 (p 10 ≤ 255)
      ∧ RangedAt 6 bs 11 (-32 ≤ signed 0x16 ∧ signed 0x16 ≤ 32)
      ∧ RangedAt 6 bs 12 (p 12 ≤ 1023) ∧ RangedAt 6 bs 13 (-40 ≤ signed 0x1A ∧ signed 0x1A ≤ 400)
      ∧ ∀ i < 15, CheckedAt 6 bs (14 + 2 * i) (p (14 + 2 * i) ≤ 1023) (p (14 + 2 * i) < p (12 + 2 * i)) .notMonotonic
          ∧ CheckedAt 6 bs (15 + 2 * i) (-40 ≤ signed (0x1E + 4 * i) ∧ signed (0x1E + 4 * i) ≤ 400)
            (signed (0x1A + 4 * i) < signed (0x1E + 4 * i)) .notMonotonic)
    -- LIGHTS
    ∧ (∀ k < 8,
        let x := fun j => b (16 * k + j)
        let pair := fun j => b (16 * x 7 + j)
        RangedAt 7 bs (9 * k) (function (x 0)) ∧ RangedAt 7 bs (9 * k + 1) (x 1 ≤ 2) ∧ RangedAt 7 bs (9 * k + 2) (x 2 ≤ 2)
        ∧ RangedAt 7 bs (9 * k + 3) (x 3 ≤ 5) ∧ RangedAt 7 bs (9 * k + 4) True ∧ RangedAt 7 bs (9 * k + 5) (function (x 5))
        ∧ RangedAt 7 bs (9 * k + 6) True
        ∧ CheckedAt 7 bs (9 * k + 7) ((x 3 = 1 → 2 ≤ x 7) ∧ (x 3 = 2 → x 7 ≤ 7))
          ((x 3 = 2 → x 7 ≠ k ∧ (k < x 7 → pair 3 = 2)
              ∧ (∀ j < k, b (16 * j + 3) = 2 → b (16 * j + 7) = k → j = x 7) ∧ (x 7 < k → pair 3 = 2 ∧ pair 7 = k))
            ∧ (x 3 = 3 ∨ x 3 = 5 → x 7 ≤ x 4)) .inconsistent
        ∧ CheckedAt 7 bs (9 * k + 8) ((x 3 = 1 → 1 ≤ x 8 ∧ x 8 ≤ 254) ∧ (x 3 = 2 → 2 ≤ x 8) ∧ (x 3 = 5 → 1 ≤ x 8))
          ((x 3 = 1 → x 8 < x 7) ∧ (x 3 = 2 → x 7 < k → pair 8 = x 8)) .inconsistent
        ∧ ((∀ c ∈ groupChecks 7 bs, c.2 = none) → x 3 = 2 → x 7 ≤ 7 ∧ x 7 ≠ k ∧ pair 3 = 2 ∧ pair 7 = k ∧ pair 8 = x 8))
    -- RADIO
    ∧ (RangedAt 8 bs 0 (1 ≤ p 0 ∧ p 0 ≤ 4095) ∧ RangedAt 8 bs 1 (p 1 ≤ 255) ∧ RangedAt 8 bs 2 (p 2 ≤ 1) ∧ RangedAt 8 bs 3 (p 3 ≤ 1)
      ∧ RangedAt 8 bs 4 (200 ≤ p 4 ∧ p 4 ≤ 10000 ∧ p 4 % 100 = 0)
      ∧ ∀ j < 4, CheckedAt 8 bs (5 + 2 * j) (p (5 + 2 * j) ≤ 65534)
            (p (5 + 2 * j) ≠ 0 → ∀ i < j, p (5 + 2 * i) ≠ p (5 + 2 * j)) .duplicate
          ∧ RangedAt 8 bs (6 + 2 * j) (p (5 + 2 * j) ≠ 0 → p (6 + 2 * j) ≤ 2))
    -- POWER
    ∧ (RangedAt 9 bs 0 (1000 ≤ p 0 ∧ p 0 ≤ 31500) ∧ CheckedAt 9 bs 1 (1000 ≤ p 1 ∧ p 1 ≤ 32000) (p 1 < p 0) .inconsistent
      ∧ CheckedAt 9 bs 2 (1000 ≤ p 2 ∧ p 2 ≤ 32000) (p 1 < p 2) .inconsistent ∧ RangedAt 9 bs 3 (2 ≤ p 3 ∧ p 3 ≤ 32)
      ∧ RangedAt 9 bs 4 (p 4 ≤ 5000) ∧ RangedAt 9 bs 5 (p 5 ≤ 32000) ∧ RangedAt 9 bs 6 (p 6 ≤ 1023)
      ∧ RangedAt 9 bs 7 (p 7 ≤ 255) ∧ RangedAt 9 bs 8 (p 8 ≤ 255) ∧ RangedAt 9 bs 9 (p 9 ≤ 255)
      ∧ RangedAt 9 bs 10 (p 10 ≤ 20000) ∧ RangedAt 9 bs 11 (p 11 ≤ 20000) ∧ RangedAt 9 bs 12 (100 ≤ p 12 ∧ p 12 ≤ 10000))


/-- Which bytes of a valid configuration group give which value: group by group each field of the values that the group makes active, with
every other group's values as before. A curve's points, the targets of a function (each once, in list order), the keys, the chuff volumes
and chuff sets, the thermistor points, the light programs with the parameters a and b that their effect reads, and the bind entries with a
nonzero ID, in their order, all lie where their chapters' tables place them (R27, R38, R64, R67, R96, R117, R145, R148, R171, R179).
That a target listed twice stands at its first place is the model's choice (log entry 43). -/
def Obligations.GroupValues : Prop :=
  ∀ (n : Nat) (bs : List Byte) (g g' : Groups), 1 ≤ n → n ≤ 9 → validateGroup n bs g = .valid g' →
    let b := fun i => (bs.getD i 0).toNat
    let p := fun i => b (2 * i) + 256 * b (2 * i + 1)
    let signed := fun i => if b (i + 1) < 128 then ((b i + 256 * b (i + 1) : Nat) : Int) else (b i + 256 * b (i + 1) : Nat) - 65536
    let style := fun (x : OffStyle) (i : Nat) => (p i = 0 → x = .coast) ∧ (p i = 1 → x = .brake)
    let orNone := fun (x : Option Nat) (i : Nat) => (b i = 255 → x = none) ∧ (b i ≠ 255 → x = some (b i))
    let code := fun (x : Target) => match x with
      | .smoke => 1
      | .shunt => 2
      | .momentumOff => 3
      | .mute => 4
      | .soundKey k => 0x10 + k
    (n = 1 → g' = { g with traction := g'.traction }
      ∧ g'.traction = {
          motors := p 0, treg := p 1, accel := p 2, decel := p 3, emergency := p 4, kc := p 5, kff := p 6, kp := p 7, ki := p 8,
          dmax := p 9, standstill := p 10, t1 := p 11, t2 := p 12, t3 := p 13, pwmFreq := p 14, deadTime := p 15,
          offStyle := g'.traction.offStyle, settle := p 17, limit := p 18, limitOff := g'.traction.limitOff, short := p 20,
          persist := p 21, polarity := g'.traction.polarity, slipThresh := p 23, slipTicks := p 24, slipCut := p 25 }
      ∧ style g'.traction.offStyle 16 ∧ style g'.traction.limitOff 19
      ∧ (p 22 = 0 → g'.traction.polarity = .low) ∧ (p 22 = 1 → g'.traction.polarity = .high))
    ∧ (n = 2 → g' = { g with curve := g'.curve } ∧ g'.curve.length = 11 ∧ ∀ k < 11, g'.curve.getD k 0 = p k)
    ∧ (n = 3 → g' = { g with map := g'.map } ∧ g'.map.length = 32 ∧ ∀ f < 32,
        let listed := (List.range (b (8 * f))).map fun j => b (8 * f + 1 + j)
        (g'.map.getD f []).map code = listed.eraseDups)
    ∧ (n = 4 → g' = { g with sound := g'.sound }
      ∧ g'.sound = { g'.sound with
          master := b 0, bgVolume := b 2, sqPriority := b 4, sqVolume := b 5, sqLow := p 3, sqHigh := p 4 }
      ∧ orNone g'.sound.bgClip 1 ∧ orNone g'.sound.sqClip 3
      ∧ g'.sound.keys.length = 16 ∧ g'.sound.chuffVolume.length = 8 ∧ g'.sound.sets.length = 12
      ∧ (∀ k < 16, let key := g'.sound.keys.getD k {}
          orNone key.clip (0x10 + 4 * k) ∧ key.priority = b (0x11 + 4 * k) ∧ key.volume = b (0x12 + 4 * k)
          ∧ (b (0x13 + 4 * k) = 0 → key.mode = .oneshot) ∧ (b (0x13 + 4 * k) = 1 → key.mode = .hold))
      ∧ (∀ l < 8, g'.sound.chuffVolume.getD l 0 = b (0x50 + l))
      ∧ ∀ j < 12, (g'.sound.sets.getD j []).length = b (0x60 + 16 * j)
          ∧ ∀ i < b (0x60 + 16 * j), (g'.sound.sets.getD j []).getD i 0 = b (0x61 + 16 * j + i))
    ∧ (n = 5 → g' = { g with chuff := g'.chuff }
      ∧ g'.chuff = { g'.chuff with qualifier := p 1, prescale := p 3, kcam := p 4, lostTime := p 5, moving := p 6, perCycle := p 7 }
      ∧ (p 0 = 0 → g'.chuff.mode = .sensor) ∧ (p 0 = 1 → g'.chuff.mode = .virtual) ∧ (p 0 = 2 → g'.chuff.mode = .auto)
      ∧ (p 2 = 0 → g'.chuff.edge = .rising) ∧ (p 2 = 1 → g'.chuff.edge = .falling) ∧ (p 2 = 2 → g'.chuff.edge = .both))
    ∧ (n = 6 → g' = { g with smoke := g'.smoke }
      ∧ g'.smoke = { g'.smoke with
          tWarm := p 1, tVapor := p 2, tSet := p 3, tMax := p 4, gain := p 5, capacity := p 6, idle := p 7, kick := p 8, puffMax := p 9,
          base := p 10, step := signed 0x16 }
      ∧ (g'.smoke.keepWarm = true ↔ p 0 = 1)
      ∧ g'.smoke.points.length = 16 ∧ ∀ i < 16, g'.smoke.points[i]? = some (p (12 + 2 * i), signed (0x1A + 4 * i)))
    ∧ (n = 7 → g' = { g with lights := g'.lights } ∧ ∀ k : Fin 8,
        let x := fun j => b (16 * k.val + j)
        let q := g'.lights.get k
        orNone q.binding (16 * k.val) ∧ q.level = x 4 ∧ orNone q.dim (16 * k.val + 5) ∧ q.dimLevel = x 6
        ∧ (x 1 = 0 → q.dirCond = .any) ∧ (x 1 = 1 → q.dirCond = .forward) ∧ (x 1 = 2 → q.dirCond = .reverse)
        ∧ (x 2 = 0 → q.motion = .any) ∧ (x 2 = 1 → q.motion = .standingOnly) ∧ (x 2 = 2 → q.motion = .movingOnly)
        ∧ (x 3 = 0 → q.effect = .steady) ∧ (x 3 = 1 → q.effect = .blink (x 7) (x 8))
        ∧ (x 3 = 2 → ∃ partner : Fin 8, partner.val = x 7 ∧ q.effect = .alternate partner (x 8))
        ∧ (x 3 = 3 → q.effect = .flicker (x 7)) ∧ (x 3 = 4 → q.effect = .fade (x 7) (x 8))
        ∧ (x 3 = 5 → q.effect = .chuffFlash (x 7) (x 8)))
    ∧ (n = 8 → g' = { g with radio := g'.radio } ∧ g'.radio = { g'.radio with unit := p 0, group := p 1, failsafe := p 4 }
      ∧ (g'.radio.groupReverse = true ↔ p 2 = 1) ∧ (g'.radio.hostLead = true ↔ p 3 = 1)
      ∧ g'.radio.binds.map (fun x => (x.1.toNat, match x.2 with | .drive => 0 | .functions => 1 | .stopOnly => 2))
        = ((List.range 4).filter fun j => decide (p (5 + 2 * j) ≠ 0)).map fun j => (p (5 + 2 * j), p (6 + 2 * j)))
    ∧ (n = 9 → g' = { g with power := {
        vLean := p 0, vOff := p 1, vOn := p 2, qualifier := p 3, holdTime := p 4, vhMin := p 5, holdDmax := p 6, leanCap := p 7,
        holdCap := p 8, holdLamp := p 9, budget := p 10, reserve := p 11, heaterNom := p 12 } })

/-- ADOPTION_GROUP_READ: a valid group before the last is held as pending values, and the next group is to be read (R8); a refused
group ends adoption in the state it began in, with the group, index and reason in the directory and CONFIG_RESULT latched, the
active settings and the drive unchanged, and HALTED not latched (R9).
Stated for no waiting request of a lower-numbered class while words are still to be read: GrantOrder puts those first.
The grants that are missing are given within the step (log entry 7, the model's choice), what the return to IDLE switches
off is read by inference (log entry 31), and the generation that an abandoned board write leaves is the model's choice (log
entry 40). -/
def Obligations.AdoptionGroupRead : Prop :=
  (∀ (s : State) (a : Adoption) (g : Groups), s.exc.adoption = some a → a.group ≠ 9 →
     s.lowerWaits = false ∨ s.adoptionWaits = false →
     validateGroup a.group (bytesOf (a.words ++ s.mem.readWords (groupBase a.group + 4 * a.words.length)
       (groupWords a.group - a.words.length))) a.values = .valid g →
     exec .adoptionGroupRead s = .next { s with exc := { s.exc with
       adoption := some { a with group := a.group + 1, words := [], values := g } } })
  ∧ ∀ (s : State) (a : Adoption) (index : Nat) (reason : GroupReason), s.mem.wf = true → s.scanQuiet →
    s.exc.adoption = some a → s.lowerWaits = false ∨ s.adoptionWaits = false →
    validateGroup a.group (bytesOf (a.words ++ s.mem.readWords (groupBase a.group + 4 * a.words.length)
      (groupWords a.group - a.words.length))) a.values = .refused index reason →
    ∃ t, exec .adoptionGroupRead s = .next t
      ∧ t = { s with exc := t.exc, mem := t.mem, snd := t.snd, rrx := t.rrx }
      ∧ t.exc.part = (if a.fromHalted then .halted else .idle) ∧ t.exc.adoption = none
      ∧ t.exc.nlat = s.exc.nlat ||| 1
      ∧ (a.fromHalted = true → t.snd = s.snd ∧ t.rrx = s.rrx ∧ t.exc.board = s.exc.board ∧ t.exc.boardGen = s.exc.boardGen)
      ∧ (a.fromHalted = false → t.rrx.link = false ∧ t.snd.modOn = false ∧ t.exc.board = none ∧ t.exc.boardHeld = false
          ∧ t.exc.boardGen = if s.exc.board.isSome then s.exc.boardGen + 1 else s.exc.boardGen)
      ∧ (∀ x, t.mem.read x = if x = 0x10 then BitVec.ofNat 8 t.exc.part.code else if x = 0x11 then 2
          else if x = 0x12 then BitVec.ofNat 8 a.group else if x = 0x13 then BitVec.ofNat 8 index
          else if x = 0x14 then BitVec.ofNat 8 reason.code else s.mem.read x)

/-- ADOPTION_GROUP_READ of a valid POWER group: RUNNING with the new values active, the millisecond count 0, function state clear,
traction STANDING with R = 0, the result ACCEPTED, and CONFIG_RESULT latched; the tallies and every other byte of exchange memory
are unchanged (R10). Both channels stand OFF with their counters at a period start, duty 0, direction FORWARD, no average, mark or count,
and slip NORMAL, the qualified DRVFLT level kept; the chuff clock stands in its source state, every voice is FREE, the caps are those of
the supply state, the smoke state is evaluated with the smoke enable off and a full tank, every output is off with its flicker generator
seeded, the repeat table is empty with no holder, no failsafe timer and no discard reason, the run counts are 0, and with the supply NORMAL
or LEAN the sound engine asks for the background clip. With DRVFLT active under the new polarity the part trips DRIVER at once. A hold-up
timer that runs keeps at most the new hold-up time, and one left with nothing expires at once: DARK, with SUPPLY_CHANGE latched, and a start
in progress refused when it is decided (R24, R36, R43, R60, R66, R78, R79, R84, R85, R113, R115, R127, R131, R133, R136, R144, R147, R155,
R156, R161, R163, R166, R175, R180).
Stated for no waiting request of a lower-numbered class while words are still to be read (GrantOrder).
That the directory's millisecond field is written 0 at once (log entry 13), and that the link and the frames in assembly are kept (log
entry 14), is the model's reading. -/
def Obligations.AdoptionAccepted : Prop :=
  ∀ (s : State) (a : Adoption) (g : Groups), s.mem.wf = true → s.exc.scan = none →
    s.exc.adoption = some a → a.group = 9 → s.lowerWaits = false ∨ s.adoptionWaits = false →
    validateGroup a.group (bytesOf (a.words ++ s.mem.readWords (groupBase a.group + 4 * a.words.length)
      (groupWords a.group - a.words.length))) a.values = .valid g →
    let faulty := s.bfu.drvflt = some g.traction.polarity
    let left := s.sup.holdup.map fun x => min x g.power.holdTime
    let supply := if left = some 0 then .dark else s.sup.state
    ∃ t, exec .adoptionGroupRead s = .next t
      ∧ t.exc = { s.exc with
          part := .running, ms := 0, adoption := none, chuffHeld := false,
          nlat := s.exc.nlat ||| 1 ||| (if left = some 0 then 0x2000 else 0) ||| (if faulty then 0x80 else 0) }
      ∧ t.cfg = g ∧ t.configured = true ∧ t.drq = {}
      ∧ t.srg = { regTimer := true, traction := if faulty then .tripped else .standing, r := 0 }
      ∧ t.bfu = {
          chans := PerMotor.both { mode := .off, pos := some 0, duty := 0, dir := .forward, avg := 0, cbcMark := false, persist := 0 },
          window := none, trip := if faulty then .driver else .none, drvflt := s.bfu.drvflt, slip := .normal, slipRun := 0,
          faster := none }
      ∧ t.chk = { source := match g.chuff.mode with | .virtual => .virtual | _ => .sensorLive }
      ∧ t.snd = { s.snd with
          voices := t.snd.voices, order := [], queue := t.snd.queue, master := g.sound.master, mute := false,
          cap := match supply with
            | .normal => 255
            | .lean => min g.power.leanCap 255
            | .holdup => min g.power.holdCap 255
            | .dark => 0,
          current := if left = some 0 then s.snd.current.map fun w => { w with doomed := true } else s.snd.current,
          squeal := .silent, squealCount := 0, squealDue := false }
      ∧ (∀ v, t.voice v = {})
      ∧ t.snd.queue = (match g.sound.bgClip with
        | none => []
        | some clip => if supply = .normal ∨ supply = .lean then
            [{ cls := .background, asker := .background, clip := clip, pitch := 256, volume := g.sound.bgVolume,
               priority := 0, tag := 0, loop := true }]
          else [])
      ∧ SmokeEvaluated { t with smk := { timer := true, temp := s.smk.temp, hlim := s.smk.hlim, fluid := g.smoke.capacity } } t
      ∧ t.lgt = {
          timer := true, lfsr := 0xACE1, lamps := t.lgt.lamps,
          cap := match supply with | .normal => 255 | .lean => 255 | .holdup => g.power.holdLamp | .dark => 0 }
      ∧ (∀ k, t.lgt.lamps.get k = {
          active := false, dimmed := false, phase := 0, fade := 0, flash := 0, program := 0, level := 0,
          pwm := (s.lgt.lamps.get k).pwm })
      ∧ t.rrx = { s.rrx with table := Octet.rep none, holder := none, failsafe := none, discard := .none }
      ∧ t.sup = { s.sup with
          state := supply, holdup := if left = some 0 then none else left, lean := 0, recover := 0, loss := 0, ret := 0,
          share := true }
      ∧ (∀ x, t.mem.read x = if x = 0x10 then 2 else if 0x0C ≤ x ∧ x ≤ 0x0F then 0 else if x = 0x11 then 1
          else if 0x12 ≤ x ∧ x ≤ 0x14 then 0 else s.mem.read x)


/-! ### The memory arbiter -/

/-- ARBITER_GRANT goes to the waiting request of the lowest class: the sound engine's next descriptor word, then the write the port
awaits, then the class 3 writers, and with none of them waiting the adoption reader's next word; with nothing waiting there is no
grant. When both class 3 writers wait, the board is served at the first such contention after a reset, and then the one that was not
granted last (R6). The inbox writer alone reads the seen tally with one grant, and writes each record word with one
of its own (R20). While a request of a lower-numbered class waits, the arbiter's next grant goes before a scan, a held scan, an
AT_CHUFF take, the rest of a configuration group, the rest of an inbox record, and a memory transaction (R6).
Which grants count for the alternation is the model's reading (log entry 10), and so is that what a step reads and writes comes after
every lower-numbered request that waits (log entry 41). -/
def Obligations.GrantOrder : Prop :=
  (∀ s : State,
     (∀ w, s.snd.current = some w → w.words.length < 4 →
       exec .arbiterGrant s = .next { s with snd := { s.snd with current := some { w with
         words := w.words ++ [s.mem.readWord (0x2000 + 16 * w.req.clip + 4 * w.words.length)] } } })
     ∧ (s.soundWaits = false →
       (∀ q, s.port.awaiting = some q →
         exec .arbiterGrant s = .next { s with mem := s.mem.writeCells q, port := { s.port with awaiting := none } })
       ∧ (s.port.awaiting = none → s.exc.board = none → s.inboxWaits = false →
         (∀ a, s.exc.adoption = some a → a.words.length < groupWords a.group →
           exec .arbiterGrant s = .next { s with exc := { s.exc with adoption := some { a with
             words := a.words ++ [s.mem.readWord (groupBase a.group + 4 * a.words.length)] } } })
         ∧ (s.adoptionWaits = false → exec .arbiterGrant s = .next s))))
  ∧ (∀ (s : State) (k : Nat), s.soundWaits = false → s.port.awaiting = none → s.exc.board = some k → s.inboxWaits = true →
    ∃ t, exec .arbiterGrant s = .next t
      ∧ (s.exc.class3Last ≠ some .board → t.exc.class3Last = some .board ∧ t.exc.board ≠ s.exc.board
          ∧ t.exc.inboxStep = s.exc.inboxStep ∧ t.exc.inboxQueue = s.exc.inboxQueue)
      ∧ (s.exc.class3Last = some .board → t.exc.class3Last = some .inbox ∧ t.exc.board = s.exc.board
          ∧ t.exc.inboxStep ≠ s.exc.inboxStep ∧ t.exc.inboxQueue = s.exc.inboxQueue)
      ∧ t = { s with exc := t.exc, mem := t.mem })
  ∧ (∀ (s : State) (j : InboxJob) (rest : List InboxJob), s.mem.wf = true → s.soundWaits = false → s.port.awaiting = none →
    s.exc.board = none → s.exc.inboxQueue = j :: rest →
    (s.exc.inboxStep.ahead = none → ∃ t, exec .arbiterGrant s = .next t
      ∧ t = { s with exc := { s.exc with inboxStep := t.exc.inboxStep, class3Last := t.exc.class3Last } }
      ∧ t.exc.inboxStep.words = s.exc.inboxStep.words
      ∧ t.exc.inboxStep.ahead = some ((s.exc.inboxPut.toNat + 65536 - s.mem.readLe 0x0A 2) % 65536))
    ∧ (∀ k, s.exc.inboxStep.ahead = some k → k < 32 → s.exc.inboxStep.words < 8 →
      let a := 0xC00 + 32 * (s.exc.inboxPut.toNat % 32) + 4 * s.exc.inboxStep.words
      ∃ t, exec .arbiterGrant s = .next t
        ∧ t = { s with
            exc := { s.exc with inboxStep := ⟨some k, s.exc.inboxStep.words + 1⟩, class3Last := t.exc.class3Last }, mem := t.mem }
        ∧ (∀ i < 4, t.mem.read (a + i) = j.record.bytes.getD (4 * s.exc.inboxStep.words + i) 0)
        ∧ ∀ x, x < a ∨ a + 4 ≤ x → t.mem.read x = s.mem.read x))
  ∧ ∀ s : State, ∃ t, exec .arbiterGrant s = .next t
    ∧ (s.lowerWaits = true →
        (s.exc.part ≠ .idle → exec .scanTimer s = exec .scanTimer t)
        ∧ (s.exc.scanHeld = true → s.exc.scan = none → exec .scanWorkDeferred s = exec .scanWorkDeferred t)
        ∧ (s.exc.chuffHeld = true → s.exc.scan = none → s.exc.part = .running →
            exec .atChuffSlotTake s = exec .atChuffSlotTake t)
        ∧ (s.adoptionWaits = true → exec .adoptionGroupRead s = exec .adoptionGroupRead t))
    ∧ (s.inboxWaits = true → exec .inboxWrite s = exec .inboxWrite t)
    ∧ (s.soundWaits = true →
        (∀ lanes addr n late, 0 < n → exec (.readMemory lanes addr n late) s = exec (.readMemory lanes addr n late) t)
        ∧ ∀ lanes addr data tail delays, data ≠ [] ∨ s.port.awaiting ≠ none → s.exc.clearing = false →
            exec (.writeMemory lanes addr data tail delays) s = exec (.writeMemory lanes addr data tail delays) t)

/-- BOARD_TIMER and BOARD_WRITE_DEFERRED: a write begins by adding one to the generation; while one is in progress a further one
waits, and begins when that has ended; in IDLE there is none. ARBITER_GRANT to the status board writer alone: the odd generation first,
then each of the words 1 to 255 with its fields as they stand at this grant, those of motor B 0 with one motor, bytes without a field 0,
and last the even generation; no other byte changes (R21).
That the generation is counted at the timer, before the first grant writes it, and that each of the 256 words, with a field or without,
takes one grant of its own and the generation a second one, is the model's reading (log entry 22). -/
def Obligations.BoardWrites : Prop :=
  (∀ s : State,
     (s.exc.part = .idle → exec .boardTimer s = .next s)
     ∧ (s.exc.part ≠ .idle → s.exc.board = none →
       exec .boardTimer s = .next { s with exc := { s.exc with boardGen := s.exc.boardGen + 1, board := some 0 } })
     ∧ (s.exc.part ≠ .idle → s.exc.board ≠ none → exec .boardTimer s = .next { s with exc := { s.exc with boardHeld := true } })
     ∧ (s.exc.boardHeld = true → s.exc.board = none → exec .boardWriteDeferred s = .next { s with exc := { s.exc with
         boardGen := s.exc.boardGen + 1, board := some 0, boardHeld := false } })
     ∧ (s.exc.boardHeld = true → s.exc.board ≠ none → exec .boardWriteDeferred s = .next s))
  ∧ ∀ (s : State) (k : Nat), s.mem.wf = true → s.soundWaits = false → s.port.awaiting = none → s.inboxWaits = false →
    s.exc.board = some k →
    let byte := fun n : Nat => BitVec.ofNat 8 n
    let ofB := fun n : Nat => if 2 ≤ s.cfg.traction.motors then n % 65536 else 0
    ∃ t, exec .arbiterGrant s = .next t ∧ t = { s with exc := t.exc, mem := t.mem }
      ∧ t.exc = { s.exc with
          board := if 256 ≤ k then none else some (k + 1), boardGen := if 256 ≤ k then s.exc.boardGen + 1 else s.exc.boardGen,
          class3Last := t.exc.class3Last }
      ∧ (k = 0 ∨ 256 ≤ k → t.mem.readLe 0x100 4 = t.exc.boardGen.toNat
          ∧ ∀ a, a < 0x100 ∨ 0x104 ≤ a → t.mem.read a = s.mem.read a)
      ∧ (0 < k → k < 256 → ∀ a, a < 0x100 + 4 * k ∨ 0x104 + 4 * k ≤ a → t.mem.read a = s.mem.read a)
      ∧ (k = 1 → t.mem.readLe 0x104 4 = s.exc.part.code + 2 ^ 8 * s.srg.traction.code
          + 2 ^ 16 * directionCode s.srg.bridgeDir + 2 ^ 24 * s.drq.source.code)
      ∧ (k = 2 → t.mem.readLe 0x108 2 = s.drq.s % 65536 ∧ t.mem.readLe 0x10A 2 = s.srg.r % 65536)
      ∧ (k = 3 → t.mem.readLe 0x10C 2 = s.srg.motors.a.vf % 65536 ∧ t.mem.readLe 0x10E 2 = ofB s.srg.motors.b.vf)
      ∧ (k = 4 → t.mem.readLe 0x110 2 = s.srg.motors.a.d % 65536 ∧ t.mem.readLe 0x112 2 = ofB s.srg.motors.b.d)
      ∧ (k = 5 → t.mem.readLe 0x114 2 = s.bfu.chans.a.avg % 65536 ∧ t.mem.readLe 0x116 2 = ofB s.bfu.chans.b.avg)
      ∧ (k = 6 → t.mem.read 0x118 = byte s.srg.labour ∧ t.mem.read 0x119 = byte s.srg.band
          ∧ t.mem.read 0x11A = byte s.bfu.trip.code ∧ t.mem.read 0x11B = byte s.bfu.slip.code)
      ∧ (k = 8 → t.mem.read 0x120 = byte s.chk.source.code ∧ t.mem.readLe 0x121 3 = 0)
      ∧ (k = 9 → t.mem.readLe 0x124 4 = s.chk.count.toNat)
      ∧ (k = 10 → t.mem.readLe 0x128 4 = s.chk.lastSensor % 2 ^ 32)
      ∧ (k = 11 → t.mem.readLe 0x12C 2 = s.chk.lastChuff % 65536 ∧ t.mem.readLe 0x12E 2 = 0)
      ∧ (k = 12 → t.mem.read 0x130 = byte s.sup.state.code ∧ t.mem.read 0x131 = 0 ∧ t.mem.readLe 0x132 2 = s.sup.vs % 65536)
      ∧ (k = 13 → t.mem.readLe 0x134 2 = s.sup.vh % 65536 ∧ t.mem.readLe 0x136 2 = s.sup.holdup.getD 0 % 65536)
      ∧ (k = 14 → t.mem.read 0x138 = byte s.sup.hlim ∧ t.mem.readLe 0x139 3 = 0)
      ∧ (k = 16 → t.mem.read 0x140 = byte s.smk.state.code ∧ t.mem.read 0x141 = byte s.smk.heater
          ∧ t.mem.readLe 0x142 2 = (s.smk.temp % 65536).toNat)
      ∧ (k = 17 → t.mem.read 0x144 = byte s.smk.fan ∧ t.mem.read 0x145 = 0 ∧ t.mem.readLe 0x146 2 = s.smk.fluid % 65536)
      ∧ (∀ i : Fin 8, k = 20 + i.val / 4 → t.mem.read (0x150 + i.val) = byte (s.lgt.lamps.get i).level)
      ∧ (∀ i : Fin 8,
          (k = 24 + 2 * i.val → t.mem.read (0x160 + 8 * i.val) = byte (s.voice i).state.code
            ∧ t.mem.read (0x161 + 8 * i.val) = byte (s.voice i).clip ∧ t.mem.read (0x162 + 8 * i.val) = byte (s.voice i).priority
            ∧ t.mem.read (0x163 + 8 * i.val) = byte (s.voice i).volume)
          ∧ (k = 25 + 2 * i.val → t.mem.readLe (0x164 + 8 * i.val) 2 = (s.voice i).tag.toNat
            ∧ t.mem.readLe (0x166 + 8 * i.val) 2 = (s.voice i).pitch % 65536)
          ∧ (k = 40 + i.val → t.mem.readLe (0x1A0 + 4 * i.val) 2 = (s.snd.endList.get i).tag.toNat
            ∧ t.mem.read (0x1A2 + 4 * i.val) = byte (s.snd.endList.get i).reason.code
            ∧ t.mem.read (0x1A3 + 4 * i.val) = byte (s.snd.endList.get i).voice))
      ∧ (k = 48 → t.mem.readLe 0x1C0 4 = s.snd.endCount.toNat)
      ∧ (k = 49 → t.mem.read 0x1C4 = byte s.snd.master ∧ t.mem.read 0x1C5 = byte s.snd.cap ∧ t.mem.readLe 0x1C6 2 = 0)
      ∧ (k = 52 → (s.rrx.holder = none → t.mem.readLe 0x1D0 4 = 0)
          ∧ ∀ h, s.rrx.holder = some h → t.mem.readLe 0x1D0 2 = h.id.toNat
            ∧ t.mem.readLe 0x1D2 2 = min 65535 (s.exc.ms - h.heard).toNat)
      ∧ (k = 53 → t.mem.read 0x1D4 = s.rrx.signal ∧ t.mem.read 0x1D5 = byte s.rrx.discard.code ∧ t.mem.readLe 0x1D6 2 = 0)
      ∧ (k = 56 → t.mem.readLe 0x1E0 4 = s.drq.functions.toNat)
      ∧ (k = 7 ∨ k = 15 ∨ k = 18 ∨ k = 19 ∨ k = 22 ∨ k = 23 ∨ k = 50 ∨ k = 51 ∨ k = 54 ∨ k = 55 ∨ (57 ≤ k ∧ k < 256) →
          t.mem.readLe (0x100 + 4 * k) 4 = 0)

/-! ### Scans -/

/-- SCAN_TIMER with nothing to take: in IDLE nothing happens; in every other state the millisecond count advances by one and is
written to the directory, and what counts in ms moves on by one (the remaining times of timers move at this timer by the model's
choice, log entry 11). While scan work waits for a start's outcome the expiry's work is held, and SCAN_WORK_DEFERRED starts it once
no work is in progress; an expiry that finds no work in progress does what held work does after its count (R14, R119). Stated for no
waiting request of a lower-numbered class, which GrantOrder puts first. -/
def Obligations.QuietAndHeldScans : Prop :=
  (∀ s : State, s.mem.wf = true → s.exc.scan = none →
     (s.exc.part = .idle → exec .scanTimer s = .next s)
     ∧ (s.exc.part ≠ .idle → s.lowerWaits = false → s.nothingToTake →
       ∃ t, exec .scanTimer s = .next t
         ∧ t = { s with
             exc := { s.exc with ms := s.exc.ms + 1 }, mem := t.mem,
             chk := { s.chk with
               interval := if s.exc.part = .running ∨ s.exc.part = .stopping then min 65535 (s.chk.interval + 1) else s.chk.interval,
               lostTimer := s.chk.lostTimer.map (· - 1) },
             srg := { s.srg with turnTimer := s.srg.turnTimer.map (· - 1) },
             rrx := { s.rrx with failsafe := s.rrx.failsafe.map (· - 1) } }
         ∧ ∀ a, t.mem.read a = if 0x0C ≤ a ∧ a ≤ 0x0F then msByte (s.exc.ms + 1) a else s.mem.read a))
  ∧ (∀ s : State, s.mem.wf = true → s.lowerWaits = false →
    (∀ w, s.exc.scan = some w → w.outcome = none → s.exc.part ≠ .idle →
      ∃ t, exec .scanTimer s = .next t
        ∧ t = { s.countMs with exc := { s.exc with ms := s.exc.ms + 1, scanHeld := true }, mem := t.mem }
        ∧ ∀ a, t.mem.read a = if 0x0C ≤ a ∧ a ≤ 0x0F then msByte (s.exc.ms + 1) a else s.mem.read a)
    ∧ (s.exc.scanHeld = true → s.exc.scan = none → s.nothingToTake →
      exec .scanWorkDeferred s = .next { s with exc := { s.exc with scanHeld := false } }))
  ∧ ∀ s : State, s.mem.wf = true → s.lowerWaits = false → s.exc.part ≠ .idle → s.exc.scan = none → s.exc.scanHeld = false →
    ∃ m : Memory, (∀ a, m.read a = if 0x0C ≤ a ∧ a ≤ 0x0F then msByte (s.exc.ms + 1) a else s.mem.read a) ∧ m.wf = true
      ∧ exec .scanTimer s
        = exec .scanWorkDeferred { s.countMs with exc := { s.exc with ms := s.exc.ms + 1, scanHeld := true }, mem := m }

/-- SCAN_TIMER in RUNNING with a valid setpoint posted IMMEDIATE, or posted AT_STANDSTILL while traction is STANDING: DRQ receives form,
value and direction, with 4095 su and throttle 200 as clamps, S derived through the curve and SHUNT; the tally is the last taken one,
the slot state TAKEN, SLOT_TAKEN latched. In E_HELD and TRIPPED the request is stored, and a zero request is a latch clear as well: traction
STANDING, the brake order withdrawn, the trip reason none, or tripped again with DRVFLT still active (R15, R16, R25, R28, R34, R59, R80).
What counts in ms moves on at this timer (log entry 11, the model's choice). Stated for no waiting request of a lower-numbered class,
which GrantOrder puts first. -/
def Obligations.ScanTakesSetpoint : Prop :=
  ∀ (s : State) (x : Slot), s.mem.wf = true → s.exc.scan = none → s.lowerWaits = false → s.exc.part = .running →
    s.mem.slotHolds x → x.tally ≠ s.exc.lastTaken → x.emergency = 0 →
    x.moment = 0 ∨ (x.moment = 1 ∧ s.srg.traction = .standing) → x.form ≤ 1 → x.direction ≤ 2 →
    s.mem.readLe 0x04 2 = s.exc.cueTake.toNat →
    ∃ t, exec .scanTimer s = .next t
      ∧ RequestTaken { s.countMs with
          exc := { s.exc with
            ms := s.exc.ms + 1, lastTaken := x.tally, slotState := .taken, slotMoment := BitVec.ofNat 8 x.moment, slotEmergency := 0,
            nlat := s.exc.nlat ||| 2 },
          mem := t.mem,
          drq := { s.drq with
            source := .host, origin := if x.form = 0 then .speedUnits (min x.value 4095) else .throttle (min x.value 200),
            dir := if x.direction = 0 then .forward else if x.direction = 1 then .reverse else s.drq.dir,
            s := (if x.form = 0 then min x.value 4095 else curveValue s.cfg.curve (min x.value 200))
              / (if s.drq.shunt then 2 else 1) } } t
      ∧ ∀ a, t.mem.read a = if 0x0C ≤ a ∧ a ≤ 0x0F then msByte (s.exc.ms + 1) a
          else if a = 0x15 then x.tally else if a = 0x16 then 2 else s.mem.read a

/-- SCAN_TIMER in RUNNING or STOPPING with ESTOP in the slot's emergency field: whatever the rest of the slot holds, the request is zeroed,
STANDING, MOVING and TURNING become E_BRAKE with R, D and the integrals unchanged and a turn's timer stopped, E_BRAKE, E_HELD and TRIPPED
stay, and ESTOP is latched. A post whose emergency is above 1, or whose take moment is above 3, is refused with nothing handed on, and in
RUNNING so is one to be taken now whose form is above 1 or whose direction is above 2. SLOT_TAKEN is latched either way (R15, R16, R33,
R57). What counts in ms moves on at this timer (log entry 11, the model's choice).
Stated for no waiting request of a lower-numbered class, which GrantOrder puts first. -/
def Obligations.ScanTakesEmergency : Prop :=
  ∀ (s : State) (x : Slot), s.mem.wf = true → s.exc.scan = none → s.lowerWaits = false → s.exc.part.driving = true →
    s.mem.slotHolds x → x.tally ≠ s.exc.lastTaken → s.mem.readLe 0x04 2 = s.exc.cueTake.toNat →
    let now := s.exc.part = .running ∧ (x.moment = 0 ∨ (x.moment = 1 ∧ s.srg.traction = .standing))
    let taken := fun (state : SlotState) => { s.exc with
      ms := s.exc.ms + 1, lastTaken := x.tally, slotState := state, slotMoment := BitVec.ofNat 8 x.moment,
      slotEmergency := BitVec.ofNat 8 x.emergency, nlat := s.exc.nlat ||| 2 }
    (x.emergency = 1 → ∃ t, exec .scanTimer s = .next t
      ∧ EmergencyTaken { s.countMs with exc := taken .taken, mem := t.mem } t
      ∧ ∀ a, t.mem.read a = if 0x0C ≤ a ∧ a ≤ 0x0F then msByte (s.exc.ms + 1) a
          else if a = 0x15 then x.tally else if a = 0x16 then 2 else s.mem.read a)
    ∧ (1 < x.emergency ∨ (x.emergency = 0 ∧ 3 < x.moment) ∨ (x.emergency = 0 ∧ now ∧ (1 < x.form ∨ 2 < x.direction)) →
      ∃ t, exec .scanTimer s = .next t ∧ t = { s.countMs with exc := taken .refused, mem := t.mem }
      ∧ ∀ a, t.mem.read a = if 0x0C ≤ a ∧ a ≤ 0x0F then msByte (s.exc.ms + 1) a
          else if a = 0x15 then x.tally else if a = 0x16 then 3 else s.mem.read a)

/-- SCAN_TIMER in RUNNING or STOPPING with a post that is not to be taken at this scan: HELD, AT_CHUFF, AT_STANDSTILL while traction is not
STANDING, and in STOPPING any take moment. The slot state is PENDING, the take moment is kept for a chuff event, and nothing is taken,
handed on or latched. A post withdrawn while it was pending makes the slot state EMPTY (R15). What counts in ms moves on at this timer
(log entry 11, the model's choice). Stated for no waiting request of a lower-numbered class, which GrantOrder puts first. -/
def Obligations.PostsStayPending : Prop :=
  ∀ (s : State) (x : Slot), s.mem.wf = true → s.exc.scan = none → s.lowerWaits = false → s.exc.part.driving = true →
    s.mem.slotHolds x → s.mem.readLe 0x04 2 = s.exc.cueTake.toNat →
    (x.tally ≠ s.exc.lastTaken → x.emergency = 0 → x.moment ≤ 3 →
      s.exc.part = .stopping ∨ x.moment = 3 ∨ x.moment = 2 ∨ (x.moment = 1 ∧ s.srg.traction ≠ .standing) →
      ∃ t, exec .scanTimer s = .next t
        ∧ t = { s.countMs with
            exc := { s.exc with
              ms := s.exc.ms + 1, slotState := .pending, slotMoment := BitVec.ofNat 8 x.moment, slotEmergency := 0 },
            mem := t.mem }
        ∧ ∀ a, t.mem.read a = if 0x0C ≤ a ∧ a ≤ 0x0F then msByte (s.exc.ms + 1) a
            else if a = 0x16 ∧ s.exc.slotState ≠ .pending then 1 else s.mem.read a)
    ∧ (x.tally = s.exc.lastTaken → s.exc.slotState = .pending →
      ∃ t, exec .scanTimer s = .next t
        ∧ t = { s.countMs with exc := { s.exc with ms := s.exc.ms + 1, slotState := .empty }, mem := t.mem }
        ∧ ∀ a, t.mem.read a = if 0x0C ≤ a ∧ a ≤ 0x0F then msByte (s.exc.ms + 1) a
            else if a = 0x16 then 0 else s.mem.read a)

/-- A scan in HALTED or RUNNING that finds more than 64 records between the tallies, at the scan timer or held back, whatever it makes of
the drive slot: the take tally becomes the append tally as read, STRIP_OVERRUN is latched, and no record is taken, applied or written
back (R18).
Stated for no waiting request of a lower-numbered class, which GrantOrder puts first. -/
def Obligations.StripOverrun : Prop :=
  ∀ (c : Instr) (s : State), c = .scanTimer ∨ (c = .scanWorkDeferred ∧ s.exc.scanHeld = true) →
    s.mem.wf = true → s.exc.scan = none → s.lowerWaits = false → s.exc.part.takesCues = true →
    64 < (s.mem.readLe 0x04 2 + 65536 - s.exc.cueTake.toNat) % 65536 →
    ∃ t, exec c s = .next t
      ∧ t.exc.cueTake = BitVec.ofNat 16 (s.mem.readLe 0x04 2) ∧ t.mem.readLe 0x06 2 = s.mem.readLe 0x04 2
      ∧ t.exc.nlat.getLsbD 3 = true ∧ t.exc.scan = none ∧ t.exc.part = s.exc.part
      ∧ t.snd = s.snd ∧ t.drq.functions = s.drq.functions ∧ t.cfg = s.cfg ∧ t.smk.fluid = s.smk.fluid
      ∧ ∀ a, ¬ (0x0C ≤ a ∧ a ≤ 0x0F) → a ≠ 0x06 → a ≠ 0x07 → a ≠ 0x15 → a ≠ 0x16 → t.mem.read a = s.mem.read a

/-- Held scan work that finds one cue: a record that is not POSTED, or of an unknown kind, or in HALTED of any kind but RELOAD and
REFILL, is refused. In RUNNING: PLAY is refused BAD_TAG, BAD_PARAM or NO_VOICE, or queues a POOL start, for whose outcome the scan
waits; RELEASE of a tag turns its LOOPING voice RELEASED and marks its waiting starts; STOP ends its voice CUT and withdraws its
waiting starts; MASTER_VOLUME sets the master volume; FUNCTION is a function operation (FunctionOperations). REFILL in either state
sets the fluid, and evaluates the smoke state if it has changed. A record is written back with its reason, and a refusal latched
(R14, R17, R37, R101, R108, R109, R118, R119, R120, R121, R122, R140).
A whole scan, at the scan timer, that takes one MASTER_VOLUME cue is written out in full. What counts in ms moves on at this timer (log
entry 11, the model's choice), and no request of a lower-numbered class waits, which GrantOrder puts first.
The squeal after a STOP of its tag is read by inference (log entry 15), which of two waiting squeal starts counts is the model's choice (log
entry 50), and its voice ends before its waiting start is withdrawn by the
model's choice (log entry 46). -/
def Obligations.CueKinds : Prop :=
  (∀ (s : State) (v : Nat), s.mem.wf = true → s.exc.scan = none → s.lowerWaits = false → s.exc.part.takesCues = true →
     (s.exc.part = .running → s.mem.read 0x500 = s.exc.lastTaken ∧ s.exc.slotState ≠ .pending) →
     s.mem.readLe 0x04 2 = (s.exc.cueTake.toNat + 1) % 65536 →
     let base := 0x800 + 16 * (s.exc.cueTake.toNat % 64)
     s.mem.read base = 1 → s.mem.read (base + 1) = 4 → s.mem.readLe (base + 6) 2 = v →
     let reason : Nat := if s.exc.part = .halted then 3 else if 255 < v then 7 else 0
     ∃ t, exec .scanTimer s = .next t
       ∧ t = { s.countMs with exc := t.exc, mem := t.mem, snd := { s.snd with master := if reason = 0 then v else s.snd.master } }
       ∧ t.exc = { s.exc with
           ms := s.exc.ms + 1, cueTake := s.exc.cueTake + 1, nlat := if reason = 0 then s.exc.nlat else s.exc.nlat ||| 4 }
       ∧ t.mem.readLe 0x06 2 = (s.exc.cueTake.toNat + 1) % 65536
       ∧ t.mem.read base = (if reason = 0 then 2 else 3) ∧ t.mem.read (base + 1) = 4
       ∧ t.mem.read (base + 2) = BitVec.ofNat 8 reason ∧ t.mem.read (base + 3) = 0
       ∧ ∀ a, ¬ (0x0C ≤ a ∧ a ≤ 0x0F) → a ≠ 0x06 → a ≠ 0x07 → (a < base ∨ base + 4 ≤ a) → t.mem.read a = s.mem.read a)
  ∧ ∀ (s : State) (r : List Byte), s.CueReady r → s.tagsOk →
    let byte := fun i => (r.getD i 0).toNat
    let half := fun i => byte i + 256 * byte (i + 1)
    let kind := byte 1
    let tag := half 4
    let hasTag := 1 ≤ tag ∧ tag ≤ 0x8010
    let named := fun x : Half => x.toNat = tag
    let outcome := exec .scanWorkDeferred s
    let refused := fun reason : Nat => ∃ t, outcome = .next t ∧ t = { s with exc := s.cueExc 4, mem := t.mem }
      ∧ CueWritten s t r reason s.mem.read
    (byte 0 ≠ 1 → refused 1)
    ∧ (byte 0 = 1 → kind = 0 ∨ 7 < kind → refused 2)
    ∧ (byte 0 = 1 → s.exc.part = .halted → 1 ≤ kind → kind ≤ 5 → refused 3)
    ∧ (byte 0 = 1 → kind = 7 →
      let fluid := if half 6 = 0 then s.cfg.smoke.capacity else min s.cfg.smoke.capacity (s.smk.fluid + half 6)
      ∃ t, outcome = .next t ∧ CueWritten s t r 0 s.mem.read
        ∧ t = { s with exc := s.cueExc 0, mem := t.mem, smk := if fluid = s.smk.fluid then s.smk
          else ({ s with smk := { s.smk with fluid := fluid } }.evalSmoke).smk })
    ∧ (byte 0 = 1 → s.exc.part = .running →
      (kind = 1 →
        let inRange := byte 6 ≤ 127 ∧ byte 7 ≤ 7 ∧ byte 9 ≤ 1 ∧ 1 ≤ half 0x0A ∧ half 0x0A ≤ 1023
        (0x7FFF < tag → refused 8) ∧ (tag ≤ 0x7FFF → ¬ inRange → refused 7)
        ∧ (tag ≤ 0x7FFF → inRange → 32 ≤ s.snd.queue.length → refused 9)
        ∧ (tag ≤ 0x7FFF → inRange → s.snd.queue.length < 32 → outcome = .next { s with
            exc := { s.exc with scanHeld := false, scan := some ⟨1, 0, none⟩ },
            snd := { s.snd with queue := s.snd.queue ++
              [{ cls := .pool, asker := .playCue, clip := byte 6, pitch := half 0x0A, volume := byte 8, priority := byte 7,
                 tag := BitVec.ofNat 16 tag, loop := byte 9 == 1 }] } }))
      ∧ (kind = 2 ∨ kind = 3 → ¬ hasTag → refused 8)
      ∧ (kind = 2 → hasTag → ∃ t, outcome = .next t ∧ CueWritten s t r 0 s.mem.read
          ∧ t = { s with exc := s.cueExc 0, mem := t.mem, snd := t.snd }
          ∧ t.snd = { s.snd with voices := t.snd.voices, queue := t.snd.queue, current := t.snd.current }
          ∧ (∀ v, ((s.voice v).state = .looping ∧ named (s.voice v).tag → t.voice v = { s.voice v with state := .released })
              ∧ (¬ ((s.voice v).state = .looping ∧ named (s.voice v).tag) → t.voice v = s.voice v))
          ∧ t.snd.queue = s.snd.queue.map (fun q => { q with mark := q.mark || decide (named q.tag) })
          ∧ t.snd.current = s.snd.current.map fun w => { w with req := { w.req with mark := w.req.mark || decide (named w.req.tag) } })
      ∧ (kind = 3 → hasTag → ∃ t notices, outcome = .next t ∧ CueWritten s t r 0 s.mem.read
          ∧ t = { s with exc := s.cueExc notices, mem := t.mem, snd := t.snd }
          ∧ t.snd = { s.snd with
              voices := t.snd.voices, order := t.snd.order, queue := s.snd.queue.filter fun q => decide (¬ named q.tag),
              endList := t.snd.endList, endCount := t.snd.endCount, squeal := t.snd.squeal }
          ∧ ((∀ v, (s.voice v).active = true → ¬ named (s.voice v).tag) → notices = 0 ∧ t.snd.voices = s.snd.voices
              ∧ t.snd.order = s.snd.order ∧ t.snd.endList = s.snd.endList ∧ t.snd.endCount = s.snd.endCount
              ∧ t.snd.squeal = if (s.snd.squeal = .sounding ∧ ∃ q ∈ s.snd.queue, q.asker = .squeal ∧ named q.tag) then .silent
                else s.snd.squeal)
          ∧ (∀ v, (s.voice v).active = true → named (s.voice v).tag → notices = 0x10 ∧ t.snd.voices = s.snd.voices.set v {}
              ∧ t.snd.order = s.snd.order.erase v ∧ t.snd.endCount = s.snd.endCount + 1
              ∧ t.snd.endList = s.snd.endList.set (Fin.ofNat 8 (s.snd.endCount.toNat % 8)) ⟨(s.voice v).tag, .cut, v.val⟩
              ∧ ((∀ q ∈ s.snd.queue, q.asker = .squeal → q.tag = 0x8010) →
                t.snd.squeal = if s.snd.squeal = .sounding ∧ tag = 0x8010 then .spent else s.snd.squeal)))
      ∧ (kind = 4 → (255 < half 6 → refused 7)
          ∧ (half 6 ≤ 255 → ∃ t, outcome = .next t ∧ CueWritten s t r 0 s.mem.read
            ∧ t = { s with exc := s.cueExc 0, mem := t.mem, snd := { s.snd with master := half 6 } }))
      ∧ (kind = 5 → (byte 6 = 0 ∨ 3 < byte 6 → refused 7)
          ∧ ∀ (op : FunctionOp) (mask : BitVec 32), byte 6 = (match op with | .set => 1 | .clear => 2 | .toggle => 3) →
            mask.toNat = half 8 + 2 ^ 16 * half 0x0A →
            ∃ t, outcome = .next t ∧ CueWritten s t r 0 s.mem.read
              ∧ t = { s.functionOp op mask with exc := s.cueExc 0, mem := t.mem }))

/-- Held scan work that finds one RELOAD cue: BAD_GROUP for a group number outside 1 to 9, NOT_STANDING for TRACTION, CURVE and CHUFF
unless traction is STANDING, BAD_CONFIG with the directory's result for a group that its block refuses (GroupChecks), and otherwise the
group's values are active at once, the part and every other group's values as before (GroupValues), with the directory's result ACCEPTED and
CONFIG_RESULT latched. What each block then does: TRACTION, integrals and persistence counts 0, the counters restarted, a removed
motor's duty 0 and its bridge off; CURVE, S derived again; FUNCTIONS, the levels but no key events; SOUND, the master volume and the
background; CHUFF, the source state, the prescale and the timers; SMOKE, the latches cleared, the fluid limited, the state evaluated and
the idle duty taken; LIGHTS, phases and what the new effect does not use cleared; RADIO, the holder freed; POWER, the run counts 0 and a
running hold-up timer limited. A TRACTION polarity that makes DRVFLT active in RUNNING with no trip reason trips DRIVER. Under a new
function map each of the four levels is on exactly while a set function binds it; a changed SHUNT derives S again, a changed smoke enable
evaluates the smoke state, and a changed mute forms the volume cap. A hold-up time that leaves the hold-up timer nothing expires it at
once, as HOLDUP_TIMER_EXPIRY does (R17, R19, R25, R27, R39, R41, R60, R65, R78, R79, R84, R97, R113, R127, R132, R136, R146, R157, R172,
R175, R180).
The background at a RELOAD of SOUND is read by inference (log entry 17), and a float window stays open at a RELOAD of TRACTION by the
model's choice (log entry 44). -/
def Obligations.Reloads : Prop :=
  ∀ (s : State) (r : List Byte), s.CueReady r → r.getD 0 0 = 1 → r.getD 1 0 = 6 →
    let n := (r.getD 6 0).toNat
    let ok := (n = 1 ∨ n = 2 ∨ n = 5) → s.srg.traction = .standing
    let outcome := exec .scanWorkDeferred s
    let refused := fun reason : Nat => ∃ t, outcome = .next t ∧ t = { s with exc := s.cueExc 4, mem := t.mem }
      ∧ CueWritten s t r reason s.mem.read
    (n = 0 ∨ 9 < n → refused 4)
    ∧ (1 ≤ n → n ≤ 9 → ¬ ok → refused 5)
    ∧ (∀ index reason, 1 ≤ n → n ≤ 9 → ok → validateGroup n (s.groupBytes n) s.cfg = .refused index reason →
      ∃ t, outcome = .next t ∧ t = { s with exc := s.cueExc 5, mem := t.mem }
        ∧ CueWritten s t r 6 fun a => if a = 0x11 then 2 else if a = 0x12 then BitVec.ofNat 8 n
          else if a = 0x13 then BitVec.ofNat 8 index else BitVec.ofNat 8 reason.code)
    ∧ (∀ g, 1 ≤ n → n ≤ 9 → ok → validateGroup n (s.groupBytes n) s.cfg = .valid g →
      ∃ t notices, outcome = .next t ∧ t.cfg = g ∧ t.exc = s.cueExc notices ∧ t.port = s.port
        ∧ (n ≠ 1 → n ≠ 4 → n ≠ 9 → notices = 1) ∧ notices.getLsbD 0 = true
        ∧ CueWritten s t r 0 (fun a => if a = 0x11 then 1 else 0)
        ∧ (n = 1 → t = { s with exc := t.exc, mem := t.mem, cfg := g, srg := t.srg, bfu := t.bfu }
            ∧ (let trips := s.exc.part = .running ∧ s.bfu.drvflt = some g.traction.polarity ∧ s.bfu.trip = .none
              (¬ trips → notices = 1
                ∧ t.srg = { s.srg with motors := t.srg.motors, regTimer := s.exc.part == .running }
                ∧ t.bfu = { s.bfu with chans := t.bfu.chans, slipRun := 0 }
                ∧ ∀ m, g.traction.present m = true → t.srg.motors.get m = { s.srg.motors.get m with i := 0, sat := .zero })
              ∧ (trips → notices = 0x81
                ∧ t.srg = { s.srg with
                    traction := .tripped, r := 0, brakeOrder := false, turnTimer := none, turnMark := false, regTimer := true,
                    motors := t.srg.motors }
                ∧ t.bfu = { s.bfu with chans := t.bfu.chans, trip := .driver, slip := .normal, slipRun := 0, faster := none }
                ∧ ∀ m, (g.traction.present m = true →
                    t.srg.motors.get m = { s.srg.motors.get m with i := 0, sat := .zero, d := 0 })
                  ∧ (t.chan m).mode = .off ∧ (t.chan m).duty = 0 ∧ (t.chan m).raised = none ∧ (t.chan m).avg = 0
                  ∧ (t.chan m).conducts = false))
            ∧ ∀ m, (g.traction.present m = false → t.srg.motors.get m = {} ∧ (t.chan m).mode = .off ∧ (t.chan m).duty = 0
                  ∧ (t.chan m).avg = 0)
              ∧ (t.chan m).persist = 0 ∧ (t.chan m).cbcMark = false
              ∧ (t.chan m).pos = if s.exc.part = .running then some 0 else none)
        ∧ (n = 2 → t = { s with exc := t.exc, mem := t.mem, cfg := g, drq := { s.drq with
            s := (match s.drq.origin with | .speedUnits su => su | .throttle x => curveValue g.curve x)
              / (if s.drq.shunt then 2 else 1) } })
        ∧ (n = 3 →
            let bound := fun x : Target => ∃ k < 32, s.drq.functions.getLsbD k = true ∧ x ∈ g.map.getD k []
            t = { s with exc := t.exc, mem := t.mem, cfg := g, drq := t.drq, smk := t.smk, snd := t.snd }
            ∧ t.drq = { s.drq with
                smokeEnable := t.drq.smokeEnable, mute := t.drq.mute, shunt := t.drq.shunt, momentumOff := t.drq.momentumOff,
                s := t.drq.s }
            ∧ (t.drq.smokeEnable = true ↔ bound .smoke) ∧ (t.drq.mute = true ↔ bound .mute) ∧ (t.drq.shunt = true ↔ bound .shunt)
            ∧ (t.drq.momentumOff = true ↔ bound .momentumOff)
            ∧ t.drq.s = (if t.drq.shunt = s.drq.shunt then s.drq.s
                else (match s.drq.origin with | .speedUnits su => su | .throttle x => curveValue g.curve x)
                  / (if t.drq.shunt then 2 else 1))
            ∧ (t.drq.smokeEnable = s.drq.smokeEnable → t.smk = s.smk)
            ∧ (t.drq.smokeEnable ≠ s.drq.smokeEnable →
                SmokeEvaluated { t with smk := { s.smk with enable := t.drq.smokeEnable } } t)
            ∧ t.snd = { s.snd with mute := t.snd.mute, cap := t.snd.cap }
            ∧ (t.drq.mute = s.drq.mute → t.snd.mute = s.snd.mute ∧ t.snd.cap = s.snd.cap)
            ∧ (t.drq.mute ≠ s.drq.mute → t.snd.mute = t.drq.mute
                ∧ t.snd.cap = min (match s.sup.state with
                    | .normal => 255
                    | .lean => g.power.leanCap
                    | .holdup => g.power.holdCap
                    | .dark => 0) (if t.drq.mute then 0 else 255)))
        ∧ (n = 4 → t = { s with exc := t.exc, mem := t.mem, cfg := g, snd := t.snd } ∧ t.snd.master = g.sound.master
            ∧ (g.sound.bgClip = none → t.snd.queue = s.snd.queue
                ∧ t.voice 1 = (if (s.voice 1).active then {} else s.voice 1) ∧ ∀ v, v ≠ 1 → t.voice v = s.voice v)
            ∧ (∀ clip, g.sound.bgClip = some clip → t.snd.voices = s.snd.voices
                ∧ t.snd.queue = if s.exc.part = .running ∧ (s.sup.state = .normal ∨ s.sup.state = .lean) ∧ s.snd.queue.length < 32
                  then s.snd.queue ++
                    [{ cls := .background, asker := .background, clip := clip, pitch := 256, volume := g.sound.bgVolume,
                       priority := 0, tag := 0, loop := true }]
                  else s.snd.queue))
        ∧ (n = 5 → t = { s with exc := t.exc, mem := t.mem, cfg := g, chk := { s.chk with
            prescale := 0, capture := none, lostTimer := none,
            source := if g.chuff.mode = .virtual then .virtual else .sensorLive,
            next := if g.chuff.perCycle ≤ s.chk.next then 0 else s.chk.next } })
        ∧ (n = 6 → t = { s with exc := t.exc, mem := t.mem, cfg := g, smk := t.smk }
            ∧ t.smk = { ({ s with cfg := g, smk := { s.smk with
                fault := false, hot := false, fluid := min s.smk.fluid g.smoke.capacity } }.evalSmoke).smk with fan := t.smk.fan }
            ∧ (t.smk.state = .ready → t.smk.puff = none → t.smk.fan = g.smoke.idle))
        ∧ (n = 7 → t = { s with exc := t.exc, mem := t.mem, cfg := g, lgt := { s.lgt with lamps := t.lgt.lamps } }
            ∧ ∀ k, let l := s.lgt.lamps.get k
              let e := (g.lights.get k).effect
              t.lgt.lamps.get k = { l with phase := 0, fade := (t.lgt.lamps.get k).fade, flash := (t.lgt.lamps.get k).flash }
              ∧ ((∃ x y, e = .fade x y) → (t.lgt.lamps.get k).fade = l.fade) ∧ ((∀ x y, e ≠ .fade x y) → (t.lgt.lamps.get k).fade = 0)
              ∧ ((∃ x y, e = .chuffFlash x y) → (t.lgt.lamps.get k).flash = l.flash)
              ∧ ((∀ x y, e ≠ .chuffFlash x y) → (t.lgt.lamps.get k).flash = 0))
        ∧ (n = 8 → (s.rrx.holder = none → t = { s with exc := t.exc, mem := t.mem, cfg := g })
            ∧ (s.rrx.holder ≠ none → t = { s with
              exc := t.exc, mem := t.mem, cfg := g, rrx := { s.rrx with holder := none, failsafe := none },
              drq := if s.drq.source = .radio then { s.drq with source := .failsafe, origin := .speedUnits 0, s := 0 }
                else s.drq }))
        ∧ (n = 9 →
            let left := s.sup.holdup.map fun x => min x g.power.holdTime
            let u := { s with cfg := g, sup := { s.sup with lean := 0, recover := 0, loss := 0, ret := 0, holdup := left } }
            (left ≠ some 0 → notices = 1 ∧ t = { u with exc := t.exc, mem := t.mem })
            ∧ (left = some 0 → ∃ v, exec .holdupTimerExpiry u = .next v ∧ t = { v with exc := t.exc, mem := t.mem }
                ∧ t.exc.nlat = v.exc.nlat ||| 1)))


/-- AT_CHUFF_SLOT_TAKE in RUNNING: a post withdrawn since is not taken and the slot state becomes EMPTY; otherwise the slot's content is
judged as at a scan: a valid setpoint reaches DRQ, and clears E_HELD or TRIPPED where it is a zero request; an ESTOP post is an e-stop; and
one with another emergency, or with form, direction or take moment out of range, is refused. Outside RUNNING the take is dropped (R15, R16,
R28, R33, R34, R57, R59).
That the take lapses to EMPTY on equal tallies, whatever took the post, is the model's reading (log entry 16).
Stated for no waiting request of a lower-numbered class, which GrantOrder puts first. -/
def Obligations.AtChuffTake : Prop :=
  ∀ (s : State) (x : Slot), s.mem.wf = true → s.exc.chuffHeld = true → s.exc.scan = none → s.lowerWaits = false →
    s.mem.slotHolds x →
    let inRange := x.form ≤ 1 ∧ x.direction ≤ 2 ∧ x.moment ≤ 3
    let taken := fun (state : SlotState) =>
      { s.exc with chuffHeld := false, lastTaken := x.tally, slotState := state, nlat := s.exc.nlat ||| 2 }
    let written := fun (t : State) (code : Byte) =>
      ∀ a, t.mem.read a = if a = 0x15 then x.tally else if a = 0x16 then code else s.mem.read a
    (s.exc.part ≠ .running → exec .atChuffSlotTake s = .next { s with exc := { s.exc with chuffHeld := false } })
    ∧ (s.exc.part = .running →
      (x.tally = s.exc.lastTaken → ∃ t, exec .atChuffSlotTake s = .next t
        ∧ t = { s with exc := { s.exc with chuffHeld := false, slotState := .empty }, mem := t.mem }
        ∧ ∀ a, t.mem.read a = if a = 0x16 then 0 else s.mem.read a)
      ∧ (x.tally ≠ s.exc.lastTaken → x.emergency = 0 → inRange → ∃ t, exec .atChuffSlotTake s = .next t ∧ written t 2
        ∧ RequestTaken { s with
            exc := taken .taken, mem := t.mem,
            drq := { s.drq with
              source := .host, origin := if x.form = 0 then .speedUnits (min x.value 4095) else .throttle (min x.value 200),
              dir := if x.direction = 0 then .forward else if x.direction = 1 then .reverse else s.drq.dir,
              s := (if x.form = 0 then min x.value 4095 else curveValue s.cfg.curve (min x.value 200))
                / (if s.drq.shunt then 2 else 1) } } t)
      ∧ (x.tally ≠ s.exc.lastTaken → x.emergency = 1 → ∃ t, exec .atChuffSlotTake s = .next t ∧ written t 2
        ∧ EmergencyTaken { s with exc := taken .taken, mem := t.mem } t)
      ∧ (x.tally ≠ s.exc.lastTaken → 1 < x.emergency ∨ (x.emergency = 0 ∧ ¬ inRange) → ∃ t, exec .atChuffSlotTake s = .next t
        ∧ written t 3 ∧ t = { s with exc := taken .refused, mem := t.mem }))

/-- The throttle curve: 0 is a stop, 200 is P10, and between two points the value lies on the line between them, rounded down. The
scanner and the radio receiver clamp a throttle above 200 before DRQ derives its base value from the curve (R26). -/
def Obligations.ThrottleCurve : Prop :=
  (∀ points : List Nat, points.length = 11 →
     curveValue points 0 = 0 ∧ curveValue points 200 = points.getD 10 0
     ∧ ∀ k f : Nat, k < 10 → f < 20 → 0 < 20 * k + f → points.getD k 0 ≤ points.getD (k + 1) 0 →
         curveValue points (20 * k + f) = points.getD k 0 + (points.getD (k + 1) 0 - points.getD k 0) * f / 20
         ∧ points.getD k 0 ≤ curveValue points (20 * k + f) ∧ curveValue points (20 * k + f) ≤ points.getD (k + 1) 0)
  ∧ (∀ (s : State) (x : Slot), x.emergency = 0 → x.form = 1 → x.direction ≤ 2 → x.moment ≤ 3 →
      (s.judgeSlot x).1.drq.origin = .throttle (min x.value 200)
      ∧ (s.judgeSlot x).1.drq.s = curveValue s.cfg.curve (min x.value 200) / (if s.drq.shunt then 2 else 1))
  ∧ ∀ (s : State) (f : Frame),
      (s.dispatchThrottle f).drq.origin = .throttle (min (f.payload.getD 0 0).toNat 200)
      ∧ (s.dispatchThrottle f).drq.s
          = curveValue s.cfg.curve (min (f.payload.getD 0 0).toNat 200) / (if s.drq.shunt then 2 else 1)

/-- A function operation, as a FUNCTION cue and a FUNCTION frame hand it to DRQ (CueKinds, FrameKinds): SET, CLEAR or TOGGLE of the
functions of its mask; with no function changed nothing else happens. Otherwise each of the four levels is on exactly while a set
function binds it; S is derived again only when SHUNT has changed, the smoke unit acts only when its enable has, and the volume cap is
formed only when mute has. Then the keys: first every HOLD key of a cleared function ends, by a release of its tag, and then every key
of a function that became set is started, in ascending function number and list order, for as long as the start queue has a place
(R25, R36, R39, R40, R101, R108, R113, R123, R124). -/
def Obligations.FunctionOperations : Prop :=
  ∀ (s : State) (op : FunctionOp) (mask : BitVec 32), s.tagsOk → s.snd.queue.length ≤ 32 →
    (∀ n k, Target.soundKey k ∈ s.cfg.map.getD n [] → k ≤ 15) →
    let t := s.functionOp op mask
    let f := s.drq.functions
    let f' := t.drq.functions
    let bound := fun x : Target => ∃ n < 32, f'.getLsbD n = true ∧ x ∈ s.cfg.map.getD n []
    let ended := fun tag : Half => ∃ n < 32, ∃ k, f.getLsbD n = true ∧ f'.getLsbD n = false
      ∧ Target.soundKey k ∈ s.cfg.map.getD n [] ∧ (s.key k).mode = .hold ∧ (s.key k).clip ≠ none ∧ tag = BitVec.ofNat 16 (0x8000 + k)
    let startOf := fun x : Target => match x with
      | .soundKey k => (s.key k).clip.map fun clip => (
          { cls := .pool, asker := .key, clip := clip, pitch := 256, volume := (s.key k).volume,
            priority := (s.key k).priority, tag := BitVec.ofNat 16 (0x8000 + k), loop := (s.key k).mode == .hold } : StartReq)
      | _ => none
    let starts := (List.range 32).flatMap fun n =>
      if f.getLsbD n = false ∧ f'.getLsbD n = true then (s.cfg.map.getD n []).filterMap startOf else []
    (∀ n < 32, f'.getLsbD n = match op with
      | .set => f.getLsbD n || mask.getLsbD n
      | .clear => f.getLsbD n && !mask.getLsbD n
      | .toggle => f.getLsbD n ^^ mask.getLsbD n)
    ∧ (f' = f → t = s)
    ∧ (f' ≠ f →
      t = { s with drq := t.drq, smk := t.smk, snd := t.snd }
      ∧ t.drq = { s.drq with
          functions := f', smokeEnable := t.drq.smokeEnable, mute := t.drq.mute, shunt := t.drq.shunt,
          momentumOff := t.drq.momentumOff, s := t.drq.s }
      ∧ (t.drq.smokeEnable = true ↔ bound .smoke) ∧ (t.drq.mute = true ↔ bound .mute) ∧ (t.drq.shunt = true ↔ bound .shunt)
      ∧ (t.drq.momentumOff = true ↔ bound .momentumOff)
      ∧ t.drq.s = (if t.drq.shunt = s.drq.shunt then s.drq.s
          else (match s.drq.origin with | .speedUnits su => su | .throttle x => curveValue s.cfg.curve x)
            / (if t.drq.shunt then 2 else 1))
      ∧ t.smk = (if t.drq.smokeEnable = s.drq.smokeEnable then s.smk
          else ({ s with smk := { s.smk with enable := t.drq.smokeEnable } }.evalSmoke).smk)
      ∧ t.snd = { s.snd with
          mute := t.snd.mute, cap := t.snd.cap, voices := t.snd.voices, queue := t.snd.queue, current := t.snd.current }
      ∧ (t.drq.mute = s.drq.mute → t.snd.mute = s.snd.mute ∧ t.snd.cap = s.snd.cap)
      ∧ (t.drq.mute ≠ s.drq.mute → t.snd.mute = t.drq.mute
          ∧ t.snd.cap = min (supplyCap s.cfg.power s.sup.state) (if t.drq.mute then 0 else 255))
      ∧ (∀ v, ((s.voice v).state = .looping ∧ ended (s.voice v).tag → t.voice v = { s.voice v with state := .released })
          ∧ (¬ ((s.voice v).state = .looping ∧ ended (s.voice v).tag) → t.voice v = s.voice v))
      ∧ (∃ waiting : List StartReq, t.snd.queue = (waiting ++ starts).take 32 ∧ waiting.length = s.snd.queue.length
          ∧ ∀ (i : Nat) (r : StartReq), s.snd.queue[i]? = some r → ∃ m, waiting[i]? = some { r with mark := m }
            ∧ (m = true ↔ r.mark = true ∨ ended r.tag))
      ∧ (s.snd.current = none → t.snd.current = none)
      ∧ ∀ w, s.snd.current = some w → ∃ m, t.snd.current = some { w with req := { w.req with mark := m } }
        ∧ (m = true ↔ w.req.mark = true ∨ ended w.req.tag))

/-! ### The inbox and the status board -/

/-- INBOX_WRITE of a frame not yet begun: with fewer than 32 records between the seen and the put tally the record's 32 bytes are
written, the put tally advances and RADIO_FRAME is latched; otherwise INBOX_FULL is latched and nothing is written. The frame's
buffer is free either way (R20, R159, R170).
The grants that are missing are given within the step (log entry 7, the model's choice). Stated for no waiting request of a class
1 or 2, and no board write: GrantOrder says how those come in. -/
def Obligations.InboxRecorded : Prop :=
  ∀ (s : State) (j : InboxJob) (rest : List InboxJob), s.mem.wf = true → s.exc.inboxQueue = j :: rest →
    s.exc.inboxStep = {} → s.soundWaits = false → s.port.awaiting = none → s.exc.board = none → j.record.payload.length ≤ 16 →
    j.record.length = j.record.payload.length →
    let k := (s.exc.inboxPut.toNat + 65536 - s.mem.readLe 0x0A 2) % 65536
    let base := 0xC00 + 32 * (s.exc.inboxPut.toNat % 32)
    ∃ t, exec .inboxWrite s = .next t
      ∧ t = { s with exc := t.exc, mem := t.mem, rrx := s.rrx.setBuffer j.buffer none }
      ∧ (32 ≤ k → t.mem = s.mem ∧ t.exc = { s.exc with
          inboxQueue := rest, nlat := s.exc.nlat ||| 0x40, class3Last := t.exc.class3Last })
      ∧ (k < 32 → t.exc = { s.exc with
            inboxQueue := rest, inboxPut := s.exc.inboxPut + 1, nlat := s.exc.nlat ||| 0x20, class3Last := t.exc.class3Last }
          ∧ t.mem.readLe 0x08 2 = (s.exc.inboxPut.toNat + 1) % 65536
          ∧ t.mem.read base = BitVec.ofNat 8 j.record.verdict.code ∧ t.mem.read (base + 1) = j.record.kind
          ∧ t.mem.readLe (base + 2) 2 = j.record.sender.toNat ∧ t.mem.read (base + 4) = j.record.seq
          ∧ (t.mem.read (base + 5)).toNat = j.record.payload.length ∧ t.mem.readLe (base + 6) 2 = j.record.target.toNat
          ∧ t.mem.readLe (base + 8) 4 = j.record.time.toNat ∧ t.mem.read (base + 12) = j.record.signal
          ∧ (∀ i < 19, t.mem.read (base + 13 + i) = j.record.payload.getD i 0)
          ∧ ∀ a, a ≠ 0x08 → a ≠ 0x09 → (a < base ∨ base + 32 ≤ a) → t.mem.read a = s.mem.read a)

/-! ### Regulation -/

/-- REGULATION_TIMER in MOVING with no turn asked for: R moves toward S by at most the acceleration or deceleration step, a step of 0
or MOMENTUM_OFF jumps, and a float window opens on every present motor with all its switches off; duties, integrals and the
direction stay. A period that the window overlaps counts as not CBC-limited, and a mark that an earlier period has set stays (R44, R45,
R46, R72, R75).
That a mark is taken back where the present period is the one that set it is the model's reading (log entry 19). -/
def Obligations.TickRampsMoving : Prop :=
  ∀ s : State, s.exc.scan = none → s.exc.part.driving = true → s.sup.state ≠ .dark → s.srg.regTimer = true → s.srg.tick = none →
    s.srg.traction = .moving → s.drq.dir = s.srg.bridgeDir →
    let c := s.cfg.traction
    let up := if s.drq.momentumOff then 0 else c.accel
    let down := if s.drq.momentumOff then 0 else c.decel
    ∃ t, exec .regulationTimer s = .next t
      ∧ t = { s with srg := t.srg, bfu := t.bfu }
      ∧ t.srg = { s.srg with r := t.srg.r, tick := some ⟨c, s.srg.bridgeDir, false⟩ }
      ∧ (s.srg.r < s.drq.s → t.srg.r = if up = 0 then s.drq.s else min (s.srg.r + up) s.drq.s)
      ∧ (s.drq.s < s.srg.r → t.srg.r = if down = 0 then s.drq.s else max (s.srg.r - down) s.drq.s)
      ∧ (s.drq.s = s.srg.r → t.srg.r = s.srg.r)
      ∧ t.bfu.window = some ⟨.settling, none⟩ ∧ t.bfu.trip = s.bfu.trip ∧ t.bfu.slip = s.bfu.slip
      ∧ ∀ m, c.present m = true → (t.chan m).mode = .float ∧ (t.chan m).duty = (s.chan m).duty ∧ (t.chan m).dir = (s.chan m).dir
          ∧ (t.chan m).cbcMark = ((s.chan m).cbcMark && !(s.chan m).periodCbc)
          ∧ (t.chan m).leg1.high = false ∧ (t.chan m).leg1.low = false ∧ (t.chan m).leg2.high = false ∧ (t.chan m).leg2.low = false

/-- REGULATION_TIMER in STANDING, and in MOVING and TURNING where the bridge may flip or need not: STANDING and MOVING at R = 0 flip the
bridge to another requested direction at once, with I and sat 0 and Vf kept; STANDING then becomes MOVING with S > 0 unless the supply is
DARK, and stays STANDING otherwise; TURNING with the bridge direction requested again becomes MOVING without a flip, its turn timer
stopped and its mark cleared. R ramps in the state so settled, from 0 or from wherever it stands, and the channels keep their directions
until the window's end (R45, R46, R54, R55, R61, R72). -/
def Obligations.TickSettles : Prop :=
  ∀ s : State, s.exc.scan = none → s.exc.part = .running → s.srg.regTimer = true → s.srg.tick = none →
    let c := s.cfg.traction
    let flips := s.drq.dir ≠ s.srg.bridgeDir
    let up := if s.drq.momentumOff then 0 else c.accel
    let down := if s.drq.momentumOff then 0 else c.decel
    let settles := fun (x : TractionState) => ∃ t, exec .regulationTimer s = .next t
      ∧ t = { s with srg := t.srg, bfu := t.bfu }
      ∧ t.srg = { s.srg with
          traction := x, bridgeDir := s.drq.dir, r := t.srg.r, motors := t.srg.motors, turnTimer := t.srg.turnTimer,
          turnMark := t.srg.turnMark, tick := some ⟨c, s.drq.dir, false⟩ }
      ∧ (x = .standing → t.srg.r = 0)
      ∧ (x = .moving → s.srg.r < s.drq.s → t.srg.r = if up = 0 then s.drq.s else min (s.srg.r + up) s.drq.s)
      ∧ (x = .moving → s.drq.s < s.srg.r → t.srg.r = if down = 0 then s.drq.s else max (s.srg.r - down) s.drq.s)
      ∧ (x = .moving → s.drq.s = s.srg.r → t.srg.r = s.srg.r)
      ∧ (flips → ∀ m, t.srg.motors.get m = { s.srg.motors.get m with i := 0, sat := .zero })
      ∧ (¬ flips → t.srg.motors = s.srg.motors)
      ∧ (flips ∨ s.srg.traction = .turning → t.srg.turnTimer = none ∧ t.srg.turnMark = false)
      ∧ (¬ flips → s.srg.traction ≠ .turning → t.srg.turnTimer = s.srg.turnTimer ∧ t.srg.turnMark = s.srg.turnMark)
      ∧ t.bfu.window = some ⟨.settling, if s.drq.dir = s.srg.bridgeDir then none else some s.drq.dir⟩
      ∧ ∀ m, (t.chan m).dir = (s.chan m).dir ∧ (t.chan m).duty = (s.chan m).duty
    (s.srg.traction = .standing → s.srg.r = 0 →
      (0 < s.drq.s → s.sup.state ≠ .dark → settles .moving) ∧ (s.drq.s = 0 ∨ s.sup.state = .dark → settles .standing))
    ∧ (s.srg.traction = .moving → s.srg.r = 0 → flips → settles .moving)
    ∧ (s.srg.traction = .turning → ¬ flips → settles .moving)

/-- REGULATION_TIMER with the other direction requested. MOVING with R > 0 enters TURNING, and TURNING stays while R > 0 or while neither the
standstill threshold nor the turn timeout lets it flip; R falls by the deceleration step, or to 0 at once with a step of 0 or
MOMENTUM_OFF. The tick knows whether it has brought R to 0; at R = 0 slip is over, and where SLIPPING ended, each duty is cut to the base
limit at once. A TURNING that has waited long enough flips the bridge at R = 0: in RUNNING into MOVING, where R rises, or into STANDING, the
channels turning at the window's end, and in STOPPING with S = 0 into STANDING and so to HALTED (R12, R45, R46, R49, R51, R54, R55, R56,
R72, R83). -/
def Obligations.TickTurns : Prop :=
  ∀ s : State, s.exc.scan = none → s.exc.part.driving = true → s.sup.state ≠ .dark → s.srg.regTimer = true → s.srg.tick = none →
    s.drq.dir ≠ s.srg.bridgeDir →
    let c := s.cfg.traction
    let up := if s.drq.momentumOff then 0 else c.accel
    let down := if s.drq.momentumOff then 0 else c.decel
    let base := match s.sup.state with
      | .normal => c.dmax
      | .lean => c.dmax
      | .holdup => min c.dmax s.cfg.power.holdDmax
      | .dark => 0
    let r := if down = 0 then 0 else s.srg.r - down
    ((s.srg.traction = .moving ∧ 0 < s.srg.r) ∨ (s.srg.traction = .turning ∧ 0 < s.srg.r)
        ∨ (s.srg.traction = .turning ∧ c.standstill < s.srg.vl ∧ s.srg.turnMark = false) →
      ∃ t z, exec .regulationTimer s = .next t ∧ t = { s with srg := t.srg, bfu := t.bfu }
      ∧ t.srg = { s.srg with traction := .turning, r := r, motors := t.srg.motors, tick := some ⟨c, s.srg.bridgeDir, z⟩ }
      ∧ (z = true ↔ 0 < s.srg.r ∧ r = 0)
      ∧ (0 < r ∨ s.bfu.slip = .normal → t.srg.motors = s.srg.motors)
      ∧ (0 < r → t.bfu.slip = s.bfu.slip ∧ t.bfu.slipRun = s.bfu.slipRun ∧ t.bfu.faster = s.bfu.faster)
      ∧ (r = 0 → t.bfu.slip = .normal ∧ t.bfu.slipRun = 0 ∧ t.bfu.faster = none)
      ∧ (r = 0 → s.bfu.slip = .slipping → ∀ m, t.srg.motors.get m = { s.srg.motors.get m with d := min (s.srg.motors.get m).d base })
      ∧ t.bfu.window = some ⟨.settling, none⟩ ∧ ∀ m, (t.chan m).dir = (s.chan m).dir)
    ∧ (s.srg.traction = .turning → s.srg.r = 0 → s.srg.vl ≤ c.standstill ∨ s.srg.turnMark = true →
      (s.exc.part = .running → ∃ t, exec .regulationTimer s = .next t
        ∧ t = { s with srg := t.srg, bfu := t.bfu, chk := t.chk }
        ∧ t.srg = { s.srg with
            traction := if 0 < s.drq.s then .moving else .standing, bridgeDir := s.drq.dir,
            r := if up = 0 then s.drq.s else min up s.drq.s, turnTimer := none, turnMark := false, motors := t.srg.motors,
            tick := some ⟨c, s.drq.dir, false⟩ }
        ∧ (∀ m, t.srg.motors.get m = { s.srg.motors.get m with
            i := 0, sat := .zero, d := if 0 < s.drq.s then (s.srg.motors.get m).d else 0 })
        ∧ t.chk = (if 0 < s.drq.s then s.chk else { s.chk with acc := 65535, next := 0, first := true })
        ∧ t.bfu.window = some ⟨.settling, some s.drq.dir⟩ ∧ ∀ m, (t.chan m).dir = (s.chan m).dir)
      ∧ (s.exc.part = .stopping → s.drq.s = 0 → s.mem.wf = true → ∃ t, exec .regulationTimer s = .next t
        ∧ HaltedFacts { s with srg := { s.srg with traction := .standing, bridgeDir := s.drq.dir } } t))

/-- REGULATION_TIMER in E_BRAKE: R falls by the emergency step whatever MOMENTUM_OFF holds, and at 0 the state becomes E_HELD with D
and the integrals 0 and the brake order; STOPPING then ends in HALTED (R46, R58, R12). -/
def Obligations.TickBrakes : Prop :=
  ∀ s : State, s.exc.scan = none → s.exc.part.driving = true → s.sup.state ≠ .dark → s.srg.regTimer = true → s.srg.tick = none →
    s.srg.traction = .eBrake →
    (0 < s.cfg.traction.emergency → s.cfg.traction.emergency < s.srg.r → ∃ t, exec .regulationTimer s = .next t
      ∧ t.srg = { s.srg with
          r := s.srg.r - s.cfg.traction.emergency, tick := some ⟨s.cfg.traction, s.srg.bridgeDir, false⟩ }
      ∧ t = { s with srg := t.srg, bfu := t.bfu })
    ∧ (s.cfg.traction.emergency = 0 ∨ s.srg.r ≤ s.cfg.traction.emergency → s.exc.part = .running →
      ∃ t, exec .regulationTimer s = .next t ∧ t = { s with srg := t.srg, bfu := t.bfu }
      ∧ t.srg.traction = .eHeld ∧ t.srg.r = 0 ∧ t.srg.brakeOrder = true ∧ t.srg.motors.a.d = 0 ∧ t.srg.motors.b.d = 0
      ∧ t.srg.motors.a.i = 0 ∧ t.srg.motors.b.i = 0 ∧ t.srg.bridgeDir = s.srg.bridgeDir ∧ t.bfu.window.isSome = true)
    ∧ (s.cfg.traction.emergency = 0 ∨ s.srg.r ≤ s.cfg.traction.emergency → s.exc.part = .stopping → s.mem.wf = true →
      ∃ t, exec .regulationTimer s = .next t ∧ HaltedFacts { s with srg := { s.srg with traction := .eHeld } } t)

/-- SETTLE_TIME_ELAPSED lets the conversions of an open float window begin; TURN_TIMEOUT of a running turn timer stops it and sets
the turn timeout mark; DEAD_TIME_ELAPSED lets the delayed turn-on of a half-bridge take place, unless the other switch conducts
(R56, R70, R72).
That a command whose event cannot occur (no window that settles, a stopped turn timer, no delayed turn-on) changes nothing is the
model's choice (log entry 5), and so is that DEAD_TIME_ELAPSED ends the dead time of its half-bridge (log entry 37). -/
def Obligations.BridgeAndTurnTimers : Prop :=
  (∀ s : State,
     (∀ f, s.bfu.window = some ⟨.settling, f⟩ →
       exec .settleTimeElapsed s = .next { s with bfu := { s.bfu with window := some ⟨.converting, f⟩ } })
     ∧ (s.bfu.window = none → exec .settleTimeElapsed s = .next s)
     ∧ (∀ w, s.bfu.window = some w → w.phase ≠ .settling → exec .settleTimeElapsed s = .next s)
     ∧ (s.srg.turnTimer ≠ none → exec .turnTimeout s = .next { s with srg := { s.srg with turnTimer := none, turnMark := true } })
     ∧ (s.srg.turnTimer = none → exec .turnTimeout s = .next s))
  ∧ ∀ (s : State) (m : Motor) (l : LegId),
    let g := match l with
      | .leg1 => (s.chan m).leg1
      | .leg2 => (s.chan m).leg2
    let put := fun (x : Leg) => match l with
      | .leg1 => { s.chan m with leg1 := x }
      | .leg2 => { s.chan m with leg2 := x }
    let after := fun (x : Leg) => { s with bfu := { s.bfu with chans := s.bfu.chans.set m (put x) } }
    (g.delayed = none ∨ (g.delayed = some .high ∧ g.low = true) ∨ (g.delayed = some .low ∧ g.high = true) →
        exec (.deadTimeElapsed m l) s = .next s)
    ∧ (g.delayed = some .high → g.low = false →
        exec (.deadTimeElapsed m l) s = .next (after { g with high := true, deadHigh := 0, delayed := none }))
    ∧ (g.delayed = some .low → g.high = false →
        exec (.deadTimeElapsed m l) s = .next (after { g with low := true, deadLow := 0, delayed := none }))

/-- TICK_COMPLETION without a stall: each present motor's speed is estimated from its four conversions and filtered, and the loco speed
follows. MOVING at R = 0 and at or below the standstill threshold becomes STANDING: in RUNNING with D = 0, the virtual cam full, the next
chuff index 0 and the first-chuff mark set before the lost timer is judged, and in STOPPING, which it ends, with the entry to HALTED that
keeps the new speeds. Every other traction state stays, and so does the part state. But for that entry to HALTED the speed band follows the
loco speed, the current averages are formed and the persistence counts judged (R12, R47, R48, R49, R53, R62, R74, R76, R90, R91, R92).
Stated for a tick that no RELOAD of TRACTION has overtaken (log entry 32) and for no scan that waits for a start's outcome. That the rest
of a completion is abandoned where STOPPING ends is the model's reading (log entry 18). -/
def Obligations.CompletionEstimates : Prop :=
  ∀ (s : State) (k : Tick) (ea eb : EmfSet) (f : Option Direction), s.exc.scan = none → s.exc.part.driving = true → s.stoppingOk →
    s.srg.tick = some k → s.bfu.window = some ⟨.converting, f⟩ → k.cfg = s.cfg.traction →
    (∀ m, s.cfg.traction.present m = true → (s.chan m).cbcMark = true → (s.chan m).persist + 1 < s.cfg.traction.persist) →
    0 < s.cfg.traction.persist →
    let c := s.cfg.traction
    let conv := fun e : EmfReading => if e.polarity = k.dir then e.counts.toNat else 0
    let speed := fun (e : EmfSet) (vf : Nat) =>
      let v := min 4095 (((conv e.c0 + conv e.c1 + conv e.c2 + conv e.c3) / 4 * c.kc + 128) / 256)
      if vf ≤ v then vf + (v - vf) / 4 else vf - (vf - v + 3) / 4
    ∃ t, exec (.tickCompletion ea eb) s = .next t
      ∧ t.srg.tick = none ∧ t.srg.r = s.srg.r ∧ t.bfu.trip = s.bfu.trip
      ∧ t.drq = s.drq ∧ t.sup = s.sup ∧ t.cfg = s.cfg ∧ t.rrx = s.rrx
      ∧ (1 ≤ c.motors → t.srg.motors.a.vf = speed ea s.srg.motors.a.vf)
      ∧ (2 ≤ c.motors → t.srg.motors.b.vf = speed eb s.srg.motors.b.vf)
      ∧ t.srg.vl = (if 2 ≤ c.motors then (t.srg.motors.a.vf + t.srg.motors.b.vf) / 2 else t.srg.motors.a.vf)
      ∧ (let stands := s.srg.traction = .moving ∧ s.srg.r = 0 ∧ t.srg.vl ≤ c.standstill
        (stands → s.exc.part = .stopping → s.mem.wf = true → HaltedFacts
          { s with srg := { s.srg with traction := .standing, vl := t.srg.vl, motors := t.srg.motors } } t)
        ∧ (¬ stands ∨ s.exc.part = .running →
          t.exc.part = s.exc.part ∧ t.mem = s.mem ∧ t.bfu.window = some ⟨.ending, f⟩
          ∧ t.srg.band = (if c.t1 ≤ t.srg.vl then 1 else 0) + (if c.t2 ≤ t.srg.vl then 1 else 0) + (if c.t3 ≤ t.srg.vl then 1 else 0)
          ∧ ∀ m, c.present m = true → (t.chan m).avg = (if (s.chan m).count = 0 then 0 else (s.chan m).sum / (s.chan m).count)
            ∧ (t.chan m).cbcMark = false ∧ (t.chan m).persist = if (s.chan m).cbcMark then (s.chan m).persist + 1 else 0)
        ∧ (stands → s.exc.part = .running →
          t.srg.traction = .standing ∧ t.srg.motors.a.d = 0 ∧ t.srg.motors.b.d = 0
          ∧ ClockCompleted { s with chk := { s.chk with acc := 65535, next := 0, first := true } } t)
        ∧ (¬ stands → t.srg.traction = s.srg.traction))

/-- TICK_COMPLETION without a stall where nothing is regulated, in STANDING, E_HELD and TRIPPED, and in TURNING at R = 0, in STOPPING as in
RUNNING: traction, R, the bridge direction, the brake order and the trip reason stay; on every motor D, I and sat are 0 and duty 0 is
handed; labour is 4 at R = 0; slip is not judged. The turn timer starts at 500 ms, its mark cleared, at the completion of the tick that
brought R to 0 in TURNING, and at no other. The lost timer is judged against the new loco speed, and the virtual cam advances in every state
but STANDING, with the chuff that its wrap may be (R50, R52, R53, R54, R81, R90, R91, R93, R94).
Stated for a tick that no RELOAD of TRACTION has overtaken (log entry 32) and for no scan that waits for a start's outcome. -/
def Obligations.CompletionRests : Prop :=
  ∀ (s : State) (k : Tick) (ea eb : EmfSet) (f : Option Direction), s.exc.scan = none → s.exc.part.driving = true → s.stoppingOk →
    s.srg.tick = some k → s.bfu.window = some ⟨.converting, f⟩ → k.cfg = s.cfg.traction →
    (∀ m, s.cfg.traction.present m = true → (s.chan m).cbcMark = true → (s.chan m).persist + 1 < s.cfg.traction.persist) →
    0 < s.cfg.traction.persist →
    s.srg.traction = .standing ∨ s.srg.traction = .eHeld ∨ s.srg.traction = .tripped ∨ (s.srg.traction = .turning ∧ s.srg.r = 0) →
    let c := s.cfg.traction
    ∃ t, exec (.tickCompletion ea eb) s = .next t ∧ t.exc.part = s.exc.part
      ∧ t.srg = { s.srg with
          motors := t.srg.motors, vl := t.srg.vl, labour := t.srg.labour, band := t.srg.band, turnTimer := t.srg.turnTimer,
          turnMark := t.srg.turnMark, tick := none }
      ∧ (∀ m, (t.srg.motors.get m).d = 0 ∧ (t.srg.motors.get m).i = 0 ∧ (t.srg.motors.get m).sat = .zero
          ∧ (t.chan m).duty = 0 ∧ (t.chan m).raised = none)
      ∧ (s.srg.r = 0 → t.srg.labour = 4)
      ∧ (s.srg.traction = .turning → k.turnZero = true → t.srg.turnTimer = some 500 ∧ t.srg.turnMark = false)
      ∧ (s.srg.traction ≠ .turning ∨ k.turnZero = false → t.srg.turnTimer = s.srg.turnTimer ∧ t.srg.turnMark = s.srg.turnMark)
      ∧ t.bfu.trip = s.bfu.trip ∧ t.bfu.window = some ⟨.ending, f⟩
      ∧ (2 ≤ c.motors → 0 < c.slipThresh →
          t.bfu.slip = s.bfu.slip ∧ t.bfu.slipRun = s.bfu.slipRun ∧ t.bfu.faster = s.bfu.faster)
      ∧ (c.motors ≤ 1 ∨ c.slipThresh = 0 → t.bfu.slip = .normal ∧ t.bfu.slipRun = 0 ∧ t.bfu.faster = none)
      ∧ ClockCompleted s t

/-- TICK_COMPLETION in any traction state and supply state: a motor's raw speed is formed from the average of its four conversions,
a reversed one counting 0, and its filtered speed moves by a quarter of the difference with floor, so that a falling speed lowers it
by at least 1 and a rising one raises it only from a difference of 4 on; the loco speed is the mean of the filtered speeds, or motor
A's (R47, R48).
Stated for a tick that no RELOAD of TRACTION has overtaken (log entry 32, the model's reading), for no scan that waits for a start's
outcome, and in STOPPING for a completion without a stall, which would end STOPPING. -/
def Obligations.CompletionFilters : Prop :=
  ∀ (s : State) (k : Tick) (ea eb : EmfSet) (f : Option Direction), s.exc.scan = none → s.srg.tick = some k →
    s.bfu.window = some ⟨.converting, f⟩ → k.cfg = s.cfg.traction →
    s.exc.part = .running ∨ (s.exc.part = .stopping ∧ 0 < s.cfg.traction.persist ∧ ∀ m, s.cfg.traction.present m = true →
      (s.chan m).cbcMark = true → (s.chan m).persist + 1 < s.cfg.traction.persist) →
    let conv := fun e : EmfReading => if e.polarity = k.dir then e.counts.toNat else 0
    let raw := fun (e : EmfSet) =>
      min 4095 (((conv e.c0 + conv e.c1 + conv e.c2 + conv e.c3) / 4 * s.cfg.traction.kc + 128) / 256)
    let filtered := fun (e : EmfSet) (vf vf' : Nat) =>
      (vf' : Int) = vf + ((raw e : Int) - vf) / 4 ∧ (raw e < vf → vf' + 1 ≤ vf) ∧ (vf ≤ raw e → raw e < vf + 4 → vf' = vf)
      ∧ (vf ≤ 4095 → vf' ≤ 4095) ∧ (s.cfg.traction.kc = 0 → raw e = 0)
    ∃ t, exec (.tickCompletion ea eb) s = .next t
      ∧ (1 ≤ s.cfg.traction.motors → filtered ea s.srg.motors.a.vf t.srg.motors.a.vf)
      ∧ (2 ≤ s.cfg.traction.motors → filtered eb s.srg.motors.b.vf t.srg.motors.b.vf)
      ∧ t.srg.vl = (if 2 ≤ s.cfg.traction.motors then (t.srg.motors.a.vf + t.srg.motors.b.vf) / 2 else t.srg.motors.a.vf)

/-- TICK_COMPLETION with one or two motors in MOVING, at R = 0 while the new loco speed is above the standstill threshold, in TURNING at
R > 0, or in E_BRAKE, without a stall, in RUNNING and, but for supply DARK, in STOPPING: slip is judged on the new filtered speeds, with
its run count, the faster motor and SLIP latched at its start, and is NORMAL where it is not in force; then each motor's integral with
its saturation rule, the regulator sum, the duty under its limit, which the slip cut lowers for the faster motor, and the new saturation
flag; the duty is handed, and kept as the applied one while the motor floats; labour from the mean duty; the lost timer; and the
virtual cam, whose wrap is a chuff in source mode VIRTUAL, and in AUTO while the sensor is lost (R49 to R53, R71, R81 to R83, R90, R91, R93, R94).
Stated for a tick that no RELOAD of TRACTION has overtaken (log entry 32) and for no scan that waits for a start's outcome. -/
def Obligations.CompletionRegulates : Prop :=
  ∀ (s : State) (k : Tick) (ea eb : EmfSet) (f : Option Direction), s.exc.scan = none →
    s.exc.part = .running ∨ (s.exc.part = .stopping ∧ s.sup.state ≠ .dark) →
    s.srg.tick = some k → s.bfu.window = some ⟨.converting, f⟩ → k.cfg = s.cfg.traction →
    1 ≤ s.cfg.traction.motors → s.cfg.traction.motors ≤ 2 →
    (∀ m, s.cfg.traction.present m = true → (s.chan m).cbcMark = true → (s.chan m).persist + 1 < s.cfg.traction.persist) →
    0 < s.cfg.traction.persist →
    s.srg.traction = .moving ∨ (s.srg.traction = .turning ∧ 0 < s.srg.r) ∨ s.srg.traction = .eBrake →
    let c := s.cfg.traction
    let base : Nat := match s.sup.state with
      | .normal => c.dmax
      | .lean => c.dmax
      | .holdup => min c.dmax s.cfg.power.holdDmax
      | .dark => 0
    ∃ t, exec (.tickCompletion ea eb) s = .next t
      ∧ (s.srg.traction ≠ .moving ∨ 0 < s.srg.r ∨ c.standstill < t.srg.vl →
        t.srg.traction = s.srg.traction ∧ t.srg.r = s.srg.r ∧ t.srg.bridgeDir = s.srg.bridgeDir ∧ t.bfu.trip = s.bfu.trip
        ∧ (∀ m, c.present m = true →
            let x := s.srg.motors.get m
            let y := t.srg.motors.get m
            let lim := if t.bfu.slip = .slipping ∧ t.bfu.faster = some m then base * (100 - c.slipCut) / 100 else base
            ∃ e i q : Int, e = (s.srg.r : Int) - y.vf
              ∧ i = (if (x.sat = .plus ∧ 0 < e) ∨ (x.sat = .minus ∧ e < 0) then x.i
                  else max (-1048576) (min (x.i + e * c.ki) 1048575))
              ∧ q = ((s.srg.r : Int) * c.kff + e * c.kp + i) / 1024
              ∧ y.i = i ∧ (y.d : Int) = max 0 (min q lim)
              ∧ y.sat = (if (lim : Int) ≤ q then .plus else if q ≤ 0 then .minus else .zero)
              ∧ ((s.chan m).mode ≠ .drive → (t.chan m).duty = y.d ∧ (t.chan m).raised = none))
        ∧ (let mean := if c.motors = 2 then (t.srg.motors.a.d + t.srg.motors.b.d) / 2 else t.srg.motors.a.d
          (t.srg.labour : Int) = max 0 (min (4 + ((mean : Int) - (s.srg.r * c.kff / 1024 : Nat)) / 64) 7))
        ∧ (c.motors = 1 ∨ c.slipThresh = 0 → t.bfu.slip = .normal ∧ t.bfu.slipRun = 0 ∧ t.bfu.faster = none)
        ∧ (c.motors = 2 → 0 < c.slipThresh →
            let a := t.srg.motors.a.vf
            let b := t.srg.motors.b.vf
            let gap := (a - b) + (b - a)
            let faster := if b < a then some Motor.a else if a < b then some .b else s.bfu.faster
            (s.bfu.slip = .normal →
              let run := if c.slipThresh < gap then s.bfu.slipRun + 1 else 0
              (c.slipTicks ≤ run → t.bfu.slip = .slipping ∧ t.bfu.slipRun = 0 ∧ t.bfu.faster = faster ∧ t.exc.nlat.getLsbD 10 = true)
              ∧ (run < c.slipTicks → t.bfu.slip = .normal ∧ t.bfu.slipRun = run ∧ t.bfu.faster = s.bfu.faster
                  ∧ t.exc.nlat.getLsbD 10 = s.exc.nlat.getLsbD 10))
            ∧ (s.bfu.slip = .slipping →
              let run := if gap ≤ c.slipThresh / 2 then s.bfu.slipRun + 1 else 0
              t.exc.nlat.getLsbD 10 = s.exc.nlat.getLsbD 10
              ∧ (c.slipTicks ≤ run → t.bfu.slip = .normal ∧ t.bfu.slipRun = 0 ∧ t.bfu.faster = none)
              ∧ (run < c.slipTicks → t.bfu.slip = .slipping ∧ t.bfu.slipRun = run ∧ t.bfu.faster = faster)))
        ∧ ClockCompleted s t)

/-! ### The bridges -/

/-- PWM_PERIOD_START outside a float window: both counters restart, a raised duty becomes the applied one, and each present motor
takes the mode of the traction state: DRIVE in MOVING and E_BRAKE, and in TURNING while R > 0; BRAKE in E_HELD with the brake order;
OFF in E_HELD without it, in TURNING at R = 0, in STANDING and TRIPPED, after a trip, and outside RUNNING and STOPPING (R68, R69, R71).
Within a float window: while its conversions are not complete both channels keep their modes; once they are, the window ends and a flip
settled at the tick's start turns both channels (R55, R72). A channel that takes a mode shows its pattern: the switches that R68 and R69
make due conduct, but one whose turn-on waits for a dead time; none waits where the dead time is 0, nor where no switch conducted and no
dead time ran (R70). Between period starts the counter counts on by 50 ns with each step on an empty queue; the on interval lies
duty/1024 of the period wide about its middle; its driving leg is high and its return leg low, the driving leg being leg 1 in FORWARD and
leg 2 in REVERSE; and at each of its positions every half-bridge turns to the switch that is then due, a turn-on waiting while its dead
time runs (R69, R70, R75).
The counter is moved on to the end of its period first (log entry 30, the model's choice); that the counters count on an empty queue
(log entry 2), that a delayed turn-on takes place at DEAD_TIME_ELAPSED (log entry 37), that the channel of an absent motor turns with the flips (log
entry 51), and that an edge between two positions of 50 ns
falls on the later one (log entry 45) are the model's choices too. -/
def Obligations.PeriodStarts : Prop :=
  (∀ s : State, s.bfu.window = none → (s.chan .a).pos ≠ none →
     ∃ t, exec .pwmPeriodStart s = .next t
       ∧ t = { s with bfu := { s.bfu with chans := t.bfu.chans } }
       ∧ ∀ m, (t.chan m).pos = some 0 ∧ (t.chan m).phase = .before ∧ (t.chan m).raised = none ∧ (t.chan m).dir = (s.chan m).dir
         ∧ (t.chan m).duty = (s.chan m).raised.getD (s.chan m).duty
         ∧ (t.chan m).sum = (s.chan m).sum ∧ (t.chan m).count = (s.chan m).count ∧ (t.chan m).avg = (s.chan m).avg
         ∧ (s.cfg.traction.present m = true → s.exc.part.driving = true → s.bfu.trip = .none →
             (s.srg.traction = .moving ∨ s.srg.traction = .eBrake ∨ (s.srg.traction = .turning ∧ 0 < s.srg.r) →
               (t.chan m).mode = .drive)
             ∧ (s.srg.traction = .eHeld → s.srg.brakeOrder = true → (t.chan m).mode = .brake))
         ∧ (s.cfg.traction.present m = false ∨ s.exc.part.driving = false ∨ s.bfu.trip ≠ .none
             ∨ s.srg.traction = .standing ∨ s.srg.traction = .tripped ∨ (s.srg.traction = .turning ∧ s.srg.r = 0)
             ∨ (s.srg.traction = .eHeld ∧ s.srg.brakeOrder = false) → (t.chan m).mode = .off
             ∧ (t.chan m).leg1.high = false ∧ (t.chan m).leg1.low = false
             ∧ (t.chan m).leg2.high = false ∧ (t.chan m).leg2.low = false)
         ∧ Channel.Taken s.cfg.traction (s.chan m) (t.chan m))
  ∧ (∀ (s : State) (w : Window), s.bfu.window = some w → (s.chan .a).pos ≠ none →
    ∃ t, exec .pwmPeriodStart s = .next t ∧ t = { s with bfu := t.bfu }
      ∧ (w.phase ≠ .ending → t.bfu.window = some w ∧ ∀ m, (t.chan m).mode = (s.chan m).mode ∧ (t.chan m).dir = (s.chan m).dir)
      ∧ (w.phase = .ending → t.bfu.window = none ∧ ∀ m, (t.chan m).dir = w.flip.getD (s.chan m).dir ∧ (t.chan m).mode = s.modeOf m
          ∧ Channel.Taken s.cfg.traction (s.chan m) (t.chan m)))
  ∧ (∀ c : Traction, periodTicks c = match c.pwmFreq with | 0 => 1250 | 1 => 1000 | 2 => 800 | _ => 640)
  ∧ ∀ (s : State) (m : Motor) (p : Nat), s.pending = [] → (s.chan m).pos = some p → p + 1 < periodTicks s.cfg.traction →
    let ch := s.chan m
    let T := periodTicks s.cfg.traction
    let opens := T * (1024 - ch.duty)
    let ends := T * (1024 + ch.duty)
    let here := 2048 * (p + 1)
    ∃ t, step s = .next t
      ∧ (t.chan m) = { ch with
          pos := some (p + 1), phase := (t.chan m).phase, leg1 := (t.chan m).leg1, leg2 := (t.chan m).leg2 }
      ∧ (ch.phase = .before → ch.duty = 0 ∨ here < opens → (t.chan m).phase = .before)
      ∧ (ch.phase = .before → 0 < ch.duty → opens ≤ here → here < ends → (t.chan m).phase = .on)
      ∧ (ch.phase = .on → here < ends → (t.chan m).phase = .on)
      ∧ (ch.phase = .on ∨ (ch.phase = .before ∧ 0 < ch.duty) → ends ≤ here → (t.chan m).phase = .after)
      ∧ (ch.phase = .after ∨ ch.phase = .limited → (t.chan m).phase = ch.phase)
      ∧ Channel.Turns s.cfg.traction (ch.pass 1) (t.chan m)

/-- CURRENT_SAMPLE in a period that is sampled adds the limit level after a limited on interval, 0 without an on interval, and
otherwise 8 mA per count in the applied direction and 0 against it; CBC_LIMIT in an on interval ends it with the limit off action
and sets the CBC mark, each half-bridge turning to the switch that is then due; outside DRIVE neither has an effect, nor has the
comparator outside an on interval. A sample taken in an on interval finds its switches due: the driving leg high and the return leg low,
each conducting but for a turn-on that waits for a dead time (R69, R70, R74, R75).
Each event finds the counter at the place it implies (log entry 30, the model's choice), and the period keeps whether it set a mark
that was clear, for a float window that may overlap it (log entry 19). -/
def Obligations.CurrentEvents : Prop :=
  ∀ (s : State) (m : Motor) (counts : BitVec 10) (flow : Direction),
    let ch := s.chan m
    let onlyChan := fun t : State => t = { s with bfu := { s.bfu with chans := s.bfu.chans.set m (t.chan m) } }
    (ch.mode ≠ .drive → exec (.currentSample m counts flow) s = .next s ∧ exec (.cbcLimit m) s = .next s)
    ∧ (ch.mode = .drive → ch.overlap = false → ch.periodSample = none → ch.pos ≠ none →
        ∃ t, exec (.currentSample m counts flow) s = .next t ∧ onlyChan t
          ∧ (t.chan m).count = ch.count + 1
          ∧ (t.chan m).sum = ch.sum + (if ch.phase = .limited then s.cfg.traction.limit else if ch.duty = 0 then 0
              else if flow = ch.dir then 8 * counts.toNat else 0)
          ∧ (t.chan m).mode = .drive ∧ (t.chan m).duty = ch.duty ∧ (t.chan m).dir = ch.dir ∧ (t.chan m).cbcMark = ch.cbcMark
          ∧ (∀ p, ch.pos = some p → 2 * p < periodTicks s.cfg.traction → ch.phase = .before → 0 < ch.duty →
              (t.chan m).phase = .on ∧ Channel.Shown s.cfg.traction (t.chan m))
          ∧ exec (.currentSample m counts flow) t = .next t)
    ∧ (ch.mode = .drive → ch.phase = .on →
        ∃ t, exec (.cbcLimit m) s = .next t ∧ onlyChan t ∧ (t.chan m).phase = .limited ∧ (t.chan m).cbcMark = true
          ∧ (t.chan m).periodCbc = (ch.periodCbc || !ch.cbcMark)
          ∧ (t.chan m).duty = ch.duty ∧ (t.chan m).mode = .drive ∧ (t.chan m).sum = ch.sum ∧ (t.chan m).dir = ch.dir
          ∧ (t.chan m).leg1.high = false ∧ (t.chan m).leg2.high = false
          ∧ (s.cfg.traction.limitOff = .coast → (t.chan m).leg1.low = false ∧ (t.chan m).leg2.low = false)
          ∧ Channel.Turns s.cfg.traction ch (t.chan m))
    ∧ (ch.mode = .drive → ch.phase = .after ∨ ch.phase = .limited ∨ (ch.phase = .before ∧ ch.duty = 0) →
        exec (.cbcLimit m) s = .next s)

/-- SHORT_DETECTED on a conducting channel and DRVFLT_QUALIFIED at the active level, in RUNNING and STOPPING with no trip reason: the
reason is set, TRIP latched, traction TRIPPED with R and D 0, and every switch of both bridges off; with a reason already set, it stays. A
completion that takes a present motor's persistence count to K trips STALL_A or STALL_B, and STALL_A when it takes both there; both
counts are then 0, and the tick completes in TRIPPED. In STOPPING the trip enters HALTED, and the reason is kept (R12, R13, R60, R76, R77,
R78, R79, R84).
That a stall is judged before the speeds are formed, so that one which ends STOPPING abandons the rest of its completion and leaves the
speeds, labour and the speed band as they were, is the model's reading (log entry 18). -/
def Obligations.Trips : Prop :=
  (∀ (s : State) (m : Motor) (level : Level), s.exc.scan = none → s.exc.part.driving = true →
     let tripped := fun (t : State) (r : TripReason) (fault : Option Level) =>
       t.bfu.trip = r ∧ t.bfu.drvflt = fault ∧ t.exc.nlat.getLsbD 7 = true ∧ t.srg.traction = .tripped ∧ t.srg.r = 0
       ∧ t.srg.motors.a.d = 0 ∧ t.srg.motors.b.d = 0 ∧ t.srg.brakeOrder = false ∧ t.srg.turnTimer = none
       ∧ t.srg.bridgeDir = s.srg.bridgeDir
       ∧ (∀ n, (t.chan n).mode = .off ∧ (t.chan n).leg1.high = false ∧ (t.chan n).leg1.low = false
           ∧ (t.chan n).leg2.high = false ∧ (t.chan n).leg2.low = false ∧ (t.chan n).avg = 0)
       ∧ (s.exc.part = .running →
           t = { s with exc := t.exc, srg := t.srg, bfu := t.bfu } ∧ t.exc = { s.exc with nlat := s.exc.nlat ||| 0x80 })
       ∧ (s.exc.part = .stopping → s.mem.wf = true → HaltedFacts
           { s with srg := { s.srg with traction := .tripped }, bfu := { s.bfu with trip := r, drvflt := fault } } t)
     ((s.chan m).conducts = true → s.bfu.trip = .none →
       ∃ t, exec (.shortDetected m) s = .next t ∧ tripped t (match m with | .a => .shortA | .b => .shortB) s.bfu.drvflt)
     ∧ ((s.chan m).conducts = true → s.bfu.trip ≠ .none → exec (.shortDetected m) s = .next s)
     ∧ (level = s.cfg.traction.polarity → s.bfu.trip = .none →
       ∃ t, exec (.drvfltQualified level) s = .next t ∧ tripped t .driver (some level))
     ∧ (level ≠ s.cfg.traction.polarity ∨ s.bfu.trip ≠ .none →
       exec (.drvfltQualified level) s = .next { s with bfu := { s.bfu with drvflt := some level } }))
  ∧ ∀ (s : State) (k : Tick) (ea eb : EmfSet) (f : Option Direction), s.exc.scan = none → s.exc.part.driving = true →
    s.srg.tick = some k → s.bfu.window = some ⟨.converting, f⟩ → s.bfu.trip = .none → 0 < s.cfg.traction.persist →
    let stalls := fun m : Motor =>
      s.cfg.traction.present m = true ∧ (s.chan m).cbcMark = true ∧ s.cfg.traction.persist ≤ (s.chan m).persist + 1
    let trips := fun r : TripReason => ∃ t, exec (.tickCompletion ea eb) s = .next t
      ∧ t.bfu.trip = r ∧ t.exc.nlat.getLsbD 7 = true ∧ t.srg.traction = .tripped ∧ t.srg.r = 0
      ∧ t.srg.motors.a.d = 0 ∧ t.srg.motors.b.d = 0 ∧ (t.chan .a).persist = 0 ∧ (t.chan .b).persist = 0
      ∧ (t.chan .a).mode = .off ∧ (t.chan .b).mode = .off ∧ t.srg.tick = none
      ∧ (s.exc.part = .running → t.exc.part = .running ∧ t.bfu.window = some ⟨.ending, f⟩)
      ∧ (s.exc.part = .stopping → s.mem.wf = true → HaltedFacts
          { s with srg := { s.srg with traction := .tripped }, bfu := { s.bfu with trip := r } } t)
    (stalls .a → trips .stallA) ∧ (¬ stalls .a → stalls .b → trips .stallB)

/-! ### The chuff clock -/

/-- AXS_SAMPLE: outside RUNNING and STOPPING nothing happens. Until a level is qualified, K equal samples in a row qualify it, and make no
edge; then a sample at the qualified level clears the run, and the K-th different one in a row makes the edge: rising to high, falling to
low. An edge that the selection, RISING, FALLING or BOTH, does not admit goes no further; an admitted one counts toward the prescale, and
the P-th is a sensor event, whose period is captured. It is a chuff in SENSOR_LIVE, and in SENSOR_LOST where its period is below the lost
time, when the sensor is live again; in SENSOR_LOST otherwise and in VIRTUAL it is captured only. The chuff reaches the sound engine, the
smoke unit, the light unit and EXC, and the running lost timer starts again. LOST_TIMER_EXPIRY makes the sensor lost and latches
SENSOR_LOST (R15, R86 to R90, R93, R94, R125, R142, R154).
The capture timer moves with the samples (log entry 11), and an expiry of a lost timer that does not run changes nothing (log entry 5):
the model's choices. -/
def Obligations.SensorEvents : Prop :=
  ∀ (s : State) (x : Level),
    let k := s.chk
    let count := s.cfg.chuff.qualifier
    let counted := k.capture.map fun n => min 16777215 (n + 50)
    let samples := fun (level : Option Level) (run : Nat) => exec (.axsSample x) s = .next { s with chk := { k with
      level := level, run := run, previous := some x, capture := counted } }
    let admits := s.cfg.chuff.edge = .both ∨ (s.cfg.chuff.edge = .rising ∧ x = .high) ∨ (s.cfg.chuff.edge = .falling ∧ x = .low)
    let edged : Chk := { k with level := some x, run := 0, previous := some x, capture := counted }
    let period := counted.getD 16777215
    let event : Chk := { edged with prescale := 0, lastSensor := period, capture := some 0 }
    (s.exc.part.driving = false → exec (.axsSample x) s = .next s)
    ∧ (s.exc.part.driving = true →
      (k.level = none →
        let run := if k.previous = some x then k.run + 1 else 1
        (run < count → samples none run) ∧ (count ≤ run → samples (some x) 0))
      ∧ (k.level = some x → samples (some x) 0)
      ∧ ∀ q, k.level = some q → q ≠ x →
        (k.run + 1 < count → samples (some q) (k.run + 1))
        ∧ (count ≤ k.run + 1 →
          (¬ admits → exec (.axsSample x) s = .next { s with chk := edged })
          ∧ (admits → k.prescale + 1 < s.cfg.chuff.prescale →
              exec (.axsSample x) s = .next { s with chk := { edged with prescale := k.prescale + 1 } })
          ∧ (admits → s.cfg.chuff.prescale ≤ k.prescale + 1 →
            (k.source = .virtual ∨ (k.source = .sensorLost ∧ s.cfg.chuff.lostTime * 1000 ≤ period) →
              exec (.axsSample x) s = .next { s with chk := event })
            ∧ (k.source = .sensorLive ∨ (k.source = .sensorLost ∧ period < s.cfg.chuff.lostTime * 1000) →
              let chuffPeriod := if k.first then 65535 else k.interval
              ∃ t, exec (.axsSample x) s = .next t
                ∧ t.chk = { event with
                    source := .sensorLive, lostTimer := k.lostTimer.map fun _ => s.cfg.chuff.lostTime, lastChuff := chuffPeriod,
                    next := (k.next + 1) % s.cfg.chuff.perCycle, first := false, interval := 0, count := k.count + 1 }
                ∧ t = { s with chk := t.chk, snd := t.snd, smk := t.smk, lgt := t.lgt, exc := t.exc }
                ∧ ∃ clips, ChuffReaches s t k.next chuffPeriod clips))))
    ∧ (k.source = .sensorLive → k.lostTimer ≠ none →
        exec .lostTimerExpiry s = .next { s with
          chk := { k with source := .sensorLost, lostTimer := none }, exc := { s.exc with nlat := s.exc.nlat ||| 0x800 } })
    ∧ (k.source ≠ .sensorLive ∨ k.lostTimer = none → exec .lostTimerExpiry s = .next s)

/-! ### The sound engine -/

/-- OUTPUT_SAMPLE_TIMER: the previous output value goes to the modulator, and the next one is the sum over all active voices of sample
times gain, scaled by the effective volume with floor, and clamped; every active voice advances by its pitch step, a LOOPING one back into
its loop; one at its clip end becomes FREE and leaves the start order list, and those of them that are tagged make their end records in
ascending voice number (R100, R106, R107, R110 to R113). In RUNNING and STOPPING the expiry that brings the squeal check count round to 0
makes a check due (R129). CARRIER_PERIOD_START takes the value handed over, SPKP is high for Out + 32,768 of 65,536 parts of the period and
SPKN for the rest, and both are low while the modulator is stopped (R114, R116).
That a SOUNDING squeal whose voice ends is SPENT is read by inference (log entry 15); that either timer changes nothing where R106 and R114
say that it does not run, in IDLE and with the modulator stopped, is the model's choice (log entry 5). -/
def Obligations.OutputSamples : Prop :=
  ∀ s : State, s.exc.part ≠ .idle →
    let voices : List (Fin 8) := [0, 1, 2, 3, 4, 5, 6, 7]
    let volume := min s.snd.master s.snd.cap
    let part := fun v : Fin 8 =>
      let x := s.voice v
      if x.state = .free then (0 : Int)
      else (s.mem.read ((x.copy.start + x.pos / 256) % 524288)).toInt * (x.copy.gain * x.volume / 255 : Nat)
    let ended := voices.filter fun v =>
      let x := s.voice v
      decide ((x.state = .playing ∨ x.state = .released) ∧ 256 * x.copy.length ≤ x.pos + x.pitch)
    let told := ended.filter fun v => (s.voice v).tag != 0
    let slot := fun i : Nat => Fin.ofNat 8 ((s.snd.endCount.toNat + i) % 8)
    ∃ t, exec .outputSampleTimer s = .next t
      ∧ t = { s with snd := t.snd, exc := { s.exc with nlat := t.exc.nlat } }
      ∧ t.snd = { s.snd with
          modIn := s.snd.out, out := t.snd.out, voices := t.snd.voices, order := t.snd.order, endList := t.snd.endList,
          endCount := t.snd.endCount, squeal := t.snd.squeal, squealCount := t.snd.squealCount, squealDue := t.snd.squealDue }
      ∧ t.snd.out = max (-32768) (min ((voices.map part).sum * (volume : Int) / 256) 32767)
      ∧ (∀ v, let x := s.voice v
        (x.state = .free → t.voice v = x)
        ∧ (v ∈ ended → t.voice v = {})
        ∧ (x.state = .playing ∨ x.state = .released → v ∉ ended → t.voice v = { x with pos := x.pos + x.pitch })
        ∧ (x.state = .looping → x.copy.loopStart < x.copy.loopEnd →
          ∃ n p, t.voice v = { x with pos := p }
            ∧ p + n * ((x.copy.loopEnd - x.copy.loopStart) * 256) = x.pos + x.pitch
            ∧ p < x.copy.loopEnd * 256 ∧ (0 < n → x.copy.loopStart * 256 ≤ p)))
      ∧ (s.orderOk → t.snd.order = s.snd.order.filter fun v => !ended.contains v)
      ∧ t.snd.endCount = s.snd.endCount + BitVec.ofNat 32 told.length
      ∧ t.exc.nlat = (if told = [] then s.exc.nlat else s.exc.nlat ||| 0x10)
      ∧ (∀ i < 8, t.snd.endList.get (slot i) = match told[i]? with
          | some v => ⟨(s.voice v).tag, .playedOut, v.val⟩
          | none => s.snd.endList.get (slot i))
      ∧ t.snd.squeal = (if (ended.any fun v => (s.voice v).tag == 0x8010) = true ∧ s.snd.squeal = .sounding then .spent else s.snd.squeal)
      ∧ exec .outputSampleTimer { s with exc := { s.exc with part := .idle } } = .next { s with exc := { s.exc with part := .idle } }
      ∧ (s.exc.part.driving = true → t.snd.squealCount = (if 159 ≤ s.snd.squealCount then 0 else s.snd.squealCount + 1)
          ∧ t.snd.squealDue = (s.snd.squealDue || decide (159 ≤ s.snd.squealCount)))
      ∧ (s.exc.part.driving = false → t.snd.squealCount = s.snd.squealCount ∧ t.snd.squealDue = s.snd.squealDue)
      ∧ (s.snd.modOn = true → -32768 ≤ s.snd.modIn → s.snd.modIn ≤ 32767 → ∃ n : Nat, (n : Int) = s.snd.modIn + 32768
          ∧ let u := { s with snd := { s.snd with modNow := s.snd.modIn } }
            exec .carrierPeriodStart s = .next u ∧ u.spkpHigh = n ∧ u.spknHigh = 65536 - n)
      ∧ (s.snd.modOn = false → exec .carrierPeriodStart s = .next s ∧ s.spkpHigh = 0 ∧ s.spknHigh = 0)

/-- START_BEGIN takes the oldest waiting start: refused INACTIVE with SND inactive and BAD_PARAM with a field out of range, and otherwise
in progress with its descriptor still to be read (R101). START_DECIDED once its four descriptor words have been read: refused INACTIVE
where SND is inactive and BAD_CLIP where the descriptor is invalid; CHUFF takes voice 0 and BACKGROUND voice 1, untagged and with priority
0; POOL with a tag that an active pool voice carries restarts that voice in place, its old start ending CUT with its end record; POOL
with tag 0 or any other tag takes the lowest-numbered FREE pool voice; a voice started joins the end of the start order list; and with no
voice free and none of lower priority the start is refused NO_VOICE, and no voice changes (R98, R101 to R105). Every outcome is handed
back to its requester: written to the PLAY cue that waits for it, and a refusal making a SOUNDING squeal SILENT (R119, R130).
For a PLAY cue this is stated where its record is the last one of its scan and no other request is at the arbiter. That an inactive or
ill-formed start is refused before its descriptor is read (log entry 34), that a start in progress at a shedding stays refused (log entry
33), and that a SOUNDING squeal whose voice is restarted is SPENT (log entry 15), is the model's reading; that the outcome of either of two
squeal starts counts is the model's choice (log entry 50). -/
def Obligations.StartsBeginAndDecide : Prop :=
  (∀ (s : State) (r : StartReq) (rest : List StartReq), s.Answers r.asker → s.snd.current = none → s.snd.queue = r :: rest →
     let inactive := s.exc.part = .idle ∨ s.exc.part = .halted ∨ s.sup.state = .dark
     let ok := 1 ≤ r.pitch ∧ r.pitch ≤ 1023 ∧ r.volume ≤ 255 ∧ r.priority ≤ 7 ∧ r.clip ≤ 127
     let begun : State := { s with snd := { s.snd with queue := rest } }
     (inactive → ∃ t, exec .startBegin s = .next t ∧ OutcomeHanded begun t r.asker 3)
     ∧ (¬ inactive → ¬ ok → ∃ t, exec .startBegin s = .next t ∧ OutcomeHanded begun t r.asker 7)
     ∧ (¬ inactive → ok → exec .startBegin s = .next { s with snd := { s.snd with queue := rest, current := some { req := r } } }))
  ∧ ∀ (s : State) (w : StartWork), s.Answers w.req.asker → s.snd.current = some w → w.words.length = 4 →
    let inactive := w.doomed = true ∨ s.exc.part = .idle ∨ s.exc.part = .halted ∨ s.sup.state = .dark
    let c := Clip.ofWords w.words
    let valid := 1 ≤ c.length ∧ 0x2800 ≤ c.start ∧ c.start + c.length ≤ 0x80000
      ∧ (c.loopEnd = 0 ∨ (c.loopStart < c.loopEnd ∧ c.loopEnd ≤ c.length))
    let made := fun (priority : Nat) (tag : Half) =>
      ({ state := if c.loopEnd ≠ 0 ∧ w.req.loop = true then (if w.req.mark then .released else .looping) else .playing,
         clip := w.req.clip, copy := c, pos := 0, pitch := w.req.pitch, volume := w.req.volume, priority := priority,
         tag := tag } : Voice)
    let refused := fun reason : Nat => ∃ t, exec .startDecided s = .next t
      ∧ OutcomeHanded { s with snd := { s.snd with current := none } } t w.req.asker reason
    (inactive → refused 3)
    ∧ (¬ inactive → ¬ valid → refused 10)
    ∧ (¬ inactive → valid → w.req.cls ≠ .pool → (s.voice 0).tag = 0 → (s.voice 1).tag = 0 →
        ∃ u t, exec .startDecided s = .next t ∧ OutcomeHanded u t w.req.asker 0 ∧ u = { s with snd := u.snd }
        ∧ u.snd = { s.snd with current := none, voices := u.snd.voices, order := u.snd.order }
        ∧ (0 ∉ s.snd.order → 1 ∉ s.snd.order → u.snd.order = s.snd.order)
        ∧ u.snd.voices = s.snd.voices.set (if w.req.cls = .chuff then 0 else 1) (made 0 0))
    ∧ (¬ inactive → valid → w.req.cls = .pool → s.orderOk →
        (∀ v : Fin 8, w.req.tag ≠ 0 → s.tagsOk → v ∈ poolVoices → (s.voice v).active = true → (s.voice v).tag = w.req.tag →
          ∃ u t, exec .startDecided s = .next t ∧ OutcomeHanded u t w.req.asker 0 ∧ u = { s with snd := u.snd, exc := u.exc }
          ∧ VoiceEnded s u v .cut
          ∧ u.snd = { s.snd with
              current := none, voices := s.snd.voices.set v (made w.req.priority w.req.tag), order := s.snd.order.erase v ++ [v],
              endList := u.snd.endList, endCount := u.snd.endCount, squeal := u.snd.squeal })
        ∧ (w.req.tag = 0 ∨ (∀ v, v ∈ poolVoices → (s.voice v).active = true → (s.voice v).tag ≠ w.req.tag) →
          (∀ v : Fin 8, v ∈ poolVoices → (s.voice v).active = false →
            (∀ u, u ∈ poolVoices → u < v → (s.voice u).active = true) →
            ∃ t, exec .startDecided s = .next t
            ∧ OutcomeHanded { s with snd := { s.snd with
                current := none, voices := s.snd.voices.set v (made w.req.priority w.req.tag), order := s.snd.order ++ [v] } }
              t w.req.asker 0)
          ∧ ((∀ v, v ∈ poolVoices → (s.voice v).active = true) → (∀ v, v ∈ s.snd.order → w.req.priority ≤ (s.voice v).priority) →
            refused 9)))

/-- START_DECIDED of a POOL start with every pool voice active and none that carries its tag: the victim is the voice of lowest priority
below the request's, the earliest started among equals; it ends STOLEN, with an end record if it is tagged, and the request joins the
end of the start order list on it. The outcome is handed back, and written to the PLAY cue that waits for it (R100, R104, R105, R111,
R119). For a PLAY cue this is stated where its record is the last one of its scan and no other request is at the arbiter, which R6 would
serve before the scan goes on. That a SOUNDING squeal whose voice is stolen is SPENT is the model's reading (log entry 15). -/
def Obligations.PoolSteals : Prop :=
  ∀ (s : State) (w : StartWork) (before after : List (Fin 8)) (v : Fin 8), s.Answers w.req.asker →
    s.snd.current = some w → w.words.length = 4 → w.doomed = false → s.exc.part ≠ .idle → s.exc.part ≠ .halted →
    s.sup.state ≠ .dark → w.req.cls = .pool → w.req.tag = 0 ∨ (∀ u, u ∈ poolVoices → (s.voice u).tag ≠ w.req.tag) →
    (Clip.ofWords w.words).valid = true → (∀ u, u ∈ poolVoices → (s.voice u).active = true) → s.orderOk →
    s.snd.order = before ++ v :: after → (s.voice v).priority < w.req.priority →
    (∀ u, u ∈ before → (s.voice v).priority < (s.voice u).priority) → (∀ u, u ∈ after → (s.voice v).priority ≤ (s.voice u).priority) →
    let c := Clip.ofWords w.words
    let made : Voice :=
      { state := if c.loopEnd ≠ 0 ∧ w.req.loop = true then (if w.req.mark then .released else .looping) else .playing,
        clip := w.req.clip, copy := c, pos := 0, pitch := w.req.pitch, volume := w.req.volume, priority := w.req.priority,
        tag := w.req.tag }
    ∃ u t, exec .startDecided s = .next t ∧ OutcomeHanded u t w.req.asker 0 ∧ u = { s with snd := u.snd, exc := u.exc }
      ∧ VoiceEnded s u v .stolen
      ∧ u.snd = { s.snd with
          current := none, voices := s.snd.voices.set v made, order := before ++ after ++ [v],
          endList := u.snd.endList, endCount := u.snd.endCount, squeal := u.snd.squeal }

/-- SQUEAL_CHECK of a check that is due, in RUNNING or STOPPING: from SILENT the condition makes SOUNDING and a POOL start of tag
0x8010, which a full start queue refuses at once, so that SILENT stays; from SOUNDING its end makes SILENT and a release by that tag, in
which a LOOPING voice of the tag becomes RELEASED and every start of the tag, waiting or in progress, takes the release mark, while every
other voice and start stays; from SPENT its end makes SILENT; in SILENT without the condition, and in the other states with it, the check
changes nothing (R101, R108, R129, R130). A release is stated for active voices with distinct tags (StepsKeepStartOrder).
That a command with no check due changes nothing, and that a due check waits for its command, is the model's choice (log entry 5). -/
def Obligations.SquealChecks : Prop :=
  ∀ s : State,
    let holds := s.cfg.sound.sqClip ≠ none
      ∧ (s.srg.traction = .moving ∨ s.srg.traction = .turning ∨ s.srg.traction = .eBrake)
      ∧ s.srg.labour ≤ 2 ∧ s.cfg.sound.sqLow ≤ s.srg.vl ∧ s.srg.vl ≤ s.cfg.sound.sqHigh
    let made := fun q : SquealState => { s with snd := { s.snd with squeal := q, squealDue := false } }
    (s.exc.part.driving = false ∨ s.snd.squealDue = false → exec .squealCheck s = .next s)
    ∧ (s.exc.part.driving = true → s.snd.squealDue = true →
      (s.snd.squeal = .silent → holds → s.snd.queue.length < 32 → ∃ r, exec .squealCheck s = .next { s with snd := { s.snd with
          squeal := .sounding, squealDue := false, queue := s.snd.queue ++ [r] } }
        ∧ r.cls = .pool ∧ some r.clip = s.cfg.sound.sqClip ∧ r.pitch = 256 ∧ r.volume = s.cfg.sound.sqVolume
        ∧ r.priority = s.cfg.sound.sqPriority ∧ r.tag = 0x8010 ∧ r.loop = true)
      ∧ (s.snd.squeal = .silent → holds → 32 ≤ s.snd.queue.length → exec .squealCheck s = .next (made .silent))
      ∧ (s.snd.squeal = .sounding → ¬ holds → s.tagsOk →
          let marked := fun q : StartReq => if q.tag = 0x8010 then { q with mark := true } else q
          ∃ t, exec .squealCheck s = .next t
            ∧ t = { s with snd := { s.snd with
                squeal := .silent, squealDue := false, voices := t.snd.voices, queue := s.snd.queue.map marked,
                current := s.snd.current.map fun w => { w with req := marked w.req } } }
            ∧ ∀ v, t.voice v = if (s.voice v).state = .looping ∧ (s.voice v).tag = 0x8010
                then { s.voice v with state := .released } else s.voice v)
      ∧ (s.snd.squeal = .spent → ¬ holds → exec .squealCheck s = .next (made .silent))
      ∧ ((s.snd.squeal = .silent ∧ ¬ holds) ∨ (s.snd.squeal ≠ .silent ∧ holds) →
          exec .squealCheck s = .next (made s.snd.squeal)))

/-! ### The smoke unit -/

/-- SMOKE_TIMER while the smoke timer runs, in RUNNING, STOPPING, HALTED and ADOPTING from HALTED: the code is converted by the
thermistor table, between two points by interpolation; a code that the table does not cover latches the fault, and a converted
temperature sets the hot latch at Tmax and clears it 30 degrees below, with SMOKE_ALERT at the setting of either. Then the smoke state is
evaluated by rank, with what a change of state or target does to heater, fan and puff, as at every other evaluation; READY uses one unit
of fluid, the last one making the state DRY with SMOKE_ALERT; and the heater duty is formed in WARMING and READY from the target, kept at or
below the allowance, and is 0 in every other state. KICK_END drops the fan to the puff duty, PUFF_END returns it to its idle duty (R133 to
R139, R142, R143).
That SMOKE_TIMER without a running timer, and KICK_END and PUFF_END with no puff, change nothing is the model's choice (log entry 5). -/
def Obligations.SmokeEvents : Prop :=
  (∀ (points : List (Nat × Int)) (c i : Nat) (c0 c1 : Nat) (t0 t1 : Int), (points.map Prod.fst).Pairwise (fun a b => b < a) →
    (points[i]? = some (c0, t0) → points[i + 1]? = some (c1, t1) → c ≤ c0 → c1 < c →
      temperatureOf c points = some (t0 + (t1 - t0) * ((c0 : Int) - c) / ((c0 : Int) - c1)))
    ∧ (points.getLast? = some (c1, t1) → (c = c1 → temperatureOf c points = some t1) ∧ (c < c1 → temperatureOf c points = none))
    ∧ (points.head? = some (c0, t0) → c0 < c → temperatureOf c points = none))
  ∧ (∀ s : State, SmokeEvaluated s s.evalSmoke)
  ∧ (∀ (s : State) (code : BitVec 10),
    (s.smk.timer = false ∨ s.exc.part = .idle ∨ (s.exc.part = .adopting ∧ s.haltedLike = false) →
      exec (.smokeTimer code) s = .next s)
    ∧ (s.smk.timer = true → s.exc.part.driving = true ∨ s.haltedLike = true →
      let found := if s.smk.fault = true then none else temperatureOf code.toNat s.cfg.smoke.points
      let fault := s.smk.fault || found.isNone
      let temp := found.getD s.smk.temp
      let hot := if found.isNone then s.smk.hot
        else if s.smk.hot then decide (s.cfg.smoke.tMax - 30 < temp) else decide (s.cfg.smoke.tMax ≤ temp)
      let alert := (fault && !s.smk.fault) || (hot && !s.smk.hot)
      let judged : State := { s with
        smk := { s.smk with fault := fault, temp := temp, hot := hot },
        exc := { s.exc with nlat := if alert then s.exc.nlat ||| 0x1000 else s.exc.nlat } }
      ∃ t v, exec (.smokeTimer code) s = .next t ∧ SmokeEvaluated judged v
        ∧ (∀ (target : Int) (h : Nat), target = (if v.smk.target = .warm then s.cfg.smoke.tWarm else s.cfg.smoke.tSet) →
            (h : Int) = max 0 (min ((target - temp) * s.cfg.smoke.gain / 4) 255) →
            (v.smk.state = .warming → t = { v with smk := { v.smk with heater := min h s.smk.hlim } })
            ∧ (v.smk.state = .ready → 2 ≤ s.smk.fluid →
              t = { v with smk := { v.smk with fluid := s.smk.fluid - 1, heater := min h s.smk.hlim } }))
        ∧ (v.smk.state = .ready → s.smk.fluid = 1 → t = { v with
            smk := { v.smk with fluid := 0, state := .dry, target := .none, heater := 0, fan := 0, puff := none },
            exc := { v.exc with nlat := v.exc.nlat ||| 0x1000 } })
        ∧ (v.smk.state ≠ .warming → v.smk.state ≠ .ready → t = { v with smk := { v.smk with heater := 0 } })))
  ∧ ∀ s : State,
    (∀ f, s.smk.puff = some f → f.kickOver = false → f.kick < f.length → exec .kickEnd s = .next { s with smk := { s.smk with
      puff := some { f with kickOver := true }, fan := f.duty } })
    ∧ (s.smk.puff ≠ none → exec .puffEnd s = .next { s with smk := { s.smk with puff := none, fan := s.cfg.smoke.idle } })
    ∧ (s.smk.puff = none → exec .kickEnd s = .next s ∧ exec .puffEnd s = .next s)

/-! ### The light outputs -/

/-- EFFECT_TIMER: the flicker generator steps, and every output's level is its effect value dimmed and capped, for each of the six effects. The
phase of a BLINK and of an ALTERNATE output advances by one modulo its period, active or not; an output keeps the phase, the fade value and
the flash remaining that its effect does not use. A FADE output moves its fade value from either side toward its level while active, and
toward 0 while not, by its step, or at once with a step of 0. LAMP_PWM_PERIOD_START takes the level last set, and the output is on for level
of 256 parts of the period, for the whole period at 255, and off at 0 (R149 to R155).
The cap is the one last recomputed (log entry 21), which SupplySamples and HoldupAndShare tie to the supply state; that a stopped timer's
command changes nothing is the model's choice (log entry 5). -/
def Obligations.LampEffects : Prop :=
  ∀ (s : State) (k : Fin 8),
    let p := s.cfg.lights.get k
    let l := s.lgt.lamps.get k
    let active := (p.binding = none ∨ ∃ n, p.binding = some n ∧ s.drq.functions.getLsbD n = true)
      ∧ (p.dirCond = .any ∨ (p.dirCond = .forward ∧ s.srg.bridgeDir = .forward) ∨ (p.dirCond = .reverse ∧ s.srg.bridgeDir = .reverse))
      ∧ (p.motion = .any ∨ (p.motion = .standingOnly ∧ s.srg.traction = .standing)
          ∨ (p.motion = .movingOnly ∧ s.srg.traction ≠ .standing))
    let dimmed := ∃ n, p.dim = some n ∧ s.drq.functions.getLsbD n = true
    (s.lgt.timer = false → exec .effectTimer s = .next s)
    ∧ (let u := { s with lgt := { s.lgt with lamps := s.lgt.lamps.set k { l with pwm := l.level } } }
      exec (.lampPwmPeriodStart k) s = .next u
      ∧ (l.level < 255 → (u.lgt.lamps.get k).onShare = l.level) ∧ (255 ≤ l.level → (u.lgt.lamps.get k).onShare = 256))
    ∧ (s.lgt.timer = true → ∃ t v, exec .effectTimer s = .next t ∧ t = { s with lgt := { s.lgt with lfsr := t.lgt.lfsr, lamps := t.lgt.lamps } }
      ∧ t.lgt.lfsr.toNat % 32768 = s.lgt.lfsr.toNat / 2
      ∧ t.lgt.lfsr.getLsbD 15 = ((s.lgt.lfsr.getLsbD 0 ^^ s.lgt.lfsr.getLsbD 2) ^^ (s.lgt.lfsr.getLsbD 3 ^^ s.lgt.lfsr.getLsbD 5))
      ∧ ((t.lgt.lamps.get k).active = true ↔ active) ∧ ((t.lgt.lamps.get k).dimmed = true ↔ dimmed)
      ∧ (dimmed → (t.lgt.lamps.get k).program = v * p.dimLevel / 255) ∧ (¬ dimmed → (t.lgt.lamps.get k).program = v)
      ∧ (t.lgt.lamps.get k).level = min (t.lgt.lamps.get k).program s.lgt.cap
      ∧ (t.lgt.lamps.get k).pwm = l.pwm
      ∧ (p.effect = .steady → (active → v = p.level) ∧ (¬ active → v = 0))
      ∧ (∀ period on, p.effect = .blink period on →
          (active ∧ l.phase < on → v = p.level) ∧ (¬ (active ∧ l.phase < on) → v = 0)
          ∧ (t.lgt.lamps.get k).phase = (l.phase + 1) % period)
      ∧ ((∀ period on, p.effect ≠ .blink period on) → (∀ q period, p.effect ≠ .alternate q period) →
          (t.lgt.lamps.get k).phase = l.phase)
      ∧ ((∀ rise fall, p.effect ≠ .fade rise fall) → (t.lgt.lamps.get k).fade = l.fade)
      ∧ ((∀ low flash, p.effect ≠ .chuffFlash low flash) → (t.lgt.lamps.get k).flash = l.flash)
      ∧ (∀ q period, p.effect = .alternate q period →
          (active ∧ k < q ∧ l.phase < period / 2 → v = p.level) ∧ (active ∧ k < q ∧ period / 2 ≤ l.phase → v = 0)
          ∧ (active ∧ q ≤ k ∧ period / 2 ≤ l.phase → v = p.level) ∧ (active ∧ q ≤ k ∧ l.phase < period / 2 → v = 0)
          ∧ (¬ active → v = 0) ∧ (t.lgt.lamps.get k).phase = (l.phase + 1) % period)
      ∧ (∀ low, p.effect = .flicker low →
          (active → v = low + t.lgt.lfsr.toNat % 256 * (p.level - low) / 256) ∧ (¬ active → v = 0))
      ∧ (∀ rise fall target, p.effect = .fade rise fall → (active → target = p.level) → (¬ active → target = 0) →
          v = (t.lgt.lamps.get k).fade
          ∧ (l.fade < target → v = if rise = 0 then target else min (l.fade + rise) target)
          ∧ (target < l.fade → v = if fall = 0 then target else max (l.fade - fall) target)
          ∧ (l.fade = target → v = target))
      ∧ (∀ low flash, p.effect = .chuffFlash low flash → (t.lgt.lamps.get k).flash = l.flash - 10
          ∧ (active → v = if 10 < l.flash then p.level else low) ∧ (¬ active → v = 0)))

/-! ### The radio receiver -/

/-- FRAME_BEGIN takes a free assembly buffer where it begins 50 µs or more after the previous end or there was none, and marks the
frame for OVERRUN where it begins earlier or no buffer is free; FRAME_ARRIVAL of an overrun frame, or of one that fails a link check,
keeps the reason and frees the buffer, and in ADOPTING the frame is dropped without a reason; FAILSAFE_EXPIRY frees the holder, and
stops the locomotive if radio drives it. The link checks come in the order RUNT, LONG, LENGTH, CHECK; a frame passes with its length byte
right and its last two body bytes the check of those before them; and the check of "123456789" is 0x29B1 (R32, R159, R160, R161, R167).
Bits and times are operands (log entry 29), and the first buffer is taken where both are free (log entry 47): the model's choices. -/
def Obligations.LinkEvents : Prop :=
  (∀ (s : State) (time bits : Nat) (bytes : List Byte), s.exc.scan = none →
     let begins := fun b : BufferId => exec (.frameBegin time) s
       = .next { s with rrx := { s.rrx.setBuffer b (some []) with frame := some (.stored b) } }
     let overruns := exec (.frameBegin time) s = .next { s with rrx := { s.rrx with frame := some .overrun } }
     let ended := { s.rrx with frame := none, lastEnd := some time }
     (s.rrx.link = false → exec (.frameBegin time) s = .next s)
     ∧ (s.rrx.link = true → s.rrx.frame = none →
         (∀ e, s.rrx.lastEnd = some e → time < e + 50 → overruns)
         ∧ ((∀ e, s.rrx.lastEnd = some e → e + 50 ≤ time) →
           (s.rrx.buf1 = none → begins .one) ∧ (s.rrx.buf1 ≠ none → s.rrx.buf2 = none → begins .two)
           ∧ (s.rrx.buf1 ≠ none → s.rrx.buf2 ≠ none → overruns)))
     ∧ (s.exc.part = .running ∨ s.exc.part = .stopping ∨ s.exc.part = .halted →
         (s.rrx.frame = some .overrun →
           exec (.frameArrival time bits bytes) s = .next { s with rrx := { ended with discard := .overrun } })
         ∧ ∀ b d, s.rrx.frame = some (.stored b) → linkCheck bits bytes = some d →
           exec (.frameArrival time bits bytes) s = .next { s with rrx := { ended.setBuffer b none with discard := d } })
     ∧ (s.exc.part = .adopting →
         (s.rrx.frame = some .overrun → exec (.frameArrival time bits bytes) s = .next { s with rrx := ended })
         ∧ ∀ b, s.rrx.frame = some (.stored b) →
           exec (.frameArrival time bits bytes) s = .next { s with rrx := ended.setBuffer b none })
     ∧ (s.rrx.failsafe ≠ none → exec .failsafeExpiry s = .next { s with
         rrx := { s.rrx with holder := none, failsafe := none }, exc := { s.exc with nlat := s.exc.nlat ||| 0x200 },
         drq := if s.drq.source = .radio then { s.drq with source := .failsafe, origin := .speedUnits 0, s := 0 } else s.drq }))
  ∧ (∀ (bits : Nat) (bytes : List Byte) (l : Byte), bytes.head? = some l →
    (bits = 0 ∨ bits % 8 ≠ 0 → linkCheck bits bytes = some .runt)
    ∧ (bits ≠ 0 → bits % 8 = 0 → 264 ≤ bits → linkCheck bits bytes = some .long)
    ∧ (bits ≠ 0 → bits % 8 = 0 → bits ≤ 256 → l.toNat < 9 ∨ 25 < l.toNat ∨ bits ≠ 8 * (l.toNat + 1) →
        linkCheck bits bytes = some .length)
    ∧ (9 ≤ l.toNat → l.toNat ≤ 25 → bits = 8 * (l.toNat + 1) →
        let check := 256 * (bytes.getD (l.toNat - 2) 0).toNat + (bytes.getD (l.toNat - 1) 0).toNat
        (check = (crc16 (bytes.take (l.toNat - 2))).toNat → linkCheck bits bytes = none)
        ∧ (check ≠ (crc16 (bytes.take (l.toNat - 2))).toNat → linkCheck bits bytes = some .check)))
  ∧ crc16 [0x31, 0x32, 0x33, 0x34, 0x35, 0x36, 0x37, 0x38, 0x39] = 0x29B1

/-- FRAME_ARRIVAL of a checked frame: one that is not addressed to the part, or repeats its sender's sequence number within 300 ms,
is dropped; any other goes to the inbox writer with the verdict of the first step that refuses it (INACTIVE, NOT_FOR_BROADCAST,
UNKNOWN_KIND, BAD_PAYLOAD, NOT_BOUND, NO_RIGHT, HOST_GATED, NOT_HOLDER), or acts and is recorded: THROTTLE with its sender the holder
and the direction turned via the group address with group reverse, FUNCTION, ESTOP, RELEASE and SOUND with ACTED, HOST_DATA with
FOR_HOST; a THROTTLE that is a zero request in E_HELD or TRIPPED is a latch clear as well. A first THROTTLE frame in RUNNING, to the unit
address of a part with no group, no bind entry, no host lead and no holder, outside E_HELD and TRIPPED, is written out in full: the sender
becomes the holder with the full failsafe time, DRQ takes the throttle, and the frame goes to the inbox writer with verdict ACTED, its
buffer still busy (R29, R33, R34, R36, R57, R59, R80, R123, R124, R160, R162 to R166, R168, R169, R170). Stated for no scan that waits for a
start's outcome, and for a key start with a free place in the start queue. -/
def Obligations.FrameKinds : Prop :=
  (∀ (s : State) (time bits : Nat) (bytes : List Byte) (f : Frame) (throttle dir : Byte) (i : Fin 8),
     s.exc.scan = none → s.exc.part = .running → s.rrx.frame = some (.stored .one) → linkCheck bits bytes = none →
     f = Frame.parse bytes → f.kind = 1 → f.payload = [throttle, dir] → dir.toNat ≤ 2 →
     1 ≤ f.sender.toNat → f.sender.toNat ≤ 65534 → 1 ≤ s.cfg.radio.unit → f.target.toNat = s.cfg.radio.unit → s.cfg.radio.group = 0 →
     s.cfg.radio.binds = [] → s.cfg.radio.hostLead = false → s.rrx.holder = none →
     findEntry s.rrx.table f.sender = none → freeEntry s.rrx.table = some i →
     s.srg.traction ≠ .eHeld → s.srg.traction ≠ .tripped →
     ∃ t, exec (.frameArrival time bits bytes) s = .next t
       ∧ t = { s with rrx := t.rrx, drq := t.drq, exc := t.exc }
       ∧ t.rrx = { s.rrx with
           frame := none, lastEnd := some time, buf1 := some bytes, signal := f.signal, holder := some ⟨f.sender, s.exc.ms⟩,
           failsafe := some s.cfg.radio.failsafe, table := s.rrx.table.set i (some ⟨f.sender, f.seq, s.exc.ms⟩) }
       ∧ t.drq = { s.drq with
           source := .radio, origin := .throttle (min throttle.toNat 200),
           dir := if dir = 0 then .forward else if dir = 1 then .reverse else s.drq.dir,
           s := curveValue s.cfg.curve (min throttle.toNat 200) / (if s.drq.shunt then 2 else 1) }
       ∧ ∃ j, t.exc = { s.exc with inboxQueue := s.exc.inboxQueue ++ [j] } ∧ j.buffer = .one ∧ j.record.verdict = .acted
           ∧ j.record.kind = 1 ∧ j.record.sender = f.sender ∧ j.record.target = f.target ∧ j.record.seq = f.seq
           ∧ j.record.length = 2 ∧ j.record.time = s.exc.ms ∧ j.record.payload = [throttle, dir])
  ∧ ∀ (s : State) (time bits : Nat) (bytes : List Byte) (b : BufferId) (i : Fin 8), s.exc.scan = none →
    s.rrx.frame = some (.stored b) → linkCheck bits bytes = none →
    s.exc.part = .running ∨ s.exc.part = .stopping ∨ s.exc.part = .halted →
    let f := Frame.parse bytes
    let kind := f.kind.toNat
    let p := fun j => (f.payload.getD j 0).toNat
    let c := s.cfg.radio
    let hostData := 16 ≤ kind ∧ kind ≤ 31
    let viaGroup := 1 ≤ c.group ∧ f.target.toNat = 4095 + c.group
    let addressed := 1 ≤ f.sender.toNat ∧ f.sender.toNat ≤ 65534 ∧ (f.target = 0 ∨ f.target.toNat = c.unit ∨ viaGroup)
    let repeats := ∃ e, findEntry s.rrx.table f.sender = some i ∧ s.rrx.table.get i = some e ∧ e.seq = f.seq
      ∧ (s.exc.ms - e.heard).toNat < 300
    let entered := (∃ e, findEntry s.rrx.table f.sender = some i ∧ s.rrx.table.get i = some e
        ∧ (e.seq ≠ f.seq ∨ 300 ≤ (s.exc.ms - e.heard).toNat))
      ∨ (findEntry s.rrx.table f.sender = none ∧ (freeEntry s.rrx.table = some i
        ∨ (freeEntry s.rrx.table = none ∧ i = oldestEntry s.rrx.table s.exc.ms)))
    let wellFormed := (kind = 1 ∧ f.payload.length = 2 ∧ p 1 ≤ 2) ∨ (kind = 2 ∧ f.payload.length = 5 ∧ 1 ≤ p 0 ∧ p 0 ≤ 3)
      ∨ ((kind = 3 ∨ kind = 4) ∧ f.payload.length = 0) ∨ (kind = 5 ∧ f.payload.length = 2 ∧ p 0 ≤ 15 ∧ p 1 ≤ 1)
      ∨ (hostData ∧ f.payload.length ≤ 16)
    let bound := c.binds.find? fun x => x.1 == f.sender
    let enough := fun r : Rights => hostData ∨ r = .drive ∨ (r = .functions ∧ (kind = 2 ∨ kind = 5))
    let holds := ∃ h, s.rrx.holder = some h ∧ h.id = f.sender
    let outcome := exec (.frameArrival time bits bytes) s
    let heard := s.heardFrame time b bytes
    let judged := s.judgedFrame time b bytes i
    (¬ addressed → outcome = .next { s with rrx := heard.setBuffer b none })
    ∧ (addressed → repeats → outcome = .next { s with rrx := { heard.setBuffer b none with
        table := s.rrx.table.set i (some ⟨f.sender, f.seq, s.exc.ms⟩) } })
    ∧ (addressed → entered →
      (s.exc.part = .halted ∨ (s.exc.part = .stopping ∧ kind ≠ 3) → outcome = .next (judged .inactive))
      ∧ (s.exc.part = .running ∨ (s.exc.part = .stopping ∧ kind = 3) →
        (f.target = 0 → kind ≠ 3 → ¬ hostData → outcome = .next (judged .notForBroadcast))
        ∧ (f.target ≠ 0 ∨ kind = 3 ∨ hostData →
          (kind = 0 ∨ (5 < kind ∧ ¬ hostData) → outcome = .next (judged .unknownKind))
          ∧ ((1 ≤ kind ∧ kind ≤ 5) ∨ hostData → ¬ wellFormed → outcome = .next (judged .badPayload))
          ∧ (wellFormed →
            (kind ≠ 3 → c.binds ≠ [] → bound = none → outcome = .next (judged .notBound))
            ∧ (∀ x, kind ≠ 3 → bound = some x → ¬ enough x.2 → outcome = .next (judged .noRight))
            ∧ (kind = 3 ∨ c.binds = [] ∨ (∃ x, bound = some x ∧ enough x.2) →
              (kind = 1 → c.hostLead = true → outcome = .next (judged .hostGated))
              ∧ (kind = 1 → c.hostLead = false → s.rrx.holder ≠ none → ¬ holds → outcome = .next (judged .notHolder))
              ∧ (kind = 1 → c.hostLead = false → s.rrx.holder = none ∨ holds →
                let turned := c.groupReverse = true ∧ viaGroup
                let forward := (p 1 = 0 ∧ ¬ turned) ∨ (p 1 = 1 ∧ turned)
                let reverse := (p 1 = 1 ∧ ¬ turned) ∨ (p 1 = 0 ∧ turned)
                ∃ t, outcome = .next t
                  ∧ RequestTaken { judged .acted with
                      rrx := { (judged .acted).rrx with holder := some ⟨f.sender, s.exc.ms⟩, failsafe := some c.failsafe },
                      drq := { s.drq with
                        source := .radio, origin := .throttle (min (p 0) 200), dir := t.drq.dir,
                        s := curveValue s.cfg.curve (min (p 0) 200) / (if s.drq.shunt then 2 else 1) } } t
                  ∧ (forward → t.drq.dir = .forward) ∧ (reverse → t.drq.dir = .reverse) ∧ (p 1 = 2 → t.drq.dir = s.drq.dir))
              ∧ (kind = 2 → ∃ (op : FunctionOp) (mask : BitVec 32), outcome = .next ((judged .acted).functionOp op mask)
                  ∧ p 0 = (match op with | .set => 1 | .clear => 2 | .toggle => 3)
                  ∧ mask.toNat = 2 ^ 24 * p 1 + 2 ^ 16 * p 2 + 2 ^ 8 * p 3 + p 4)
              ∧ (kind = 3 → ∃ t, outcome = .next t ∧ t = (judged .acted).eStop ∧ EmergencyTaken (judged .acted) t)
              ∧ (kind = 4 → ¬ holds → outcome = .next (judged .notHolder))
              ∧ (kind = 4 → holds → outcome = .next { judged .acted with
                  rrx := { (judged .acted).rrx with holder := none, failsafe := none },
                  drq := if s.drq.source = .radio then { s.drq with source := .failsafe, origin := .speedUnits 0, s := 0 } else s.drq })
              ∧ (kind = 5 →
                let key := s.key (p 0)
                let tag := BitVec.ofNat 16 (0x8000 + p 0)
                (p 1 = 0 → key.clip = none → outcome = .next (judged .acted))
                ∧ (∀ clip, p 1 = 0 → key.clip = some clip → s.snd.queue.length < 32 →
                  outcome = .next { judged .acted with snd := { s.snd with queue := s.snd.queue ++
                    [{ cls := .pool, asker := .key, clip := clip, pitch := 256, volume := key.volume, priority := key.priority,
                       tag := tag, loop := key.mode == .hold }] } })
                ∧ (p 1 = 1 → key.mode = .hold → key.clip ≠ none → outcome = .next ((judged .acted).releaseTag tag))
                ∧ (p 1 = 1 → key.mode ≠ .hold ∨ key.clip = none → outcome = .next (judged .acted)))
              ∧ (hostData → outcome = .next (judged .forHost)))))))

/-! ### The supply monitor -/

/-- SUPPLY_TIMER: the readings are taken, and judged while a POWER group is active, in each supply state. NORMAL: a sample below VLEAN
counts toward LEAN, a second one in a row below VOFF makes HOLDUP with its timer, or DARK where the storage is too low or the hold-up
time 0. LEAN: VLEAN + 500 or more counts toward NORMAL, and a loss is as in NORMAL. HOLDUP: a storage too low makes DARK; VON or more
counts toward NORMAL. DARK: VON or more counts toward NORMAL. A change clears the run counts and latches SUPPLY_CHANGE. It cuts each duty
to the limit of the new state, less the slip cut for the faster motor, and hands it at once; SRG stops at DARK; SMK evaluates its state,
which is SHED outside NORMAL; LGT and SND take the lamp cap and the volume cap of the new state; SND is shed at DARK, and at NORMAL and
LEAN in RUNNING and STOPPING asks for the background clip, unless voice 1 is active or a BACKGROUND start waits (R51, R71, R101, R113,
R115, R127, R136, R155, R156, R173 to R177). In STOPPING a change at which the traction state, or DARK, ends it enters HALTED (R12, R13).
The hold-up timer's remaining time moves at the samples by the model's choice (log entry 11); the lamp cap is recomputed at a change
(log entry 21), and a duty below one that waits (log entry 20) and the squeal at a shedding (log entry 15) are read by inference. -/
def Obligations.SupplySamples : Prop :=
  ∀ (s : State) (vsen hsen : Nat), s.restOk → s.exc.scan = none →
    let vs := min vsen 32000
    let vh := min hsen 32000
    let c := s.cfg.power
    let u := s.sup
    let runs := fun lean recover loss ret : Nat => exec (.supplyTimer vsen hsen) s = .next { s with sup := { u with
      vs := vs, vh := vh, holdup := u.holdup.map (· - 1), lean := lean, recover := recover, loss := loss, ret := ret } }
    let changes := fun (x : Supply) (timer : Option Nat) => ∃ t, exec (.supplyTimer vsen hsen) s = .next t
      ∧ t.sup = { u with vs := vs, vh := vh, state := x, holdup := timer, lean := 0, recover := 0, loss := 0, ret := 0 }
      ∧ t.exc.nlat.getLsbD 13 = true
      ∧ (x = .dark → t.srg.r = 0 ∧ t.srg.motors.a.d = 0 ∧ t.srg.motors.b.d = 0 ∧ (∀ v, (t.voice v).active = false) ∧ t.snd.queue = [])
      ∧ (s.exc.part ≠ .stopping ∨ s.srg.traction.ends = false →
          t.lgt.cap = (if s.haltedLike then 0 else match x with | .normal => 255 | .lean => 255 | .holdup => c.holdLamp | .dark => 0)
          ∧ (∀ k, (t.lgt.lamps.get k).level = min (t.lgt.lamps.get k).program t.lgt.cap)
          ∧ t.snd.cap = min (match x with | .normal => 255 | .lean => c.leanCap | .holdup => c.holdCap | .dark => 0)
            (if s.snd.mute then 0 else 255))
      ∧ (s.exc.part ≠ .stopping ∨ (s.srg.traction.ends = false ∧ x ≠ .dark) →
          t.exc = { s.exc with nlat := t.exc.nlat }
          ∧ (s.exc.part.driving = true ∨ s.haltedLike = true →
              SmokeEvaluated { s with sup := t.sup } { s with sup := t.sup, smk := t.smk })
          ∧ (s.exc.part = .idle ∨ (s.exc.part = .adopting ∧ s.haltedLike = false) → t.smk = s.smk))
      ∧ (x = .dark → s.exc.part ≠ .stopping → DarkEntered s t)
      ∧ (s.exc.part = .stopping → s.srg.traction.ends = true ∨ x = .dark → s.mem.wf = true → HaltedFacts { s with sup := t.sup } t)
      ∧ (s.exc.part ≠ .stopping ∨ s.srg.traction.ends = false → x ≠ .dark →
          let base : Nat := match x with
            | .holdup => min s.cfg.traction.dmax c.holdDmax
            | _ => s.cfg.traction.dmax
          let asks := (x = .normal ∨ x = .lean) ∧ s.exc.part.driving = true ∧ (s.voice 1).active = false
            ∧ (∀ r ∈ s.snd.queue, r.cls ≠ .background) ∧ (∀ w, s.snd.current = some w → w.req.cls ≠ .background)
          t = { s with
            sup := t.sup, exc := { s.exc with nlat := s.exc.nlat ||| 0x2000 }, srg := { s.srg with motors := t.srg.motors },
            bfu := { s.bfu with chans := t.bfu.chans }, snd := { s.snd with cap := t.snd.cap, queue := t.snd.queue },
            smk := t.smk, lgt := t.lgt }
          ∧ (∀ m,
            let d := min (s.srg.motors.get m).d
              (if s.bfu.slip = .slipping ∧ s.bfu.faster = some m then base * (100 - s.cfg.traction.slipCut) / 100 else base)
            t.srg.motors.get m = { s.srg.motors.get m with d := d } ∧ DutyHanded s.cfg.traction (s.chan m) (t.chan m) d)
          ∧ (∀ clip, asks → s.cfg.sound.bgClip = some clip → s.snd.queue.length < 32 → t.snd.queue = s.snd.queue ++
              [{ cls := .background, asker := .background, clip := clip, pitch := 256, volume := s.cfg.sound.bgVolume,
                 priority := 0, tag := 0, loop := true }])
          ∧ (¬ asks ∨ s.cfg.sound.bgClip = none ∨ 32 ≤ s.snd.queue.length → t.snd.queue = s.snd.queue))
    let lost := (0 < c.holdTime → c.vhMin ≤ vh → changes .holdup (some c.holdTime))
      ∧ (c.holdTime = 0 ∨ vh < c.vhMin → changes .dark none)
    let returns := (vs < c.vOn → runs u.lean u.recover u.loss 0)
      ∧ (c.vOn ≤ vs → u.ret + 1 < c.qualifier → runs u.lean u.recover u.loss (u.ret + 1))
      ∧ (c.vOn ≤ vs → c.qualifier ≤ u.ret + 1 → changes .normal none)
    (s.configured = false → runs u.lean u.recover u.loss u.ret)
    ∧ (s.configured = true → 2 ≤ c.qualifier → c.vOff < c.vLean →
      (u.state = .normal →
        (c.vLean ≤ vs → runs 0 u.recover 0 u.ret)
        ∧ (vs < c.vLean → c.vOff ≤ vs → u.lean + 1 < c.qualifier → runs (u.lean + 1) u.recover 0 u.ret)
        ∧ (vs < c.vOff → u.loss = 0 → u.lean + 1 < c.qualifier → runs (u.lean + 1) u.recover 1 u.ret)
        ∧ (vs < c.vLean → c.vOff ≤ vs ∨ u.loss = 0 → c.qualifier ≤ u.lean + 1 → changes .lean none)
        ∧ (vs < c.vOff → 1 ≤ u.loss → lost))
      ∧ (u.state = .lean →
        (c.vLean + 500 ≤ vs → u.recover + 1 < c.qualifier → runs u.lean (u.recover + 1) 0 u.ret)
        ∧ (c.vLean + 500 ≤ vs → c.qualifier ≤ u.recover + 1 → changes .normal none)
        ∧ (vs < c.vLean + 500 → c.vOff ≤ vs → runs u.lean 0 0 u.ret)
        ∧ (vs < c.vOff → u.loss = 0 → runs u.lean 0 1 u.ret)
        ∧ (vs < c.vOff → 1 ≤ u.loss → lost))
      ∧ (u.state = .holdup → (vh < c.vhMin → changes .dark none) ∧ (c.vhMin ≤ vh → returns))
      ∧ (u.state = .dark → returns))

/-- HOLDUP_TIMER_EXPIRY of a running hold-up timer makes the supply DARK, keeping the return run count, in every part state and traction
state: MOVING, TURNING and E_BRAKE become STANDING, E_HELD and TRIPPED stay, R and the duties are 0, every voice is shed, both caps and
every lamp level are 0, and the smoke state is evaluated; in STOPPING, which DARK ends, the part enters HALTED. SHARE_TIMER gives the
heater what the motors leave of the budget, and lowers its duty at once (R12, R61, R113, R115, R136, R138, R156, R175, R177, R178).
That the squeal's answer to its voice's end holds at a shedding too is read by inference (log entry 15); that an expiry of a hold-up timer
that does not run, and SHARE_TIMER while it is stopped, change nothing is the model's choice (log entry 5). -/
def Obligations.HoldupAndShare : Prop :=
  ∀ s : State, s.exc.scan = none →
    (∀ n, s.sup.holdup = some n → ∃ t, exec .holdupTimerExpiry s = .next t
      ∧ t.sup = { s.sup with state := .dark, holdup := none, lean := 0, recover := 0, loss := 0 }
      ∧ (s.exc.part ≠ .stopping → DarkEntered s t)
      ∧ (s.exc.part = .stopping → s.mem.wf = true → HaltedFacts { s with sup := t.sup } t ∧ t.exc.nlat.getLsbD 13 = true
        ∧ t.drq = s.drq ∧ t.snd.cap = 0))
    ∧ (s.sup.holdup = none → exec .holdupTimerExpiry s = .next s)
    ∧ (s.sup.share = true → ∃ h : Nat,
        (h : Int) = max 0 (min (max 0 ((s.cfg.power.budget : Int)
            - ((s.chan .a).avg + (if 2 ≤ s.cfg.traction.motors then (s.chan .b).avg else 0)) - s.cfg.power.reserve)
          * 255 / s.cfg.power.heaterNom) 255)
        ∧ exec .shareTimer s = .next { s with
            sup := { s.sup with hlim := h }, smk := { s.smk with hlim := h, heater := min s.smk.heater h } })
    ∧ (s.sup.share = false → exec .shareTimer s = .next s)
end

