-- ==== Sys2Proof/Laws/State.lean ====
section
/-!
SUPPORT. What the updates of State leave and what they set: one lemma for each field of each update, true by `rfl`.
-/
namespace Sys2Proof.Machine

/-! `State.latch` -/

@[simp] theorem State.latch_port (s : State) (k : Notice) : (s.latch k).port = s.port := rfl
@[simp] theorem State.latch_drq (s : State) (k : Notice) : (s.latch k).drq = s.drq := rfl
@[simp] theorem State.latch_srg (s : State) (k : Notice) : (s.latch k).srg = s.srg := rfl
@[simp] theorem State.latch_bfu (s : State) (k : Notice) : (s.latch k).bfu = s.bfu := rfl
@[simp] theorem State.latch_chk (s : State) (k : Notice) : (s.latch k).chk = s.chk := rfl
@[simp] theorem State.latch_snd (s : State) (k : Notice) : (s.latch k).snd = s.snd := rfl
@[simp] theorem State.latch_smk (s : State) (k : Notice) : (s.latch k).smk = s.smk := rfl
@[simp] theorem State.latch_lgt (s : State) (k : Notice) : (s.latch k).lgt = s.lgt := rfl
@[simp] theorem State.latch_rrx (s : State) (k : Notice) : (s.latch k).rrx = s.rrx := rfl
@[simp] theorem State.latch_sup (s : State) (k : Notice) : (s.latch k).sup = s.sup := rfl
@[simp] theorem State.latch_mem (s : State) (k : Notice) : (s.latch k).mem = s.mem := rfl
@[simp] theorem State.latch_cfg (s : State) (k : Notice) : (s.latch k).cfg = s.cfg := rfl
@[simp] theorem State.latch_configured (s : State) (k : Notice) : (s.latch k).configured = s.configured := rfl
@[simp] theorem State.latch_freeCount (s : State) (k : Notice) : (s.latch k).freeCount = s.freeCount := rfl
@[simp] theorem State.latch_pending (s : State) (k : Notice) : (s.latch k).pending = s.pending := rfl
@[simp] theorem State.latch_exc_part (s : State) (k : Notice) : (s.latch k).exc.part = s.exc.part := rfl
@[simp] theorem State.latch_exc_clearing (s : State) (k : Notice) : (s.latch k).exc.clearing = s.exc.clearing := rfl
@[simp] theorem State.latch_exc_lastCmd (s : State) (k : Notice) : (s.latch k).exc.lastCmd = s.exc.lastCmd := rfl
@[simp] theorem State.latch_exc_lastResult (s : State) (k : Notice) : (s.latch k).exc.lastResult = s.exc.lastResult := rfl
@[simp] theorem State.latch_exc_nen (s : State) (k : Notice) : (s.latch k).exc.nen = s.exc.nen := rfl
@[simp] theorem State.latch_exc_ms (s : State) (k : Notice) : (s.latch k).exc.ms = s.exc.ms := rfl
@[simp] theorem State.latch_exc_lastTaken (s : State) (k : Notice) : (s.latch k).exc.lastTaken = s.exc.lastTaken := rfl
@[simp] theorem State.latch_exc_slotState (s : State) (k : Notice) : (s.latch k).exc.slotState = s.exc.slotState := rfl
@[simp] theorem State.latch_exc_slotMoment (s : State) (k : Notice) : (s.latch k).exc.slotMoment = s.exc.slotMoment := rfl
@[simp] theorem State.latch_exc_slotEmergency (s : State) (k : Notice) : (s.latch k).exc.slotEmergency = s.exc.slotEmergency := rfl
@[simp] theorem State.latch_exc_chuffHeld (s : State) (k : Notice) : (s.latch k).exc.chuffHeld = s.exc.chuffHeld := rfl
@[simp] theorem State.latch_exc_cueTake (s : State) (k : Notice) : (s.latch k).exc.cueTake = s.exc.cueTake := rfl
@[simp] theorem State.latch_exc_inboxPut (s : State) (k : Notice) : (s.latch k).exc.inboxPut = s.exc.inboxPut := rfl
@[simp] theorem State.latch_exc_boardGen (s : State) (k : Notice) : (s.latch k).exc.boardGen = s.exc.boardGen := rfl
@[simp] theorem State.latch_exc_board (s : State) (k : Notice) : (s.latch k).exc.board = s.exc.board := rfl
@[simp] theorem State.latch_exc_boardHeld (s : State) (k : Notice) : (s.latch k).exc.boardHeld = s.exc.boardHeld := rfl
@[simp] theorem State.latch_exc_scan (s : State) (k : Notice) : (s.latch k).exc.scan = s.exc.scan := rfl
@[simp] theorem State.latch_exc_scanHeld (s : State) (k : Notice) : (s.latch k).exc.scanHeld = s.exc.scanHeld := rfl
@[simp] theorem State.latch_exc_inboxQueue (s : State) (k : Notice) : (s.latch k).exc.inboxQueue = s.exc.inboxQueue := rfl
@[simp] theorem State.latch_exc_inboxStep (s : State) (k : Notice) : (s.latch k).exc.inboxStep = s.exc.inboxStep := rfl
@[simp] theorem State.latch_exc_class3Last (s : State) (k : Notice) : (s.latch k).exc.class3Last = s.exc.class3Last := rfl
@[simp] theorem State.latch_exc_adoption (s : State) (k : Notice) : (s.latch k).exc.adoption = s.exc.adoption := rfl
@[simp] theorem State.latch_exc_nlat (s : State) (k : Notice) : (s.latch k).exc.nlat = s.exc.nlat ||| k.mask := rfl

/-! `State.writeMem` -/

@[simp] theorem State.writeMem_exc (s : State) (q : List Host.Cell) : (s.writeMem q).exc = s.exc := rfl
@[simp] theorem State.writeMem_port (s : State) (q : List Host.Cell) : (s.writeMem q).port = s.port := rfl
@[simp] theorem State.writeMem_drq (s : State) (q : List Host.Cell) : (s.writeMem q).drq = s.drq := rfl
@[simp] theorem State.writeMem_srg (s : State) (q : List Host.Cell) : (s.writeMem q).srg = s.srg := rfl
@[simp] theorem State.writeMem_bfu (s : State) (q : List Host.Cell) : (s.writeMem q).bfu = s.bfu := rfl
@[simp] theorem State.writeMem_chk (s : State) (q : List Host.Cell) : (s.writeMem q).chk = s.chk := rfl
@[simp] theorem State.writeMem_snd (s : State) (q : List Host.Cell) : (s.writeMem q).snd = s.snd := rfl
@[simp] theorem State.writeMem_smk (s : State) (q : List Host.Cell) : (s.writeMem q).smk = s.smk := rfl
@[simp] theorem State.writeMem_lgt (s : State) (q : List Host.Cell) : (s.writeMem q).lgt = s.lgt := rfl
@[simp] theorem State.writeMem_rrx (s : State) (q : List Host.Cell) : (s.writeMem q).rrx = s.rrx := rfl
@[simp] theorem State.writeMem_sup (s : State) (q : List Host.Cell) : (s.writeMem q).sup = s.sup := rfl
@[simp] theorem State.writeMem_cfg (s : State) (q : List Host.Cell) : (s.writeMem q).cfg = s.cfg := rfl
@[simp] theorem State.writeMem_configured (s : State) (q : List Host.Cell) : (s.writeMem q).configured = s.configured := rfl
@[simp] theorem State.writeMem_freeCount (s : State) (q : List Host.Cell) : (s.writeMem q).freeCount = s.freeCount := rfl
@[simp] theorem State.writeMem_pending (s : State) (q : List Host.Cell) : (s.writeMem q).pending = s.pending := rfl

/-! `State.writeField` -/

@[simp] theorem State.writeField_exc (s : State) (a n v : Nat) : (s.writeField a n v).exc = s.exc := rfl
@[simp] theorem State.writeField_port (s : State) (a n v : Nat) : (s.writeField a n v).port = s.port := rfl
@[simp] theorem State.writeField_drq (s : State) (a n v : Nat) : (s.writeField a n v).drq = s.drq := rfl
@[simp] theorem State.writeField_srg (s : State) (a n v : Nat) : (s.writeField a n v).srg = s.srg := rfl
@[simp] theorem State.writeField_bfu (s : State) (a n v : Nat) : (s.writeField a n v).bfu = s.bfu := rfl
@[simp] theorem State.writeField_chk (s : State) (a n v : Nat) : (s.writeField a n v).chk = s.chk := rfl
@[simp] theorem State.writeField_snd (s : State) (a n v : Nat) : (s.writeField a n v).snd = s.snd := rfl
@[simp] theorem State.writeField_smk (s : State) (a n v : Nat) : (s.writeField a n v).smk = s.smk := rfl
@[simp] theorem State.writeField_lgt (s : State) (a n v : Nat) : (s.writeField a n v).lgt = s.lgt := rfl
@[simp] theorem State.writeField_rrx (s : State) (a n v : Nat) : (s.writeField a n v).rrx = s.rrx := rfl
@[simp] theorem State.writeField_sup (s : State) (a n v : Nat) : (s.writeField a n v).sup = s.sup := rfl
@[simp] theorem State.writeField_cfg (s : State) (a n v : Nat) : (s.writeField a n v).cfg = s.cfg := rfl
@[simp] theorem State.writeField_configured (s : State) (a n v : Nat) : (s.writeField a n v).configured = s.configured := rfl
@[simp] theorem State.writeField_freeCount (s : State) (a n v : Nat) : (s.writeField a n v).freeCount = s.freeCount := rfl
@[simp] theorem State.writeField_pending (s : State) (a n v : Nat) : (s.writeField a n v).pending = s.pending := rfl

/-! `State.setPart` -/

@[simp] theorem State.setPart_port (s : State) (p : PartState) : (s.setPart p).port = s.port := rfl
@[simp] theorem State.setPart_drq (s : State) (p : PartState) : (s.setPart p).drq = s.drq := rfl
@[simp] theorem State.setPart_srg (s : State) (p : PartState) : (s.setPart p).srg = s.srg := rfl
@[simp] theorem State.setPart_bfu (s : State) (p : PartState) : (s.setPart p).bfu = s.bfu := rfl
@[simp] theorem State.setPart_chk (s : State) (p : PartState) : (s.setPart p).chk = s.chk := rfl
@[simp] theorem State.setPart_snd (s : State) (p : PartState) : (s.setPart p).snd = s.snd := rfl
@[simp] theorem State.setPart_smk (s : State) (p : PartState) : (s.setPart p).smk = s.smk := rfl
@[simp] theorem State.setPart_lgt (s : State) (p : PartState) : (s.setPart p).lgt = s.lgt := rfl
@[simp] theorem State.setPart_rrx (s : State) (p : PartState) : (s.setPart p).rrx = s.rrx := rfl
@[simp] theorem State.setPart_sup (s : State) (p : PartState) : (s.setPart p).sup = s.sup := rfl
@[simp] theorem State.setPart_cfg (s : State) (p : PartState) : (s.setPart p).cfg = s.cfg := rfl
@[simp] theorem State.setPart_configured (s : State) (p : PartState) : (s.setPart p).configured = s.configured := rfl
@[simp] theorem State.setPart_freeCount (s : State) (p : PartState) : (s.setPart p).freeCount = s.freeCount := rfl
@[simp] theorem State.setPart_pending (s : State) (p : PartState) : (s.setPart p).pending = s.pending := rfl
@[simp] theorem State.setPart_exc_clearing (s : State) (p : PartState) : (s.setPart p).exc.clearing = s.exc.clearing := rfl
@[simp] theorem State.setPart_exc_lastCmd (s : State) (p : PartState) : (s.setPart p).exc.lastCmd = s.exc.lastCmd := rfl
@[simp] theorem State.setPart_exc_lastResult (s : State) (p : PartState) : (s.setPart p).exc.lastResult = s.exc.lastResult := rfl
@[simp] theorem State.setPart_exc_nlat (s : State) (p : PartState) : (s.setPart p).exc.nlat = s.exc.nlat := rfl
@[simp] theorem State.setPart_exc_nen (s : State) (p : PartState) : (s.setPart p).exc.nen = s.exc.nen := rfl
@[simp] theorem State.setPart_exc_ms (s : State) (p : PartState) : (s.setPart p).exc.ms = s.exc.ms := rfl
@[simp] theorem State.setPart_exc_lastTaken (s : State) (p : PartState) : (s.setPart p).exc.lastTaken = s.exc.lastTaken := rfl
@[simp] theorem State.setPart_exc_slotState (s : State) (p : PartState) : (s.setPart p).exc.slotState = s.exc.slotState := rfl
@[simp] theorem State.setPart_exc_slotMoment (s : State) (p : PartState) : (s.setPart p).exc.slotMoment = s.exc.slotMoment := rfl
@[simp] theorem State.setPart_exc_slotEmergency (s : State) (p : PartState) : (s.setPart p).exc.slotEmergency = s.exc.slotEmergency := rfl
@[simp] theorem State.setPart_exc_chuffHeld (s : State) (p : PartState) : (s.setPart p).exc.chuffHeld = s.exc.chuffHeld := rfl
@[simp] theorem State.setPart_exc_cueTake (s : State) (p : PartState) : (s.setPart p).exc.cueTake = s.exc.cueTake := rfl
@[simp] theorem State.setPart_exc_inboxPut (s : State) (p : PartState) : (s.setPart p).exc.inboxPut = s.exc.inboxPut := rfl
@[simp] theorem State.setPart_exc_boardGen (s : State) (p : PartState) : (s.setPart p).exc.boardGen = s.exc.boardGen := rfl
@[simp] theorem State.setPart_exc_board (s : State) (p : PartState) : (s.setPart p).exc.board = s.exc.board := rfl
@[simp] theorem State.setPart_exc_boardHeld (s : State) (p : PartState) : (s.setPart p).exc.boardHeld = s.exc.boardHeld := rfl
@[simp] theorem State.setPart_exc_scan (s : State) (p : PartState) : (s.setPart p).exc.scan = s.exc.scan := rfl
@[simp] theorem State.setPart_exc_scanHeld (s : State) (p : PartState) : (s.setPart p).exc.scanHeld = s.exc.scanHeld := rfl
@[simp] theorem State.setPart_exc_inboxQueue (s : State) (p : PartState) : (s.setPart p).exc.inboxQueue = s.exc.inboxQueue := rfl
@[simp] theorem State.setPart_exc_inboxStep (s : State) (p : PartState) : (s.setPart p).exc.inboxStep = s.exc.inboxStep := rfl
@[simp] theorem State.setPart_exc_class3Last (s : State) (p : PartState) : (s.setPart p).exc.class3Last = s.exc.class3Last := rfl
@[simp] theorem State.setPart_exc_adoption (s : State) (p : PartState) : (s.setPart p).exc.adoption = s.exc.adoption := rfl
@[simp] theorem State.setPart_exc_part (s : State) (p : PartState) : (s.setPart p).exc.part = p := rfl

/-! `State.writeAdoptionResult` -/

@[simp] theorem State.writeAdoptionResult_exc (s : State) (r g i e : Nat) : (s.writeAdoptionResult r g i e).exc = s.exc := rfl
@[simp] theorem State.writeAdoptionResult_port (s : State) (r g i e : Nat) : (s.writeAdoptionResult r g i e).port = s.port := rfl
@[simp] theorem State.writeAdoptionResult_drq (s : State) (r g i e : Nat) : (s.writeAdoptionResult r g i e).drq = s.drq := rfl
@[simp] theorem State.writeAdoptionResult_srg (s : State) (r g i e : Nat) : (s.writeAdoptionResult r g i e).srg = s.srg := rfl
@[simp] theorem State.writeAdoptionResult_bfu (s : State) (r g i e : Nat) : (s.writeAdoptionResult r g i e).bfu = s.bfu := rfl
@[simp] theorem State.writeAdoptionResult_chk (s : State) (r g i e : Nat) : (s.writeAdoptionResult r g i e).chk = s.chk := rfl
@[simp] theorem State.writeAdoptionResult_snd (s : State) (r g i e : Nat) : (s.writeAdoptionResult r g i e).snd = s.snd := rfl
@[simp] theorem State.writeAdoptionResult_smk (s : State) (r g i e : Nat) : (s.writeAdoptionResult r g i e).smk = s.smk := rfl
@[simp] theorem State.writeAdoptionResult_lgt (s : State) (r g i e : Nat) : (s.writeAdoptionResult r g i e).lgt = s.lgt := rfl
@[simp] theorem State.writeAdoptionResult_rrx (s : State) (r g i e : Nat) : (s.writeAdoptionResult r g i e).rrx = s.rrx := rfl
@[simp] theorem State.writeAdoptionResult_sup (s : State) (r g i e : Nat) : (s.writeAdoptionResult r g i e).sup = s.sup := rfl
@[simp] theorem State.writeAdoptionResult_cfg (s : State) (r g i e : Nat) : (s.writeAdoptionResult r g i e).cfg = s.cfg := rfl
@[simp] theorem State.writeAdoptionResult_configured (s : State) (r g i e : Nat) : (s.writeAdoptionResult r g i e).configured = s.configured := rfl
@[simp] theorem State.writeAdoptionResult_freeCount (s : State) (r g i e : Nat) : (s.writeAdoptionResult r g i e).freeCount = s.freeCount := rfl
@[simp] theorem State.writeAdoptionResult_pending (s : State) (r g i e : Nat) : (s.writeAdoptionResult r g i e).pending = s.pending := rfl

/-! `State.setSlotState` -/

@[simp] theorem State.setSlotState_port (s : State) (x : SlotState) : (s.setSlotState x).port = s.port := rfl
@[simp] theorem State.setSlotState_drq (s : State) (x : SlotState) : (s.setSlotState x).drq = s.drq := rfl
@[simp] theorem State.setSlotState_srg (s : State) (x : SlotState) : (s.setSlotState x).srg = s.srg := rfl
@[simp] theorem State.setSlotState_bfu (s : State) (x : SlotState) : (s.setSlotState x).bfu = s.bfu := rfl
@[simp] theorem State.setSlotState_chk (s : State) (x : SlotState) : (s.setSlotState x).chk = s.chk := rfl
@[simp] theorem State.setSlotState_snd (s : State) (x : SlotState) : (s.setSlotState x).snd = s.snd := rfl
@[simp] theorem State.setSlotState_smk (s : State) (x : SlotState) : (s.setSlotState x).smk = s.smk := rfl
@[simp] theorem State.setSlotState_lgt (s : State) (x : SlotState) : (s.setSlotState x).lgt = s.lgt := rfl
@[simp] theorem State.setSlotState_rrx (s : State) (x : SlotState) : (s.setSlotState x).rrx = s.rrx := rfl
@[simp] theorem State.setSlotState_sup (s : State) (x : SlotState) : (s.setSlotState x).sup = s.sup := rfl
@[simp] theorem State.setSlotState_cfg (s : State) (x : SlotState) : (s.setSlotState x).cfg = s.cfg := rfl
@[simp] theorem State.setSlotState_configured (s : State) (x : SlotState) : (s.setSlotState x).configured = s.configured := rfl
@[simp] theorem State.setSlotState_freeCount (s : State) (x : SlotState) : (s.setSlotState x).freeCount = s.freeCount := rfl
@[simp] theorem State.setSlotState_pending (s : State) (x : SlotState) : (s.setSlotState x).pending = s.pending := rfl
@[simp] theorem State.setSlotState_exc_part (s : State) (x : SlotState) : (s.setSlotState x).exc.part = s.exc.part := rfl
@[simp] theorem State.setSlotState_exc_clearing (s : State) (x : SlotState) : (s.setSlotState x).exc.clearing = s.exc.clearing := rfl
@[simp] theorem State.setSlotState_exc_lastCmd (s : State) (x : SlotState) : (s.setSlotState x).exc.lastCmd = s.exc.lastCmd := rfl
@[simp] theorem State.setSlotState_exc_lastResult (s : State) (x : SlotState) : (s.setSlotState x).exc.lastResult = s.exc.lastResult := rfl
@[simp] theorem State.setSlotState_exc_nlat (s : State) (x : SlotState) : (s.setSlotState x).exc.nlat = s.exc.nlat := rfl
@[simp] theorem State.setSlotState_exc_nen (s : State) (x : SlotState) : (s.setSlotState x).exc.nen = s.exc.nen := rfl
@[simp] theorem State.setSlotState_exc_ms (s : State) (x : SlotState) : (s.setSlotState x).exc.ms = s.exc.ms := rfl
@[simp] theorem State.setSlotState_exc_lastTaken (s : State) (x : SlotState) : (s.setSlotState x).exc.lastTaken = s.exc.lastTaken := rfl
@[simp] theorem State.setSlotState_exc_slotMoment (s : State) (x : SlotState) : (s.setSlotState x).exc.slotMoment = s.exc.slotMoment := rfl
@[simp] theorem State.setSlotState_exc_slotEmergency (s : State) (x : SlotState) : (s.setSlotState x).exc.slotEmergency = s.exc.slotEmergency := rfl
@[simp] theorem State.setSlotState_exc_chuffHeld (s : State) (x : SlotState) : (s.setSlotState x).exc.chuffHeld = s.exc.chuffHeld := rfl
@[simp] theorem State.setSlotState_exc_cueTake (s : State) (x : SlotState) : (s.setSlotState x).exc.cueTake = s.exc.cueTake := rfl
@[simp] theorem State.setSlotState_exc_inboxPut (s : State) (x : SlotState) : (s.setSlotState x).exc.inboxPut = s.exc.inboxPut := rfl
@[simp] theorem State.setSlotState_exc_boardGen (s : State) (x : SlotState) : (s.setSlotState x).exc.boardGen = s.exc.boardGen := rfl
@[simp] theorem State.setSlotState_exc_board (s : State) (x : SlotState) : (s.setSlotState x).exc.board = s.exc.board := rfl
@[simp] theorem State.setSlotState_exc_boardHeld (s : State) (x : SlotState) : (s.setSlotState x).exc.boardHeld = s.exc.boardHeld := rfl
@[simp] theorem State.setSlotState_exc_scan (s : State) (x : SlotState) : (s.setSlotState x).exc.scan = s.exc.scan := rfl
@[simp] theorem State.setSlotState_exc_scanHeld (s : State) (x : SlotState) : (s.setSlotState x).exc.scanHeld = s.exc.scanHeld := rfl
@[simp] theorem State.setSlotState_exc_inboxQueue (s : State) (x : SlotState) : (s.setSlotState x).exc.inboxQueue = s.exc.inboxQueue := rfl
@[simp] theorem State.setSlotState_exc_inboxStep (s : State) (x : SlotState) : (s.setSlotState x).exc.inboxStep = s.exc.inboxStep := rfl
@[simp] theorem State.setSlotState_exc_class3Last (s : State) (x : SlotState) : (s.setSlotState x).exc.class3Last = s.exc.class3Last := rfl
@[simp] theorem State.setSlotState_exc_adoption (s : State) (x : SlotState) : (s.setSlotState x).exc.adoption = s.exc.adoption := rfl
@[simp] theorem State.setSlotState_exc_slotState (s : State) (x : SlotState) : (s.setSlotState x).exc.slotState = x := rfl

/-! `State.setLastTaken` -/

@[simp] theorem State.setLastTaken_port (s : State) (t : Byte) : (s.setLastTaken t).port = s.port := rfl
@[simp] theorem State.setLastTaken_drq (s : State) (t : Byte) : (s.setLastTaken t).drq = s.drq := rfl
@[simp] theorem State.setLastTaken_srg (s : State) (t : Byte) : (s.setLastTaken t).srg = s.srg := rfl
@[simp] theorem State.setLastTaken_bfu (s : State) (t : Byte) : (s.setLastTaken t).bfu = s.bfu := rfl
@[simp] theorem State.setLastTaken_chk (s : State) (t : Byte) : (s.setLastTaken t).chk = s.chk := rfl
@[simp] theorem State.setLastTaken_snd (s : State) (t : Byte) : (s.setLastTaken t).snd = s.snd := rfl
@[simp] theorem State.setLastTaken_smk (s : State) (t : Byte) : (s.setLastTaken t).smk = s.smk := rfl
@[simp] theorem State.setLastTaken_lgt (s : State) (t : Byte) : (s.setLastTaken t).lgt = s.lgt := rfl
@[simp] theorem State.setLastTaken_rrx (s : State) (t : Byte) : (s.setLastTaken t).rrx = s.rrx := rfl
@[simp] theorem State.setLastTaken_sup (s : State) (t : Byte) : (s.setLastTaken t).sup = s.sup := rfl
@[simp] theorem State.setLastTaken_cfg (s : State) (t : Byte) : (s.setLastTaken t).cfg = s.cfg := rfl
@[simp] theorem State.setLastTaken_configured (s : State) (t : Byte) : (s.setLastTaken t).configured = s.configured := rfl
@[simp] theorem State.setLastTaken_freeCount (s : State) (t : Byte) : (s.setLastTaken t).freeCount = s.freeCount := rfl
@[simp] theorem State.setLastTaken_pending (s : State) (t : Byte) : (s.setLastTaken t).pending = s.pending := rfl
@[simp] theorem State.setLastTaken_exc_part (s : State) (t : Byte) : (s.setLastTaken t).exc.part = s.exc.part := rfl
@[simp] theorem State.setLastTaken_exc_clearing (s : State) (t : Byte) : (s.setLastTaken t).exc.clearing = s.exc.clearing := rfl
@[simp] theorem State.setLastTaken_exc_lastCmd (s : State) (t : Byte) : (s.setLastTaken t).exc.lastCmd = s.exc.lastCmd := rfl
@[simp] theorem State.setLastTaken_exc_lastResult (s : State) (t : Byte) : (s.setLastTaken t).exc.lastResult = s.exc.lastResult := rfl
@[simp] theorem State.setLastTaken_exc_nlat (s : State) (t : Byte) : (s.setLastTaken t).exc.nlat = s.exc.nlat := rfl
@[simp] theorem State.setLastTaken_exc_nen (s : State) (t : Byte) : (s.setLastTaken t).exc.nen = s.exc.nen := rfl
@[simp] theorem State.setLastTaken_exc_ms (s : State) (t : Byte) : (s.setLastTaken t).exc.ms = s.exc.ms := rfl
@[simp] theorem State.setLastTaken_exc_slotState (s : State) (t : Byte) : (s.setLastTaken t).exc.slotState = s.exc.slotState := rfl
@[simp] theorem State.setLastTaken_exc_slotMoment (s : State) (t : Byte) : (s.setLastTaken t).exc.slotMoment = s.exc.slotMoment := rfl
@[simp] theorem State.setLastTaken_exc_slotEmergency (s : State) (t : Byte) : (s.setLastTaken t).exc.slotEmergency = s.exc.slotEmergency := rfl
@[simp] theorem State.setLastTaken_exc_chuffHeld (s : State) (t : Byte) : (s.setLastTaken t).exc.chuffHeld = s.exc.chuffHeld := rfl
@[simp] theorem State.setLastTaken_exc_cueTake (s : State) (t : Byte) : (s.setLastTaken t).exc.cueTake = s.exc.cueTake := rfl
@[simp] theorem State.setLastTaken_exc_inboxPut (s : State) (t : Byte) : (s.setLastTaken t).exc.inboxPut = s.exc.inboxPut := rfl
@[simp] theorem State.setLastTaken_exc_boardGen (s : State) (t : Byte) : (s.setLastTaken t).exc.boardGen = s.exc.boardGen := rfl
@[simp] theorem State.setLastTaken_exc_board (s : State) (t : Byte) : (s.setLastTaken t).exc.board = s.exc.board := rfl
@[simp] theorem State.setLastTaken_exc_boardHeld (s : State) (t : Byte) : (s.setLastTaken t).exc.boardHeld = s.exc.boardHeld := rfl
@[simp] theorem State.setLastTaken_exc_scan (s : State) (t : Byte) : (s.setLastTaken t).exc.scan = s.exc.scan := rfl
@[simp] theorem State.setLastTaken_exc_scanHeld (s : State) (t : Byte) : (s.setLastTaken t).exc.scanHeld = s.exc.scanHeld := rfl
@[simp] theorem State.setLastTaken_exc_inboxQueue (s : State) (t : Byte) : (s.setLastTaken t).exc.inboxQueue = s.exc.inboxQueue := rfl
@[simp] theorem State.setLastTaken_exc_inboxStep (s : State) (t : Byte) : (s.setLastTaken t).exc.inboxStep = s.exc.inboxStep := rfl
@[simp] theorem State.setLastTaken_exc_class3Last (s : State) (t : Byte) : (s.setLastTaken t).exc.class3Last = s.exc.class3Last := rfl
@[simp] theorem State.setLastTaken_exc_adoption (s : State) (t : Byte) : (s.setLastTaken t).exc.adoption = s.exc.adoption := rfl
@[simp] theorem State.setLastTaken_exc_lastTaken (s : State) (t : Byte) : (s.setLastTaken t).exc.lastTaken = t := rfl

/-! `State.setCueTake` -/

@[simp] theorem State.setCueTake_port (s : State) (t : Half) : (s.setCueTake t).port = s.port := rfl
@[simp] theorem State.setCueTake_drq (s : State) (t : Half) : (s.setCueTake t).drq = s.drq := rfl
@[simp] theorem State.setCueTake_srg (s : State) (t : Half) : (s.setCueTake t).srg = s.srg := rfl
@[simp] theorem State.setCueTake_bfu (s : State) (t : Half) : (s.setCueTake t).bfu = s.bfu := rfl
@[simp] theorem State.setCueTake_chk (s : State) (t : Half) : (s.setCueTake t).chk = s.chk := rfl
@[simp] theorem State.setCueTake_snd (s : State) (t : Half) : (s.setCueTake t).snd = s.snd := rfl
@[simp] theorem State.setCueTake_smk (s : State) (t : Half) : (s.setCueTake t).smk = s.smk := rfl
@[simp] theorem State.setCueTake_lgt (s : State) (t : Half) : (s.setCueTake t).lgt = s.lgt := rfl
@[simp] theorem State.setCueTake_rrx (s : State) (t : Half) : (s.setCueTake t).rrx = s.rrx := rfl
@[simp] theorem State.setCueTake_sup (s : State) (t : Half) : (s.setCueTake t).sup = s.sup := rfl
@[simp] theorem State.setCueTake_cfg (s : State) (t : Half) : (s.setCueTake t).cfg = s.cfg := rfl
@[simp] theorem State.setCueTake_configured (s : State) (t : Half) : (s.setCueTake t).configured = s.configured := rfl
@[simp] theorem State.setCueTake_freeCount (s : State) (t : Half) : (s.setCueTake t).freeCount = s.freeCount := rfl
@[simp] theorem State.setCueTake_pending (s : State) (t : Half) : (s.setCueTake t).pending = s.pending := rfl
@[simp] theorem State.setCueTake_exc_part (s : State) (t : Half) : (s.setCueTake t).exc.part = s.exc.part := rfl
@[simp] theorem State.setCueTake_exc_clearing (s : State) (t : Half) : (s.setCueTake t).exc.clearing = s.exc.clearing := rfl
@[simp] theorem State.setCueTake_exc_lastCmd (s : State) (t : Half) : (s.setCueTake t).exc.lastCmd = s.exc.lastCmd := rfl
@[simp] theorem State.setCueTake_exc_lastResult (s : State) (t : Half) : (s.setCueTake t).exc.lastResult = s.exc.lastResult := rfl
@[simp] theorem State.setCueTake_exc_nlat (s : State) (t : Half) : (s.setCueTake t).exc.nlat = s.exc.nlat := rfl
@[simp] theorem State.setCueTake_exc_nen (s : State) (t : Half) : (s.setCueTake t).exc.nen = s.exc.nen := rfl
@[simp] theorem State.setCueTake_exc_ms (s : State) (t : Half) : (s.setCueTake t).exc.ms = s.exc.ms := rfl
@[simp] theorem State.setCueTake_exc_lastTaken (s : State) (t : Half) : (s.setCueTake t).exc.lastTaken = s.exc.lastTaken := rfl
@[simp] theorem State.setCueTake_exc_slotState (s : State) (t : Half) : (s.setCueTake t).exc.slotState = s.exc.slotState := rfl
@[simp] theorem State.setCueTake_exc_slotMoment (s : State) (t : Half) : (s.setCueTake t).exc.slotMoment = s.exc.slotMoment := rfl
@[simp] theorem State.setCueTake_exc_slotEmergency (s : State) (t : Half) : (s.setCueTake t).exc.slotEmergency = s.exc.slotEmergency := rfl
@[simp] theorem State.setCueTake_exc_chuffHeld (s : State) (t : Half) : (s.setCueTake t).exc.chuffHeld = s.exc.chuffHeld := rfl
@[simp] theorem State.setCueTake_exc_inboxPut (s : State) (t : Half) : (s.setCueTake t).exc.inboxPut = s.exc.inboxPut := rfl
@[simp] theorem State.setCueTake_exc_boardGen (s : State) (t : Half) : (s.setCueTake t).exc.boardGen = s.exc.boardGen := rfl
@[simp] theorem State.setCueTake_exc_board (s : State) (t : Half) : (s.setCueTake t).exc.board = s.exc.board := rfl
@[simp] theorem State.setCueTake_exc_boardHeld (s : State) (t : Half) : (s.setCueTake t).exc.boardHeld = s.exc.boardHeld := rfl
@[simp] theorem State.setCueTake_exc_scan (s : State) (t : Half) : (s.setCueTake t).exc.scan = s.exc.scan := rfl
@[simp] theorem State.setCueTake_exc_scanHeld (s : State) (t : Half) : (s.setCueTake t).exc.scanHeld = s.exc.scanHeld := rfl
@[simp] theorem State.setCueTake_exc_inboxQueue (s : State) (t : Half) : (s.setCueTake t).exc.inboxQueue = s.exc.inboxQueue := rfl
@[simp] theorem State.setCueTake_exc_inboxStep (s : State) (t : Half) : (s.setCueTake t).exc.inboxStep = s.exc.inboxStep := rfl
@[simp] theorem State.setCueTake_exc_class3Last (s : State) (t : Half) : (s.setCueTake t).exc.class3Last = s.exc.class3Last := rfl
@[simp] theorem State.setCueTake_exc_adoption (s : State) (t : Half) : (s.setCueTake t).exc.adoption = s.exc.adoption := rfl
@[simp] theorem State.setCueTake_exc_cueTake (s : State) (t : Half) : (s.setCueTake t).exc.cueTake = t := rfl

/-! `State.setInboxPut` -/

@[simp] theorem State.setInboxPut_port (s : State) (t : Half) : (s.setInboxPut t).port = s.port := rfl
@[simp] theorem State.setInboxPut_drq (s : State) (t : Half) : (s.setInboxPut t).drq = s.drq := rfl
@[simp] theorem State.setInboxPut_srg (s : State) (t : Half) : (s.setInboxPut t).srg = s.srg := rfl
@[simp] theorem State.setInboxPut_bfu (s : State) (t : Half) : (s.setInboxPut t).bfu = s.bfu := rfl
@[simp] theorem State.setInboxPut_chk (s : State) (t : Half) : (s.setInboxPut t).chk = s.chk := rfl
@[simp] theorem State.setInboxPut_snd (s : State) (t : Half) : (s.setInboxPut t).snd = s.snd := rfl
@[simp] theorem State.setInboxPut_smk (s : State) (t : Half) : (s.setInboxPut t).smk = s.smk := rfl
@[simp] theorem State.setInboxPut_lgt (s : State) (t : Half) : (s.setInboxPut t).lgt = s.lgt := rfl
@[simp] theorem State.setInboxPut_rrx (s : State) (t : Half) : (s.setInboxPut t).rrx = s.rrx := rfl
@[simp] theorem State.setInboxPut_sup (s : State) (t : Half) : (s.setInboxPut t).sup = s.sup := rfl
@[simp] theorem State.setInboxPut_cfg (s : State) (t : Half) : (s.setInboxPut t).cfg = s.cfg := rfl
@[simp] theorem State.setInboxPut_configured (s : State) (t : Half) : (s.setInboxPut t).configured = s.configured := rfl
@[simp] theorem State.setInboxPut_freeCount (s : State) (t : Half) : (s.setInboxPut t).freeCount = s.freeCount := rfl
@[simp] theorem State.setInboxPut_pending (s : State) (t : Half) : (s.setInboxPut t).pending = s.pending := rfl
@[simp] theorem State.setInboxPut_exc_part (s : State) (t : Half) : (s.setInboxPut t).exc.part = s.exc.part := rfl
@[simp] theorem State.setInboxPut_exc_clearing (s : State) (t : Half) : (s.setInboxPut t).exc.clearing = s.exc.clearing := rfl
@[simp] theorem State.setInboxPut_exc_lastCmd (s : State) (t : Half) : (s.setInboxPut t).exc.lastCmd = s.exc.lastCmd := rfl
@[simp] theorem State.setInboxPut_exc_lastResult (s : State) (t : Half) : (s.setInboxPut t).exc.lastResult = s.exc.lastResult := rfl
@[simp] theorem State.setInboxPut_exc_nlat (s : State) (t : Half) : (s.setInboxPut t).exc.nlat = s.exc.nlat := rfl
@[simp] theorem State.setInboxPut_exc_nen (s : State) (t : Half) : (s.setInboxPut t).exc.nen = s.exc.nen := rfl
@[simp] theorem State.setInboxPut_exc_ms (s : State) (t : Half) : (s.setInboxPut t).exc.ms = s.exc.ms := rfl
@[simp] theorem State.setInboxPut_exc_lastTaken (s : State) (t : Half) : (s.setInboxPut t).exc.lastTaken = s.exc.lastTaken := rfl
@[simp] theorem State.setInboxPut_exc_slotState (s : State) (t : Half) : (s.setInboxPut t).exc.slotState = s.exc.slotState := rfl
@[simp] theorem State.setInboxPut_exc_slotMoment (s : State) (t : Half) : (s.setInboxPut t).exc.slotMoment = s.exc.slotMoment := rfl
@[simp] theorem State.setInboxPut_exc_slotEmergency (s : State) (t : Half) : (s.setInboxPut t).exc.slotEmergency = s.exc.slotEmergency := rfl
@[simp] theorem State.setInboxPut_exc_chuffHeld (s : State) (t : Half) : (s.setInboxPut t).exc.chuffHeld = s.exc.chuffHeld := rfl
@[simp] theorem State.setInboxPut_exc_cueTake (s : State) (t : Half) : (s.setInboxPut t).exc.cueTake = s.exc.cueTake := rfl
@[simp] theorem State.setInboxPut_exc_boardGen (s : State) (t : Half) : (s.setInboxPut t).exc.boardGen = s.exc.boardGen := rfl
@[simp] theorem State.setInboxPut_exc_board (s : State) (t : Half) : (s.setInboxPut t).exc.board = s.exc.board := rfl
@[simp] theorem State.setInboxPut_exc_boardHeld (s : State) (t : Half) : (s.setInboxPut t).exc.boardHeld = s.exc.boardHeld := rfl
@[simp] theorem State.setInboxPut_exc_scan (s : State) (t : Half) : (s.setInboxPut t).exc.scan = s.exc.scan := rfl
@[simp] theorem State.setInboxPut_exc_scanHeld (s : State) (t : Half) : (s.setInboxPut t).exc.scanHeld = s.exc.scanHeld := rfl
@[simp] theorem State.setInboxPut_exc_inboxQueue (s : State) (t : Half) : (s.setInboxPut t).exc.inboxQueue = s.exc.inboxQueue := rfl
@[simp] theorem State.setInboxPut_exc_inboxStep (s : State) (t : Half) : (s.setInboxPut t).exc.inboxStep = s.exc.inboxStep := rfl
@[simp] theorem State.setInboxPut_exc_class3Last (s : State) (t : Half) : (s.setInboxPut t).exc.class3Last = s.exc.class3Last := rfl
@[simp] theorem State.setInboxPut_exc_adoption (s : State) (t : Half) : (s.setInboxPut t).exc.adoption = s.exc.adoption := rfl
@[simp] theorem State.setInboxPut_exc_inboxPut (s : State) (t : Half) : (s.setInboxPut t).exc.inboxPut = t := rfl

/-! `State.setMs` -/

@[simp] theorem State.setMs_port (s : State) (t : Word) : (s.setMs t).port = s.port := rfl
@[simp] theorem State.setMs_drq (s : State) (t : Word) : (s.setMs t).drq = s.drq := rfl
@[simp] theorem State.setMs_srg (s : State) (t : Word) : (s.setMs t).srg = s.srg := rfl
@[simp] theorem State.setMs_bfu (s : State) (t : Word) : (s.setMs t).bfu = s.bfu := rfl
@[simp] theorem State.setMs_chk (s : State) (t : Word) : (s.setMs t).chk = s.chk := rfl
@[simp] theorem State.setMs_snd (s : State) (t : Word) : (s.setMs t).snd = s.snd := rfl
@[simp] theorem State.setMs_smk (s : State) (t : Word) : (s.setMs t).smk = s.smk := rfl
@[simp] theorem State.setMs_lgt (s : State) (t : Word) : (s.setMs t).lgt = s.lgt := rfl
@[simp] theorem State.setMs_rrx (s : State) (t : Word) : (s.setMs t).rrx = s.rrx := rfl
@[simp] theorem State.setMs_sup (s : State) (t : Word) : (s.setMs t).sup = s.sup := rfl
@[simp] theorem State.setMs_cfg (s : State) (t : Word) : (s.setMs t).cfg = s.cfg := rfl
@[simp] theorem State.setMs_configured (s : State) (t : Word) : (s.setMs t).configured = s.configured := rfl
@[simp] theorem State.setMs_freeCount (s : State) (t : Word) : (s.setMs t).freeCount = s.freeCount := rfl
@[simp] theorem State.setMs_pending (s : State) (t : Word) : (s.setMs t).pending = s.pending := rfl
@[simp] theorem State.setMs_exc_part (s : State) (t : Word) : (s.setMs t).exc.part = s.exc.part := rfl
@[simp] theorem State.setMs_exc_clearing (s : State) (t : Word) : (s.setMs t).exc.clearing = s.exc.clearing := rfl
@[simp] theorem State.setMs_exc_lastCmd (s : State) (t : Word) : (s.setMs t).exc.lastCmd = s.exc.lastCmd := rfl
@[simp] theorem State.setMs_exc_lastResult (s : State) (t : Word) : (s.setMs t).exc.lastResult = s.exc.lastResult := rfl
@[simp] theorem State.setMs_exc_nlat (s : State) (t : Word) : (s.setMs t).exc.nlat = s.exc.nlat := rfl
@[simp] theorem State.setMs_exc_nen (s : State) (t : Word) : (s.setMs t).exc.nen = s.exc.nen := rfl
@[simp] theorem State.setMs_exc_lastTaken (s : State) (t : Word) : (s.setMs t).exc.lastTaken = s.exc.lastTaken := rfl
@[simp] theorem State.setMs_exc_slotState (s : State) (t : Word) : (s.setMs t).exc.slotState = s.exc.slotState := rfl
@[simp] theorem State.setMs_exc_slotMoment (s : State) (t : Word) : (s.setMs t).exc.slotMoment = s.exc.slotMoment := rfl
@[simp] theorem State.setMs_exc_slotEmergency (s : State) (t : Word) : (s.setMs t).exc.slotEmergency = s.exc.slotEmergency := rfl
@[simp] theorem State.setMs_exc_chuffHeld (s : State) (t : Word) : (s.setMs t).exc.chuffHeld = s.exc.chuffHeld := rfl
@[simp] theorem State.setMs_exc_cueTake (s : State) (t : Word) : (s.setMs t).exc.cueTake = s.exc.cueTake := rfl
@[simp] theorem State.setMs_exc_inboxPut (s : State) (t : Word) : (s.setMs t).exc.inboxPut = s.exc.inboxPut := rfl
@[simp] theorem State.setMs_exc_boardGen (s : State) (t : Word) : (s.setMs t).exc.boardGen = s.exc.boardGen := rfl
@[simp] theorem State.setMs_exc_board (s : State) (t : Word) : (s.setMs t).exc.board = s.exc.board := rfl
@[simp] theorem State.setMs_exc_boardHeld (s : State) (t : Word) : (s.setMs t).exc.boardHeld = s.exc.boardHeld := rfl
@[simp] theorem State.setMs_exc_scan (s : State) (t : Word) : (s.setMs t).exc.scan = s.exc.scan := rfl
@[simp] theorem State.setMs_exc_scanHeld (s : State) (t : Word) : (s.setMs t).exc.scanHeld = s.exc.scanHeld := rfl
@[simp] theorem State.setMs_exc_inboxQueue (s : State) (t : Word) : (s.setMs t).exc.inboxQueue = s.exc.inboxQueue := rfl
@[simp] theorem State.setMs_exc_inboxStep (s : State) (t : Word) : (s.setMs t).exc.inboxStep = s.exc.inboxStep := rfl
@[simp] theorem State.setMs_exc_class3Last (s : State) (t : Word) : (s.setMs t).exc.class3Last = s.exc.class3Last := rfl
@[simp] theorem State.setMs_exc_adoption (s : State) (t : Word) : (s.setMs t).exc.adoption = s.exc.adoption := rfl
@[simp] theorem State.setMs_exc_ms (s : State) (t : Word) : (s.setMs t).exc.ms = t := rfl

/-! `State.recordCommand` -/

@[simp] theorem State.recordCommand_port (s : State) (c : BitVec 3) (r : CmdResult) : (s.recordCommand c r).port = s.port := rfl
@[simp] theorem State.recordCommand_drq (s : State) (c : BitVec 3) (r : CmdResult) : (s.recordCommand c r).drq = s.drq := rfl
@[simp] theorem State.recordCommand_srg (s : State) (c : BitVec 3) (r : CmdResult) : (s.recordCommand c r).srg = s.srg := rfl
@[simp] theorem State.recordCommand_bfu (s : State) (c : BitVec 3) (r : CmdResult) : (s.recordCommand c r).bfu = s.bfu := rfl
@[simp] theorem State.recordCommand_chk (s : State) (c : BitVec 3) (r : CmdResult) : (s.recordCommand c r).chk = s.chk := rfl
@[simp] theorem State.recordCommand_snd (s : State) (c : BitVec 3) (r : CmdResult) : (s.recordCommand c r).snd = s.snd := rfl
@[simp] theorem State.recordCommand_smk (s : State) (c : BitVec 3) (r : CmdResult) : (s.recordCommand c r).smk = s.smk := rfl
@[simp] theorem State.recordCommand_lgt (s : State) (c : BitVec 3) (r : CmdResult) : (s.recordCommand c r).lgt = s.lgt := rfl
@[simp] theorem State.recordCommand_rrx (s : State) (c : BitVec 3) (r : CmdResult) : (s.recordCommand c r).rrx = s.rrx := rfl
@[simp] theorem State.recordCommand_sup (s : State) (c : BitVec 3) (r : CmdResult) : (s.recordCommand c r).sup = s.sup := rfl
@[simp] theorem State.recordCommand_mem (s : State) (c : BitVec 3) (r : CmdResult) : (s.recordCommand c r).mem = s.mem := rfl
@[simp] theorem State.recordCommand_cfg (s : State) (c : BitVec 3) (r : CmdResult) : (s.recordCommand c r).cfg = s.cfg := rfl
@[simp] theorem State.recordCommand_configured (s : State) (c : BitVec 3) (r : CmdResult) : (s.recordCommand c r).configured = s.configured := rfl
@[simp] theorem State.recordCommand_freeCount (s : State) (c : BitVec 3) (r : CmdResult) : (s.recordCommand c r).freeCount = s.freeCount := rfl
@[simp] theorem State.recordCommand_pending (s : State) (c : BitVec 3) (r : CmdResult) : (s.recordCommand c r).pending = s.pending := rfl
@[simp] theorem State.recordCommand_exc_part (s : State) (c : BitVec 3) (r : CmdResult) : (s.recordCommand c r).exc.part = s.exc.part := rfl
@[simp] theorem State.recordCommand_exc_clearing (s : State) (c : BitVec 3) (r : CmdResult) : (s.recordCommand c r).exc.clearing = s.exc.clearing := rfl
@[simp] theorem State.recordCommand_exc_nlat (s : State) (c : BitVec 3) (r : CmdResult) : (s.recordCommand c r).exc.nlat = s.exc.nlat := rfl
@[simp] theorem State.recordCommand_exc_nen (s : State) (c : BitVec 3) (r : CmdResult) : (s.recordCommand c r).exc.nen = s.exc.nen := rfl
@[simp] theorem State.recordCommand_exc_ms (s : State) (c : BitVec 3) (r : CmdResult) : (s.recordCommand c r).exc.ms = s.exc.ms := rfl
@[simp] theorem State.recordCommand_exc_lastTaken (s : State) (c : BitVec 3) (r : CmdResult) : (s.recordCommand c r).exc.lastTaken = s.exc.lastTaken := rfl
@[simp] theorem State.recordCommand_exc_slotState (s : State) (c : BitVec 3) (r : CmdResult) : (s.recordCommand c r).exc.slotState = s.exc.slotState := rfl
@[simp] theorem State.recordCommand_exc_slotMoment (s : State) (c : BitVec 3) (r : CmdResult) : (s.recordCommand c r).exc.slotMoment = s.exc.slotMoment := rfl
@[simp] theorem State.recordCommand_exc_slotEmergency (s : State) (c : BitVec 3) (r : CmdResult) : (s.recordCommand c r).exc.slotEmergency = s.exc.slotEmergency := rfl
@[simp] theorem State.recordCommand_exc_chuffHeld (s : State) (c : BitVec 3) (r : CmdResult) : (s.recordCommand c r).exc.chuffHeld = s.exc.chuffHeld := rfl
@[simp] theorem State.recordCommand_exc_cueTake (s : State) (c : BitVec 3) (r : CmdResult) : (s.recordCommand c r).exc.cueTake = s.exc.cueTake := rfl
@[simp] theorem State.recordCommand_exc_inboxPut (s : State) (c : BitVec 3) (r : CmdResult) : (s.recordCommand c r).exc.inboxPut = s.exc.inboxPut := rfl
@[simp] theorem State.recordCommand_exc_boardGen (s : State) (c : BitVec 3) (r : CmdResult) : (s.recordCommand c r).exc.boardGen = s.exc.boardGen := rfl
@[simp] theorem State.recordCommand_exc_board (s : State) (c : BitVec 3) (r : CmdResult) : (s.recordCommand c r).exc.board = s.exc.board := rfl
@[simp] theorem State.recordCommand_exc_boardHeld (s : State) (c : BitVec 3) (r : CmdResult) : (s.recordCommand c r).exc.boardHeld = s.exc.boardHeld := rfl
@[simp] theorem State.recordCommand_exc_scan (s : State) (c : BitVec 3) (r : CmdResult) : (s.recordCommand c r).exc.scan = s.exc.scan := rfl
@[simp] theorem State.recordCommand_exc_scanHeld (s : State) (c : BitVec 3) (r : CmdResult) : (s.recordCommand c r).exc.scanHeld = s.exc.scanHeld := rfl
@[simp] theorem State.recordCommand_exc_inboxQueue (s : State) (c : BitVec 3) (r : CmdResult) : (s.recordCommand c r).exc.inboxQueue = s.exc.inboxQueue := rfl
@[simp] theorem State.recordCommand_exc_inboxStep (s : State) (c : BitVec 3) (r : CmdResult) : (s.recordCommand c r).exc.inboxStep = s.exc.inboxStep := rfl
@[simp] theorem State.recordCommand_exc_class3Last (s : State) (c : BitVec 3) (r : CmdResult) : (s.recordCommand c r).exc.class3Last = s.exc.class3Last := rfl
@[simp] theorem State.recordCommand_exc_adoption (s : State) (c : BitVec 3) (r : CmdResult) : (s.recordCommand c r).exc.adoption = s.exc.adoption := rfl
@[simp] theorem State.recordCommand_exc_lastCmd (s : State) (c : BitVec 3) (r : CmdResult) : (s.recordCommand c r).exc.lastCmd = c := rfl
@[simp] theorem State.recordCommand_exc_lastResult (s : State) (c : BitVec 3) (r : CmdResult) : (s.recordCommand c r).exc.lastResult = r := rfl

/-! `State.shiftOut` -/

@[simp] theorem State.shiftOut_exc (s : State) (bs : List Byte) : (s.shiftOut bs).exc = s.exc := rfl
@[simp] theorem State.shiftOut_drq (s : State) (bs : List Byte) : (s.shiftOut bs).drq = s.drq := rfl
@[simp] theorem State.shiftOut_srg (s : State) (bs : List Byte) : (s.shiftOut bs).srg = s.srg := rfl
@[simp] theorem State.shiftOut_bfu (s : State) (bs : List Byte) : (s.shiftOut bs).bfu = s.bfu := rfl
@[simp] theorem State.shiftOut_chk (s : State) (bs : List Byte) : (s.shiftOut bs).chk = s.chk := rfl
@[simp] theorem State.shiftOut_snd (s : State) (bs : List Byte) : (s.shiftOut bs).snd = s.snd := rfl
@[simp] theorem State.shiftOut_smk (s : State) (bs : List Byte) : (s.shiftOut bs).smk = s.smk := rfl
@[simp] theorem State.shiftOut_lgt (s : State) (bs : List Byte) : (s.shiftOut bs).lgt = s.lgt := rfl
@[simp] theorem State.shiftOut_rrx (s : State) (bs : List Byte) : (s.shiftOut bs).rrx = s.rrx := rfl
@[simp] theorem State.shiftOut_sup (s : State) (bs : List Byte) : (s.shiftOut bs).sup = s.sup := rfl
@[simp] theorem State.shiftOut_mem (s : State) (bs : List Byte) : (s.shiftOut bs).mem = s.mem := rfl
@[simp] theorem State.shiftOut_cfg (s : State) (bs : List Byte) : (s.shiftOut bs).cfg = s.cfg := rfl
@[simp] theorem State.shiftOut_configured (s : State) (bs : List Byte) : (s.shiftOut bs).configured = s.configured := rfl
@[simp] theorem State.shiftOut_freeCount (s : State) (bs : List Byte) : (s.shiftOut bs).freeCount = s.freeCount := rfl
@[simp] theorem State.shiftOut_pending (s : State) (bs : List Byte) : (s.shiftOut bs).pending = s.pending := rfl

/-! `State.startModulator` -/

@[simp] theorem State.startModulator_exc (s : State) : (s.startModulator).exc = s.exc := rfl
@[simp] theorem State.startModulator_port (s : State) : (s.startModulator).port = s.port := rfl
@[simp] theorem State.startModulator_drq (s : State) : (s.startModulator).drq = s.drq := rfl
@[simp] theorem State.startModulator_srg (s : State) : (s.startModulator).srg = s.srg := rfl
@[simp] theorem State.startModulator_bfu (s : State) : (s.startModulator).bfu = s.bfu := rfl
@[simp] theorem State.startModulator_chk (s : State) : (s.startModulator).chk = s.chk := rfl
@[simp] theorem State.startModulator_smk (s : State) : (s.startModulator).smk = s.smk := rfl
@[simp] theorem State.startModulator_lgt (s : State) : (s.startModulator).lgt = s.lgt := rfl
@[simp] theorem State.startModulator_rrx (s : State) : (s.startModulator).rrx = s.rrx := rfl
@[simp] theorem State.startModulator_sup (s : State) : (s.startModulator).sup = s.sup := rfl
@[simp] theorem State.startModulator_mem (s : State) : (s.startModulator).mem = s.mem := rfl
@[simp] theorem State.startModulator_cfg (s : State) : (s.startModulator).cfg = s.cfg := rfl
@[simp] theorem State.startModulator_configured (s : State) : (s.startModulator).configured = s.configured := rfl
@[simp] theorem State.startModulator_freeCount (s : State) : (s.startModulator).freeCount = s.freeCount := rfl
@[simp] theorem State.startModulator_pending (s : State) : (s.startModulator).pending = s.pending := rfl

/-! `State.linkOn` -/

@[simp] theorem State.linkOn_exc (s : State) : (s.linkOn).exc = s.exc := rfl
@[simp] theorem State.linkOn_port (s : State) : (s.linkOn).port = s.port := rfl
@[simp] theorem State.linkOn_drq (s : State) : (s.linkOn).drq = s.drq := rfl
@[simp] theorem State.linkOn_srg (s : State) : (s.linkOn).srg = s.srg := rfl
@[simp] theorem State.linkOn_bfu (s : State) : (s.linkOn).bfu = s.bfu := rfl
@[simp] theorem State.linkOn_chk (s : State) : (s.linkOn).chk = s.chk := rfl
@[simp] theorem State.linkOn_snd (s : State) : (s.linkOn).snd = s.snd := rfl
@[simp] theorem State.linkOn_smk (s : State) : (s.linkOn).smk = s.smk := rfl
@[simp] theorem State.linkOn_lgt (s : State) : (s.linkOn).lgt = s.lgt := rfl
@[simp] theorem State.linkOn_sup (s : State) : (s.linkOn).sup = s.sup := rfl
@[simp] theorem State.linkOn_mem (s : State) : (s.linkOn).mem = s.mem := rfl
@[simp] theorem State.linkOn_cfg (s : State) : (s.linkOn).cfg = s.cfg := rfl
@[simp] theorem State.linkOn_configured (s : State) : (s.linkOn).configured = s.configured := rfl
@[simp] theorem State.linkOn_freeCount (s : State) : (s.linkOn).freeCount = s.freeCount := rfl
@[simp] theorem State.linkOn_pending (s : State) : (s.linkOn).pending = s.pending := rfl

/-! `State.beginAdoption` -/

@[simp] theorem State.beginAdoption_port (s : State) (b : Bool) : (s.beginAdoption b).port = s.port := rfl
@[simp] theorem State.beginAdoption_drq (s : State) (b : Bool) : (s.beginAdoption b).drq = s.drq := rfl
@[simp] theorem State.beginAdoption_srg (s : State) (b : Bool) : (s.beginAdoption b).srg = s.srg := rfl
@[simp] theorem State.beginAdoption_bfu (s : State) (b : Bool) : (s.beginAdoption b).bfu = s.bfu := rfl
@[simp] theorem State.beginAdoption_chk (s : State) (b : Bool) : (s.beginAdoption b).chk = s.chk := rfl
@[simp] theorem State.beginAdoption_snd (s : State) (b : Bool) : (s.beginAdoption b).snd = s.snd := rfl
@[simp] theorem State.beginAdoption_smk (s : State) (b : Bool) : (s.beginAdoption b).smk = s.smk := rfl
@[simp] theorem State.beginAdoption_lgt (s : State) (b : Bool) : (s.beginAdoption b).lgt = s.lgt := rfl
@[simp] theorem State.beginAdoption_rrx (s : State) (b : Bool) : (s.beginAdoption b).rrx = s.rrx := rfl
@[simp] theorem State.beginAdoption_sup (s : State) (b : Bool) : (s.beginAdoption b).sup = s.sup := rfl
@[simp] theorem State.beginAdoption_cfg (s : State) (b : Bool) : (s.beginAdoption b).cfg = s.cfg := rfl
@[simp] theorem State.beginAdoption_configured (s : State) (b : Bool) : (s.beginAdoption b).configured = s.configured := rfl
@[simp] theorem State.beginAdoption_freeCount (s : State) (b : Bool) : (s.beginAdoption b).freeCount = s.freeCount := rfl
@[simp] theorem State.beginAdoption_pending (s : State) (b : Bool) : (s.beginAdoption b).pending = s.pending := rfl

/-! `State.nextGroup` -/

@[simp] theorem State.nextGroup_port (s : State) (a : Adoption) (g : Groups) : (s.nextGroup a g).port = s.port := rfl
@[simp] theorem State.nextGroup_drq (s : State) (a : Adoption) (g : Groups) : (s.nextGroup a g).drq = s.drq := rfl
@[simp] theorem State.nextGroup_srg (s : State) (a : Adoption) (g : Groups) : (s.nextGroup a g).srg = s.srg := rfl
@[simp] theorem State.nextGroup_bfu (s : State) (a : Adoption) (g : Groups) : (s.nextGroup a g).bfu = s.bfu := rfl
@[simp] theorem State.nextGroup_chk (s : State) (a : Adoption) (g : Groups) : (s.nextGroup a g).chk = s.chk := rfl
@[simp] theorem State.nextGroup_snd (s : State) (a : Adoption) (g : Groups) : (s.nextGroup a g).snd = s.snd := rfl
@[simp] theorem State.nextGroup_smk (s : State) (a : Adoption) (g : Groups) : (s.nextGroup a g).smk = s.smk := rfl
@[simp] theorem State.nextGroup_lgt (s : State) (a : Adoption) (g : Groups) : (s.nextGroup a g).lgt = s.lgt := rfl
@[simp] theorem State.nextGroup_rrx (s : State) (a : Adoption) (g : Groups) : (s.nextGroup a g).rrx = s.rrx := rfl
@[simp] theorem State.nextGroup_sup (s : State) (a : Adoption) (g : Groups) : (s.nextGroup a g).sup = s.sup := rfl
@[simp] theorem State.nextGroup_mem (s : State) (a : Adoption) (g : Groups) : (s.nextGroup a g).mem = s.mem := rfl
@[simp] theorem State.nextGroup_cfg (s : State) (a : Adoption) (g : Groups) : (s.nextGroup a g).cfg = s.cfg := rfl
@[simp] theorem State.nextGroup_configured (s : State) (a : Adoption) (g : Groups) : (s.nextGroup a g).configured = s.configured := rfl
@[simp] theorem State.nextGroup_freeCount (s : State) (a : Adoption) (g : Groups) : (s.nextGroup a g).freeCount = s.freeCount := rfl
@[simp] theorem State.nextGroup_pending (s : State) (a : Adoption) (g : Groups) : (s.nextGroup a g).pending = s.pending := rfl

/-! `State.dropChuff` -/

@[simp] theorem State.dropChuff_port (s : State) : (s.dropChuff).port = s.port := rfl
@[simp] theorem State.dropChuff_drq (s : State) : (s.dropChuff).drq = s.drq := rfl
@[simp] theorem State.dropChuff_srg (s : State) : (s.dropChuff).srg = s.srg := rfl
@[simp] theorem State.dropChuff_bfu (s : State) : (s.dropChuff).bfu = s.bfu := rfl
@[simp] theorem State.dropChuff_chk (s : State) : (s.dropChuff).chk = s.chk := rfl
@[simp] theorem State.dropChuff_snd (s : State) : (s.dropChuff).snd = s.snd := rfl
@[simp] theorem State.dropChuff_smk (s : State) : (s.dropChuff).smk = s.smk := rfl
@[simp] theorem State.dropChuff_lgt (s : State) : (s.dropChuff).lgt = s.lgt := rfl
@[simp] theorem State.dropChuff_rrx (s : State) : (s.dropChuff).rrx = s.rrx := rfl
@[simp] theorem State.dropChuff_sup (s : State) : (s.dropChuff).sup = s.sup := rfl
@[simp] theorem State.dropChuff_mem (s : State) : (s.dropChuff).mem = s.mem := rfl
@[simp] theorem State.dropChuff_cfg (s : State) : (s.dropChuff).cfg = s.cfg := rfl
@[simp] theorem State.dropChuff_configured (s : State) : (s.dropChuff).configured = s.configured := rfl
@[simp] theorem State.dropChuff_freeCount (s : State) : (s.dropChuff).freeCount = s.freeCount := rfl
@[simp] theorem State.dropChuff_pending (s : State) : (s.dropChuff).pending = s.pending := rfl
@[simp] theorem State.dropChuff_exc_part (s : State) : (s.dropChuff).exc.part = s.exc.part := rfl
@[simp] theorem State.dropChuff_exc_clearing (s : State) : (s.dropChuff).exc.clearing = s.exc.clearing := rfl
@[simp] theorem State.dropChuff_exc_lastCmd (s : State) : (s.dropChuff).exc.lastCmd = s.exc.lastCmd := rfl
@[simp] theorem State.dropChuff_exc_lastResult (s : State) : (s.dropChuff).exc.lastResult = s.exc.lastResult := rfl
@[simp] theorem State.dropChuff_exc_nlat (s : State) : (s.dropChuff).exc.nlat = s.exc.nlat := rfl
@[simp] theorem State.dropChuff_exc_nen (s : State) : (s.dropChuff).exc.nen = s.exc.nen := rfl
@[simp] theorem State.dropChuff_exc_ms (s : State) : (s.dropChuff).exc.ms = s.exc.ms := rfl
@[simp] theorem State.dropChuff_exc_lastTaken (s : State) : (s.dropChuff).exc.lastTaken = s.exc.lastTaken := rfl
@[simp] theorem State.dropChuff_exc_slotState (s : State) : (s.dropChuff).exc.slotState = s.exc.slotState := rfl
@[simp] theorem State.dropChuff_exc_slotMoment (s : State) : (s.dropChuff).exc.slotMoment = s.exc.slotMoment := rfl
@[simp] theorem State.dropChuff_exc_slotEmergency (s : State) : (s.dropChuff).exc.slotEmergency = s.exc.slotEmergency := rfl
@[simp] theorem State.dropChuff_exc_cueTake (s : State) : (s.dropChuff).exc.cueTake = s.exc.cueTake := rfl
@[simp] theorem State.dropChuff_exc_inboxPut (s : State) : (s.dropChuff).exc.inboxPut = s.exc.inboxPut := rfl
@[simp] theorem State.dropChuff_exc_boardGen (s : State) : (s.dropChuff).exc.boardGen = s.exc.boardGen := rfl
@[simp] theorem State.dropChuff_exc_board (s : State) : (s.dropChuff).exc.board = s.exc.board := rfl
@[simp] theorem State.dropChuff_exc_boardHeld (s : State) : (s.dropChuff).exc.boardHeld = s.exc.boardHeld := rfl
@[simp] theorem State.dropChuff_exc_scan (s : State) : (s.dropChuff).exc.scan = s.exc.scan := rfl
@[simp] theorem State.dropChuff_exc_scanHeld (s : State) : (s.dropChuff).exc.scanHeld = s.exc.scanHeld := rfl
@[simp] theorem State.dropChuff_exc_inboxQueue (s : State) : (s.dropChuff).exc.inboxQueue = s.exc.inboxQueue := rfl
@[simp] theorem State.dropChuff_exc_inboxStep (s : State) : (s.dropChuff).exc.inboxStep = s.exc.inboxStep := rfl
@[simp] theorem State.dropChuff_exc_class3Last (s : State) : (s.dropChuff).exc.class3Last = s.exc.class3Last := rfl
@[simp] theorem State.dropChuff_exc_adoption (s : State) : (s.dropChuff).exc.adoption = s.exc.adoption := rfl
@[simp] theorem State.dropChuff_exc_chuffHeld (s : State) : (s.dropChuff).exc.chuffHeld = false := rfl

/-! `State.holdScan` -/

@[simp] theorem State.holdScan_port (s : State) (b : Bool) : (s.holdScan b).port = s.port := rfl
@[simp] theorem State.holdScan_drq (s : State) (b : Bool) : (s.holdScan b).drq = s.drq := rfl
@[simp] theorem State.holdScan_srg (s : State) (b : Bool) : (s.holdScan b).srg = s.srg := rfl
@[simp] theorem State.holdScan_bfu (s : State) (b : Bool) : (s.holdScan b).bfu = s.bfu := rfl
@[simp] theorem State.holdScan_chk (s : State) (b : Bool) : (s.holdScan b).chk = s.chk := rfl
@[simp] theorem State.holdScan_snd (s : State) (b : Bool) : (s.holdScan b).snd = s.snd := rfl
@[simp] theorem State.holdScan_smk (s : State) (b : Bool) : (s.holdScan b).smk = s.smk := rfl
@[simp] theorem State.holdScan_lgt (s : State) (b : Bool) : (s.holdScan b).lgt = s.lgt := rfl
@[simp] theorem State.holdScan_rrx (s : State) (b : Bool) : (s.holdScan b).rrx = s.rrx := rfl
@[simp] theorem State.holdScan_sup (s : State) (b : Bool) : (s.holdScan b).sup = s.sup := rfl
@[simp] theorem State.holdScan_mem (s : State) (b : Bool) : (s.holdScan b).mem = s.mem := rfl
@[simp] theorem State.holdScan_cfg (s : State) (b : Bool) : (s.holdScan b).cfg = s.cfg := rfl
@[simp] theorem State.holdScan_configured (s : State) (b : Bool) : (s.holdScan b).configured = s.configured := rfl
@[simp] theorem State.holdScan_freeCount (s : State) (b : Bool) : (s.holdScan b).freeCount = s.freeCount := rfl
@[simp] theorem State.holdScan_pending (s : State) (b : Bool) : (s.holdScan b).pending = s.pending := rfl
@[simp] theorem State.holdScan_exc_part (s : State) (b : Bool) : (s.holdScan b).exc.part = s.exc.part := rfl
@[simp] theorem State.holdScan_exc_clearing (s : State) (b : Bool) : (s.holdScan b).exc.clearing = s.exc.clearing := rfl
@[simp] theorem State.holdScan_exc_lastCmd (s : State) (b : Bool) : (s.holdScan b).exc.lastCmd = s.exc.lastCmd := rfl
@[simp] theorem State.holdScan_exc_lastResult (s : State) (b : Bool) : (s.holdScan b).exc.lastResult = s.exc.lastResult := rfl
@[simp] theorem State.holdScan_exc_nlat (s : State) (b : Bool) : (s.holdScan b).exc.nlat = s.exc.nlat := rfl
@[simp] theorem State.holdScan_exc_nen (s : State) (b : Bool) : (s.holdScan b).exc.nen = s.exc.nen := rfl
@[simp] theorem State.holdScan_exc_ms (s : State) (b : Bool) : (s.holdScan b).exc.ms = s.exc.ms := rfl
@[simp] theorem State.holdScan_exc_lastTaken (s : State) (b : Bool) : (s.holdScan b).exc.lastTaken = s.exc.lastTaken := rfl
@[simp] theorem State.holdScan_exc_slotState (s : State) (b : Bool) : (s.holdScan b).exc.slotState = s.exc.slotState := rfl
@[simp] theorem State.holdScan_exc_slotMoment (s : State) (b : Bool) : (s.holdScan b).exc.slotMoment = s.exc.slotMoment := rfl
@[simp] theorem State.holdScan_exc_slotEmergency (s : State) (b : Bool) : (s.holdScan b).exc.slotEmergency = s.exc.slotEmergency := rfl
@[simp] theorem State.holdScan_exc_chuffHeld (s : State) (b : Bool) : (s.holdScan b).exc.chuffHeld = s.exc.chuffHeld := rfl
@[simp] theorem State.holdScan_exc_cueTake (s : State) (b : Bool) : (s.holdScan b).exc.cueTake = s.exc.cueTake := rfl
@[simp] theorem State.holdScan_exc_inboxPut (s : State) (b : Bool) : (s.holdScan b).exc.inboxPut = s.exc.inboxPut := rfl
@[simp] theorem State.holdScan_exc_boardGen (s : State) (b : Bool) : (s.holdScan b).exc.boardGen = s.exc.boardGen := rfl
@[simp] theorem State.holdScan_exc_board (s : State) (b : Bool) : (s.holdScan b).exc.board = s.exc.board := rfl
@[simp] theorem State.holdScan_exc_boardHeld (s : State) (b : Bool) : (s.holdScan b).exc.boardHeld = s.exc.boardHeld := rfl
@[simp] theorem State.holdScan_exc_scan (s : State) (b : Bool) : (s.holdScan b).exc.scan = s.exc.scan := rfl
@[simp] theorem State.holdScan_exc_inboxQueue (s : State) (b : Bool) : (s.holdScan b).exc.inboxQueue = s.exc.inboxQueue := rfl
@[simp] theorem State.holdScan_exc_inboxStep (s : State) (b : Bool) : (s.holdScan b).exc.inboxStep = s.exc.inboxStep := rfl
@[simp] theorem State.holdScan_exc_class3Last (s : State) (b : Bool) : (s.holdScan b).exc.class3Last = s.exc.class3Last := rfl
@[simp] theorem State.holdScan_exc_adoption (s : State) (b : Bool) : (s.holdScan b).exc.adoption = s.exc.adoption := rfl
@[simp] theorem State.holdScan_exc_scanHeld (s : State) (b : Bool) : (s.holdScan b).exc.scanHeld = b := rfl

/-! `State.bumpGeneration` -/

@[simp] theorem State.bumpGeneration_port (s : State) : (s.bumpGeneration).port = s.port := rfl
@[simp] theorem State.bumpGeneration_drq (s : State) : (s.bumpGeneration).drq = s.drq := rfl
@[simp] theorem State.bumpGeneration_srg (s : State) : (s.bumpGeneration).srg = s.srg := rfl
@[simp] theorem State.bumpGeneration_bfu (s : State) : (s.bumpGeneration).bfu = s.bfu := rfl
@[simp] theorem State.bumpGeneration_chk (s : State) : (s.bumpGeneration).chk = s.chk := rfl
@[simp] theorem State.bumpGeneration_snd (s : State) : (s.bumpGeneration).snd = s.snd := rfl
@[simp] theorem State.bumpGeneration_smk (s : State) : (s.bumpGeneration).smk = s.smk := rfl
@[simp] theorem State.bumpGeneration_lgt (s : State) : (s.bumpGeneration).lgt = s.lgt := rfl
@[simp] theorem State.bumpGeneration_rrx (s : State) : (s.bumpGeneration).rrx = s.rrx := rfl
@[simp] theorem State.bumpGeneration_sup (s : State) : (s.bumpGeneration).sup = s.sup := rfl
@[simp] theorem State.bumpGeneration_mem (s : State) : (s.bumpGeneration).mem = s.mem := rfl
@[simp] theorem State.bumpGeneration_cfg (s : State) : (s.bumpGeneration).cfg = s.cfg := rfl
@[simp] theorem State.bumpGeneration_configured (s : State) : (s.bumpGeneration).configured = s.configured := rfl
@[simp] theorem State.bumpGeneration_freeCount (s : State) : (s.bumpGeneration).freeCount = s.freeCount := rfl
@[simp] theorem State.bumpGeneration_pending (s : State) : (s.bumpGeneration).pending = s.pending := rfl
@[simp] theorem State.bumpGeneration_exc_part (s : State) : (s.bumpGeneration).exc.part = s.exc.part := rfl
@[simp] theorem State.bumpGeneration_exc_clearing (s : State) : (s.bumpGeneration).exc.clearing = s.exc.clearing := rfl
@[simp] theorem State.bumpGeneration_exc_lastCmd (s : State) : (s.bumpGeneration).exc.lastCmd = s.exc.lastCmd := rfl
@[simp] theorem State.bumpGeneration_exc_lastResult (s : State) : (s.bumpGeneration).exc.lastResult = s.exc.lastResult := rfl
@[simp] theorem State.bumpGeneration_exc_nlat (s : State) : (s.bumpGeneration).exc.nlat = s.exc.nlat := rfl
@[simp] theorem State.bumpGeneration_exc_nen (s : State) : (s.bumpGeneration).exc.nen = s.exc.nen := rfl
@[simp] theorem State.bumpGeneration_exc_ms (s : State) : (s.bumpGeneration).exc.ms = s.exc.ms := rfl
@[simp] theorem State.bumpGeneration_exc_lastTaken (s : State) : (s.bumpGeneration).exc.lastTaken = s.exc.lastTaken := rfl
@[simp] theorem State.bumpGeneration_exc_slotState (s : State) : (s.bumpGeneration).exc.slotState = s.exc.slotState := rfl
@[simp] theorem State.bumpGeneration_exc_slotMoment (s : State) : (s.bumpGeneration).exc.slotMoment = s.exc.slotMoment := rfl
@[simp] theorem State.bumpGeneration_exc_slotEmergency (s : State) : (s.bumpGeneration).exc.slotEmergency = s.exc.slotEmergency := rfl
@[simp] theorem State.bumpGeneration_exc_chuffHeld (s : State) : (s.bumpGeneration).exc.chuffHeld = s.exc.chuffHeld := rfl
@[simp] theorem State.bumpGeneration_exc_cueTake (s : State) : (s.bumpGeneration).exc.cueTake = s.exc.cueTake := rfl
@[simp] theorem State.bumpGeneration_exc_inboxPut (s : State) : (s.bumpGeneration).exc.inboxPut = s.exc.inboxPut := rfl
@[simp] theorem State.bumpGeneration_exc_board (s : State) : (s.bumpGeneration).exc.board = s.exc.board := rfl
@[simp] theorem State.bumpGeneration_exc_boardHeld (s : State) : (s.bumpGeneration).exc.boardHeld = s.exc.boardHeld := rfl
@[simp] theorem State.bumpGeneration_exc_scan (s : State) : (s.bumpGeneration).exc.scan = s.exc.scan := rfl
@[simp] theorem State.bumpGeneration_exc_scanHeld (s : State) : (s.bumpGeneration).exc.scanHeld = s.exc.scanHeld := rfl
@[simp] theorem State.bumpGeneration_exc_inboxQueue (s : State) : (s.bumpGeneration).exc.inboxQueue = s.exc.inboxQueue := rfl
@[simp] theorem State.bumpGeneration_exc_inboxStep (s : State) : (s.bumpGeneration).exc.inboxStep = s.exc.inboxStep := rfl
@[simp] theorem State.bumpGeneration_exc_class3Last (s : State) : (s.bumpGeneration).exc.class3Last = s.exc.class3Last := rfl
@[simp] theorem State.bumpGeneration_exc_adoption (s : State) : (s.bumpGeneration).exc.adoption = s.exc.adoption := rfl
@[simp] theorem State.bumpGeneration_exc_boardGen (s : State) : (s.bumpGeneration).exc.boardGen = s.exc.boardGen + 1 := rfl

/-! `State.boardAt` -/

@[simp] theorem State.boardAt_port (s : State) (k : Option Nat) : (s.boardAt k).port = s.port := rfl
@[simp] theorem State.boardAt_drq (s : State) (k : Option Nat) : (s.boardAt k).drq = s.drq := rfl
@[simp] theorem State.boardAt_srg (s : State) (k : Option Nat) : (s.boardAt k).srg = s.srg := rfl
@[simp] theorem State.boardAt_bfu (s : State) (k : Option Nat) : (s.boardAt k).bfu = s.bfu := rfl
@[simp] theorem State.boardAt_chk (s : State) (k : Option Nat) : (s.boardAt k).chk = s.chk := rfl
@[simp] theorem State.boardAt_snd (s : State) (k : Option Nat) : (s.boardAt k).snd = s.snd := rfl
@[simp] theorem State.boardAt_smk (s : State) (k : Option Nat) : (s.boardAt k).smk = s.smk := rfl
@[simp] theorem State.boardAt_lgt (s : State) (k : Option Nat) : (s.boardAt k).lgt = s.lgt := rfl
@[simp] theorem State.boardAt_rrx (s : State) (k : Option Nat) : (s.boardAt k).rrx = s.rrx := rfl
@[simp] theorem State.boardAt_sup (s : State) (k : Option Nat) : (s.boardAt k).sup = s.sup := rfl
@[simp] theorem State.boardAt_mem (s : State) (k : Option Nat) : (s.boardAt k).mem = s.mem := rfl
@[simp] theorem State.boardAt_cfg (s : State) (k : Option Nat) : (s.boardAt k).cfg = s.cfg := rfl
@[simp] theorem State.boardAt_configured (s : State) (k : Option Nat) : (s.boardAt k).configured = s.configured := rfl
@[simp] theorem State.boardAt_freeCount (s : State) (k : Option Nat) : (s.boardAt k).freeCount = s.freeCount := rfl
@[simp] theorem State.boardAt_pending (s : State) (k : Option Nat) : (s.boardAt k).pending = s.pending := rfl
@[simp] theorem State.boardAt_exc_part (s : State) (k : Option Nat) : (s.boardAt k).exc.part = s.exc.part := rfl
@[simp] theorem State.boardAt_exc_clearing (s : State) (k : Option Nat) : (s.boardAt k).exc.clearing = s.exc.clearing := rfl
@[simp] theorem State.boardAt_exc_lastCmd (s : State) (k : Option Nat) : (s.boardAt k).exc.lastCmd = s.exc.lastCmd := rfl
@[simp] theorem State.boardAt_exc_lastResult (s : State) (k : Option Nat) : (s.boardAt k).exc.lastResult = s.exc.lastResult := rfl
@[simp] theorem State.boardAt_exc_nlat (s : State) (k : Option Nat) : (s.boardAt k).exc.nlat = s.exc.nlat := rfl
@[simp] theorem State.boardAt_exc_nen (s : State) (k : Option Nat) : (s.boardAt k).exc.nen = s.exc.nen := rfl
@[simp] theorem State.boardAt_exc_ms (s : State) (k : Option Nat) : (s.boardAt k).exc.ms = s.exc.ms := rfl
@[simp] theorem State.boardAt_exc_lastTaken (s : State) (k : Option Nat) : (s.boardAt k).exc.lastTaken = s.exc.lastTaken := rfl
@[simp] theorem State.boardAt_exc_slotState (s : State) (k : Option Nat) : (s.boardAt k).exc.slotState = s.exc.slotState := rfl
@[simp] theorem State.boardAt_exc_slotMoment (s : State) (k : Option Nat) : (s.boardAt k).exc.slotMoment = s.exc.slotMoment := rfl
@[simp] theorem State.boardAt_exc_slotEmergency (s : State) (k : Option Nat) : (s.boardAt k).exc.slotEmergency = s.exc.slotEmergency := rfl
@[simp] theorem State.boardAt_exc_chuffHeld (s : State) (k : Option Nat) : (s.boardAt k).exc.chuffHeld = s.exc.chuffHeld := rfl
@[simp] theorem State.boardAt_exc_cueTake (s : State) (k : Option Nat) : (s.boardAt k).exc.cueTake = s.exc.cueTake := rfl
@[simp] theorem State.boardAt_exc_inboxPut (s : State) (k : Option Nat) : (s.boardAt k).exc.inboxPut = s.exc.inboxPut := rfl
@[simp] theorem State.boardAt_exc_boardGen (s : State) (k : Option Nat) : (s.boardAt k).exc.boardGen = s.exc.boardGen := rfl
@[simp] theorem State.boardAt_exc_boardHeld (s : State) (k : Option Nat) : (s.boardAt k).exc.boardHeld = s.exc.boardHeld := rfl
@[simp] theorem State.boardAt_exc_scan (s : State) (k : Option Nat) : (s.boardAt k).exc.scan = s.exc.scan := rfl
@[simp] theorem State.boardAt_exc_scanHeld (s : State) (k : Option Nat) : (s.boardAt k).exc.scanHeld = s.exc.scanHeld := rfl
@[simp] theorem State.boardAt_exc_inboxQueue (s : State) (k : Option Nat) : (s.boardAt k).exc.inboxQueue = s.exc.inboxQueue := rfl
@[simp] theorem State.boardAt_exc_inboxStep (s : State) (k : Option Nat) : (s.boardAt k).exc.inboxStep = s.exc.inboxStep := rfl
@[simp] theorem State.boardAt_exc_class3Last (s : State) (k : Option Nat) : (s.boardAt k).exc.class3Last = s.exc.class3Last := rfl
@[simp] theorem State.boardAt_exc_adoption (s : State) (k : Option Nat) : (s.boardAt k).exc.adoption = s.exc.adoption := rfl
@[simp] theorem State.boardAt_exc_board (s : State) (k : Option Nat) : (s.boardAt k).exc.board = k := rfl

/-! `State.writeGeneration` -/

@[simp] theorem State.writeGeneration_exc (s : State) : (s.writeGeneration).exc = s.exc := rfl
@[simp] theorem State.writeGeneration_port (s : State) : (s.writeGeneration).port = s.port := rfl
@[simp] theorem State.writeGeneration_drq (s : State) : (s.writeGeneration).drq = s.drq := rfl
@[simp] theorem State.writeGeneration_srg (s : State) : (s.writeGeneration).srg = s.srg := rfl
@[simp] theorem State.writeGeneration_bfu (s : State) : (s.writeGeneration).bfu = s.bfu := rfl
@[simp] theorem State.writeGeneration_chk (s : State) : (s.writeGeneration).chk = s.chk := rfl
@[simp] theorem State.writeGeneration_snd (s : State) : (s.writeGeneration).snd = s.snd := rfl
@[simp] theorem State.writeGeneration_smk (s : State) : (s.writeGeneration).smk = s.smk := rfl
@[simp] theorem State.writeGeneration_lgt (s : State) : (s.writeGeneration).lgt = s.lgt := rfl
@[simp] theorem State.writeGeneration_rrx (s : State) : (s.writeGeneration).rrx = s.rrx := rfl
@[simp] theorem State.writeGeneration_sup (s : State) : (s.writeGeneration).sup = s.sup := rfl
@[simp] theorem State.writeGeneration_cfg (s : State) : (s.writeGeneration).cfg = s.cfg := rfl
@[simp] theorem State.writeGeneration_configured (s : State) : (s.writeGeneration).configured = s.configured := rfl
@[simp] theorem State.writeGeneration_freeCount (s : State) : (s.writeGeneration).freeCount = s.freeCount := rfl
@[simp] theorem State.writeGeneration_pending (s : State) : (s.writeGeneration).pending = s.pending := rfl

/-! `State.noteGrant` -/

@[simp] theorem State.noteGrant_port (s : State) (w : Class3) : (s.noteGrant w).port = s.port := rfl
@[simp] theorem State.noteGrant_drq (s : State) (w : Class3) : (s.noteGrant w).drq = s.drq := rfl
@[simp] theorem State.noteGrant_srg (s : State) (w : Class3) : (s.noteGrant w).srg = s.srg := rfl
@[simp] theorem State.noteGrant_bfu (s : State) (w : Class3) : (s.noteGrant w).bfu = s.bfu := rfl
@[simp] theorem State.noteGrant_chk (s : State) (w : Class3) : (s.noteGrant w).chk = s.chk := rfl
@[simp] theorem State.noteGrant_snd (s : State) (w : Class3) : (s.noteGrant w).snd = s.snd := rfl
@[simp] theorem State.noteGrant_smk (s : State) (w : Class3) : (s.noteGrant w).smk = s.smk := rfl
@[simp] theorem State.noteGrant_lgt (s : State) (w : Class3) : (s.noteGrant w).lgt = s.lgt := rfl
@[simp] theorem State.noteGrant_rrx (s : State) (w : Class3) : (s.noteGrant w).rrx = s.rrx := rfl
@[simp] theorem State.noteGrant_sup (s : State) (w : Class3) : (s.noteGrant w).sup = s.sup := rfl
@[simp] theorem State.noteGrant_mem (s : State) (w : Class3) : (s.noteGrant w).mem = s.mem := rfl
@[simp] theorem State.noteGrant_cfg (s : State) (w : Class3) : (s.noteGrant w).cfg = s.cfg := rfl
@[simp] theorem State.noteGrant_configured (s : State) (w : Class3) : (s.noteGrant w).configured = s.configured := rfl
@[simp] theorem State.noteGrant_freeCount (s : State) (w : Class3) : (s.noteGrant w).freeCount = s.freeCount := rfl
@[simp] theorem State.noteGrant_pending (s : State) (w : Class3) : (s.noteGrant w).pending = s.pending := rfl

/-! `State.countMs` -/

@[simp] theorem State.countMs_exc (s : State) : (s.countMs).exc = s.exc := rfl
@[simp] theorem State.countMs_port (s : State) : (s.countMs).port = s.port := rfl
@[simp] theorem State.countMs_drq (s : State) : (s.countMs).drq = s.drq := rfl
@[simp] theorem State.countMs_bfu (s : State) : (s.countMs).bfu = s.bfu := rfl
@[simp] theorem State.countMs_snd (s : State) : (s.countMs).snd = s.snd := rfl
@[simp] theorem State.countMs_smk (s : State) : (s.countMs).smk = s.smk := rfl
@[simp] theorem State.countMs_lgt (s : State) : (s.countMs).lgt = s.lgt := rfl
@[simp] theorem State.countMs_sup (s : State) : (s.countMs).sup = s.sup := rfl
@[simp] theorem State.countMs_mem (s : State) : (s.countMs).mem = s.mem := rfl
@[simp] theorem State.countMs_cfg (s : State) : (s.countMs).cfg = s.cfg := rfl
@[simp] theorem State.countMs_configured (s : State) : (s.countMs).configured = s.configured := rfl
@[simp] theorem State.countMs_freeCount (s : State) : (s.countMs).freeCount = s.freeCount := rfl
@[simp] theorem State.countMs_pending (s : State) : (s.countMs).pending = s.pending := rfl

/-! `State.onChan` -/

@[simp] theorem State.onChan_exc (s : State) (m : Motor) (f : Channel → Channel) : (s.onChan m f).exc = s.exc := rfl
@[simp] theorem State.onChan_port (s : State) (m : Motor) (f : Channel → Channel) : (s.onChan m f).port = s.port := rfl
@[simp] theorem State.onChan_drq (s : State) (m : Motor) (f : Channel → Channel) : (s.onChan m f).drq = s.drq := rfl
@[simp] theorem State.onChan_srg (s : State) (m : Motor) (f : Channel → Channel) : (s.onChan m f).srg = s.srg := rfl
@[simp] theorem State.onChan_chk (s : State) (m : Motor) (f : Channel → Channel) : (s.onChan m f).chk = s.chk := rfl
@[simp] theorem State.onChan_snd (s : State) (m : Motor) (f : Channel → Channel) : (s.onChan m f).snd = s.snd := rfl
@[simp] theorem State.onChan_smk (s : State) (m : Motor) (f : Channel → Channel) : (s.onChan m f).smk = s.smk := rfl
@[simp] theorem State.onChan_lgt (s : State) (m : Motor) (f : Channel → Channel) : (s.onChan m f).lgt = s.lgt := rfl
@[simp] theorem State.onChan_rrx (s : State) (m : Motor) (f : Channel → Channel) : (s.onChan m f).rrx = s.rrx := rfl
@[simp] theorem State.onChan_sup (s : State) (m : Motor) (f : Channel → Channel) : (s.onChan m f).sup = s.sup := rfl
@[simp] theorem State.onChan_mem (s : State) (m : Motor) (f : Channel → Channel) : (s.onChan m f).mem = s.mem := rfl
@[simp] theorem State.onChan_cfg (s : State) (m : Motor) (f : Channel → Channel) : (s.onChan m f).cfg = s.cfg := rfl
@[simp] theorem State.onChan_configured (s : State) (m : Motor) (f : Channel → Channel) : (s.onChan m f).configured = s.configured := rfl
@[simp] theorem State.onChan_freeCount (s : State) (m : Motor) (f : Channel → Channel) : (s.onChan m f).freeCount = s.freeCount := rfl
@[simp] theorem State.onChan_pending (s : State) (m : Motor) (f : Channel → Channel) : (s.onChan m f).pending = s.pending := rfl

/-! `State.onChans` -/

@[simp] theorem State.onChans_exc (s : State) (f : Channel → Channel) : (s.onChans f).exc = s.exc := rfl
@[simp] theorem State.onChans_port (s : State) (f : Channel → Channel) : (s.onChans f).port = s.port := rfl
@[simp] theorem State.onChans_drq (s : State) (f : Channel → Channel) : (s.onChans f).drq = s.drq := rfl
@[simp] theorem State.onChans_srg (s : State) (f : Channel → Channel) : (s.onChans f).srg = s.srg := rfl
@[simp] theorem State.onChans_chk (s : State) (f : Channel → Channel) : (s.onChans f).chk = s.chk := rfl
@[simp] theorem State.onChans_snd (s : State) (f : Channel → Channel) : (s.onChans f).snd = s.snd := rfl
@[simp] theorem State.onChans_smk (s : State) (f : Channel → Channel) : (s.onChans f).smk = s.smk := rfl
@[simp] theorem State.onChans_lgt (s : State) (f : Channel → Channel) : (s.onChans f).lgt = s.lgt := rfl
@[simp] theorem State.onChans_rrx (s : State) (f : Channel → Channel) : (s.onChans f).rrx = s.rrx := rfl
@[simp] theorem State.onChans_sup (s : State) (f : Channel → Channel) : (s.onChans f).sup = s.sup := rfl
@[simp] theorem State.onChans_mem (s : State) (f : Channel → Channel) : (s.onChans f).mem = s.mem := rfl
@[simp] theorem State.onChans_cfg (s : State) (f : Channel → Channel) : (s.onChans f).cfg = s.cfg := rfl
@[simp] theorem State.onChans_configured (s : State) (f : Channel → Channel) : (s.onChans f).configured = s.configured := rfl
@[simp] theorem State.onChans_freeCount (s : State) (f : Channel → Channel) : (s.onChans f).freeCount = s.freeCount := rfl
@[simp] theorem State.onChans_pending (s : State) (f : Channel → Channel) : (s.onChans f).pending = s.pending := rfl

/-! `State.handDuty` -/

@[simp] theorem State.handDuty_exc (s : State) (m : Motor) (d : Nat) : (s.handDuty m d).exc = s.exc := rfl
@[simp] theorem State.handDuty_port (s : State) (m : Motor) (d : Nat) : (s.handDuty m d).port = s.port := rfl
@[simp] theorem State.handDuty_drq (s : State) (m : Motor) (d : Nat) : (s.handDuty m d).drq = s.drq := rfl
@[simp] theorem State.handDuty_srg (s : State) (m : Motor) (d : Nat) : (s.handDuty m d).srg = s.srg := rfl
@[simp] theorem State.handDuty_chk (s : State) (m : Motor) (d : Nat) : (s.handDuty m d).chk = s.chk := rfl
@[simp] theorem State.handDuty_snd (s : State) (m : Motor) (d : Nat) : (s.handDuty m d).snd = s.snd := rfl
@[simp] theorem State.handDuty_smk (s : State) (m : Motor) (d : Nat) : (s.handDuty m d).smk = s.smk := rfl
@[simp] theorem State.handDuty_lgt (s : State) (m : Motor) (d : Nat) : (s.handDuty m d).lgt = s.lgt := rfl
@[simp] theorem State.handDuty_rrx (s : State) (m : Motor) (d : Nat) : (s.handDuty m d).rrx = s.rrx := rfl
@[simp] theorem State.handDuty_sup (s : State) (m : Motor) (d : Nat) : (s.handDuty m d).sup = s.sup := rfl
@[simp] theorem State.handDuty_mem (s : State) (m : Motor) (d : Nat) : (s.handDuty m d).mem = s.mem := rfl
@[simp] theorem State.handDuty_cfg (s : State) (m : Motor) (d : Nat) : (s.handDuty m d).cfg = s.cfg := rfl
@[simp] theorem State.handDuty_configured (s : State) (m : Motor) (d : Nat) : (s.handDuty m d).configured = s.configured := rfl
@[simp] theorem State.handDuty_freeCount (s : State) (m : Motor) (d : Nat) : (s.handDuty m d).freeCount = s.freeCount := rfl
@[simp] theorem State.handDuty_pending (s : State) (m : Motor) (d : Nat) : (s.handDuty m d).pending = s.pending := rfl

/-! `State.endSlip` -/

@[simp] theorem State.endSlip_exc (s : State) : (s.endSlip).exc = s.exc := rfl
@[simp] theorem State.endSlip_port (s : State) : (s.endSlip).port = s.port := rfl
@[simp] theorem State.endSlip_drq (s : State) : (s.endSlip).drq = s.drq := rfl
@[simp] theorem State.endSlip_srg (s : State) : (s.endSlip).srg = s.srg := rfl
@[simp] theorem State.endSlip_chk (s : State) : (s.endSlip).chk = s.chk := rfl
@[simp] theorem State.endSlip_snd (s : State) : (s.endSlip).snd = s.snd := rfl
@[simp] theorem State.endSlip_smk (s : State) : (s.endSlip).smk = s.smk := rfl
@[simp] theorem State.endSlip_lgt (s : State) : (s.endSlip).lgt = s.lgt := rfl
@[simp] theorem State.endSlip_rrx (s : State) : (s.endSlip).rrx = s.rrx := rfl
@[simp] theorem State.endSlip_sup (s : State) : (s.endSlip).sup = s.sup := rfl
@[simp] theorem State.endSlip_mem (s : State) : (s.endSlip).mem = s.mem := rfl
@[simp] theorem State.endSlip_cfg (s : State) : (s.endSlip).cfg = s.cfg := rfl
@[simp] theorem State.endSlip_configured (s : State) : (s.endSlip).configured = s.configured := rfl
@[simp] theorem State.endSlip_freeCount (s : State) : (s.endSlip).freeCount = s.freeCount := rfl
@[simp] theorem State.endSlip_pending (s : State) : (s.endSlip).pending = s.pending := rfl

/-! `State.haltBridge` -/

@[simp] theorem State.haltBridge_exc (s : State) : (s.haltBridge).exc = s.exc := rfl
@[simp] theorem State.haltBridge_port (s : State) : (s.haltBridge).port = s.port := rfl
@[simp] theorem State.haltBridge_drq (s : State) : (s.haltBridge).drq = s.drq := rfl
@[simp] theorem State.haltBridge_srg (s : State) : (s.haltBridge).srg = s.srg := rfl
@[simp] theorem State.haltBridge_chk (s : State) : (s.haltBridge).chk = s.chk := rfl
@[simp] theorem State.haltBridge_snd (s : State) : (s.haltBridge).snd = s.snd := rfl
@[simp] theorem State.haltBridge_smk (s : State) : (s.haltBridge).smk = s.smk := rfl
@[simp] theorem State.haltBridge_lgt (s : State) : (s.haltBridge).lgt = s.lgt := rfl
@[simp] theorem State.haltBridge_rrx (s : State) : (s.haltBridge).rrx = s.rrx := rfl
@[simp] theorem State.haltBridge_sup (s : State) : (s.haltBridge).sup = s.sup := rfl
@[simp] theorem State.haltBridge_mem (s : State) : (s.haltBridge).mem = s.mem := rfl
@[simp] theorem State.haltBridge_cfg (s : State) : (s.haltBridge).cfg = s.cfg := rfl
@[simp] theorem State.haltBridge_configured (s : State) : (s.haltBridge).configured = s.configured := rfl
@[simp] theorem State.haltBridge_freeCount (s : State) : (s.haltBridge).freeCount = s.freeCount := rfl
@[simp] theorem State.haltBridge_pending (s : State) : (s.haltBridge).pending = s.pending := rfl

/-! `State.adoptBridge` -/

@[simp] theorem State.adoptBridge_exc (s : State) : (s.adoptBridge).exc = s.exc := rfl
@[simp] theorem State.adoptBridge_port (s : State) : (s.adoptBridge).port = s.port := rfl
@[simp] theorem State.adoptBridge_drq (s : State) : (s.adoptBridge).drq = s.drq := rfl
@[simp] theorem State.adoptBridge_srg (s : State) : (s.adoptBridge).srg = s.srg := rfl
@[simp] theorem State.adoptBridge_chk (s : State) : (s.adoptBridge).chk = s.chk := rfl
@[simp] theorem State.adoptBridge_snd (s : State) : (s.adoptBridge).snd = s.snd := rfl
@[simp] theorem State.adoptBridge_smk (s : State) : (s.adoptBridge).smk = s.smk := rfl
@[simp] theorem State.adoptBridge_lgt (s : State) : (s.adoptBridge).lgt = s.lgt := rfl
@[simp] theorem State.adoptBridge_rrx (s : State) : (s.adoptBridge).rrx = s.rrx := rfl
@[simp] theorem State.adoptBridge_sup (s : State) : (s.adoptBridge).sup = s.sup := rfl
@[simp] theorem State.adoptBridge_mem (s : State) : (s.adoptBridge).mem = s.mem := rfl
@[simp] theorem State.adoptBridge_cfg (s : State) : (s.adoptBridge).cfg = s.cfg := rfl
@[simp] theorem State.adoptBridge_configured (s : State) : (s.adoptBridge).configured = s.configured := rfl
@[simp] theorem State.adoptBridge_freeCount (s : State) : (s.adoptBridge).freeCount = s.freeCount := rfl
@[simp] theorem State.adoptBridge_pending (s : State) : (s.adoptBridge).pending = s.pending := rfl

/-! `State.clearTrip` -/

@[simp] theorem State.clearTrip_exc (s : State) : (s.clearTrip).exc = s.exc := rfl
@[simp] theorem State.clearTrip_port (s : State) : (s.clearTrip).port = s.port := rfl
@[simp] theorem State.clearTrip_drq (s : State) : (s.clearTrip).drq = s.drq := rfl
@[simp] theorem State.clearTrip_srg (s : State) : (s.clearTrip).srg = s.srg := rfl
@[simp] theorem State.clearTrip_chk (s : State) : (s.clearTrip).chk = s.chk := rfl
@[simp] theorem State.clearTrip_snd (s : State) : (s.clearTrip).snd = s.snd := rfl
@[simp] theorem State.clearTrip_smk (s : State) : (s.clearTrip).smk = s.smk := rfl
@[simp] theorem State.clearTrip_lgt (s : State) : (s.clearTrip).lgt = s.lgt := rfl
@[simp] theorem State.clearTrip_rrx (s : State) : (s.clearTrip).rrx = s.rrx := rfl
@[simp] theorem State.clearTrip_sup (s : State) : (s.clearTrip).sup = s.sup := rfl
@[simp] theorem State.clearTrip_mem (s : State) : (s.clearTrip).mem = s.mem := rfl
@[simp] theorem State.clearTrip_cfg (s : State) : (s.clearTrip).cfg = s.cfg := rfl
@[simp] theorem State.clearTrip_configured (s : State) : (s.clearTrip).configured = s.configured := rfl
@[simp] theorem State.clearTrip_freeCount (s : State) : (s.clearTrip).freeCount = s.freeCount := rfl
@[simp] theorem State.clearTrip_pending (s : State) : (s.clearTrip).pending = s.pending := rfl

/-! `State.clearPersist` -/

@[simp] theorem State.clearPersist_exc (s : State) : (s.clearPersist).exc = s.exc := rfl
@[simp] theorem State.clearPersist_port (s : State) : (s.clearPersist).port = s.port := rfl
@[simp] theorem State.clearPersist_drq (s : State) : (s.clearPersist).drq = s.drq := rfl
@[simp] theorem State.clearPersist_srg (s : State) : (s.clearPersist).srg = s.srg := rfl
@[simp] theorem State.clearPersist_chk (s : State) : (s.clearPersist).chk = s.chk := rfl
@[simp] theorem State.clearPersist_snd (s : State) : (s.clearPersist).snd = s.snd := rfl
@[simp] theorem State.clearPersist_smk (s : State) : (s.clearPersist).smk = s.smk := rfl
@[simp] theorem State.clearPersist_lgt (s : State) : (s.clearPersist).lgt = s.lgt := rfl
@[simp] theorem State.clearPersist_rrx (s : State) : (s.clearPersist).rrx = s.rrx := rfl
@[simp] theorem State.clearPersist_sup (s : State) : (s.clearPersist).sup = s.sup := rfl
@[simp] theorem State.clearPersist_mem (s : State) : (s.clearPersist).mem = s.mem := rfl
@[simp] theorem State.clearPersist_cfg (s : State) : (s.clearPersist).cfg = s.cfg := rfl
@[simp] theorem State.clearPersist_configured (s : State) : (s.clearPersist).configured = s.configured := rfl
@[simp] theorem State.clearPersist_freeCount (s : State) : (s.clearPersist).freeCount = s.freeCount := rfl
@[simp] theorem State.clearPersist_pending (s : State) : (s.clearPersist).pending = s.pending := rfl

/-! `State.windowEnding` -/

@[simp] theorem State.windowEnding_exc (s : State) : (s.windowEnding).exc = s.exc := rfl
@[simp] theorem State.windowEnding_port (s : State) : (s.windowEnding).port = s.port := rfl
@[simp] theorem State.windowEnding_drq (s : State) : (s.windowEnding).drq = s.drq := rfl
@[simp] theorem State.windowEnding_srg (s : State) : (s.windowEnding).srg = s.srg := rfl
@[simp] theorem State.windowEnding_chk (s : State) : (s.windowEnding).chk = s.chk := rfl
@[simp] theorem State.windowEnding_snd (s : State) : (s.windowEnding).snd = s.snd := rfl
@[simp] theorem State.windowEnding_smk (s : State) : (s.windowEnding).smk = s.smk := rfl
@[simp] theorem State.windowEnding_lgt (s : State) : (s.windowEnding).lgt = s.lgt := rfl
@[simp] theorem State.windowEnding_rrx (s : State) : (s.windowEnding).rrx = s.rrx := rfl
@[simp] theorem State.windowEnding_sup (s : State) : (s.windowEnding).sup = s.sup := rfl
@[simp] theorem State.windowEnding_mem (s : State) : (s.windowEnding).mem = s.mem := rfl
@[simp] theorem State.windowEnding_cfg (s : State) : (s.windowEnding).cfg = s.cfg := rfl
@[simp] theorem State.windowEnding_configured (s : State) : (s.windowEnding).configured = s.configured := rfl
@[simp] theorem State.windowEnding_freeCount (s : State) : (s.windowEnding).freeCount = s.freeCount := rfl
@[simp] theorem State.windowEnding_pending (s : State) : (s.windowEnding).pending = s.pending := rfl

/-! `State.judgeChannels` -/

@[simp] theorem State.judgeChannels_exc (s : State) : (s.judgeChannels).exc = s.exc := rfl
@[simp] theorem State.judgeChannels_port (s : State) : (s.judgeChannels).port = s.port := rfl
@[simp] theorem State.judgeChannels_drq (s : State) : (s.judgeChannels).drq = s.drq := rfl
@[simp] theorem State.judgeChannels_srg (s : State) : (s.judgeChannels).srg = s.srg := rfl
@[simp] theorem State.judgeChannels_chk (s : State) : (s.judgeChannels).chk = s.chk := rfl
@[simp] theorem State.judgeChannels_snd (s : State) : (s.judgeChannels).snd = s.snd := rfl
@[simp] theorem State.judgeChannels_smk (s : State) : (s.judgeChannels).smk = s.smk := rfl
@[simp] theorem State.judgeChannels_lgt (s : State) : (s.judgeChannels).lgt = s.lgt := rfl
@[simp] theorem State.judgeChannels_rrx (s : State) : (s.judgeChannels).rrx = s.rrx := rfl
@[simp] theorem State.judgeChannels_sup (s : State) : (s.judgeChannels).sup = s.sup := rfl
@[simp] theorem State.judgeChannels_mem (s : State) : (s.judgeChannels).mem = s.mem := rfl
@[simp] theorem State.judgeChannels_cfg (s : State) : (s.judgeChannels).cfg = s.cfg := rfl
@[simp] theorem State.judgeChannels_configured (s : State) : (s.judgeChannels).configured = s.configured := rfl
@[simp] theorem State.judgeChannels_freeCount (s : State) : (s.judgeChannels).freeCount = s.freeCount := rfl
@[simp] theorem State.judgeChannels_pending (s : State) : (s.judgeChannels).pending = s.pending := rfl

/-! `State.closeWindow` -/

@[simp] theorem State.closeWindow_exc (s : State) : (s.closeWindow).exc = s.exc := rfl
@[simp] theorem State.closeWindow_port (s : State) : (s.closeWindow).port = s.port := rfl
@[simp] theorem State.closeWindow_drq (s : State) : (s.closeWindow).drq = s.drq := rfl
@[simp] theorem State.closeWindow_srg (s : State) : (s.closeWindow).srg = s.srg := rfl
@[simp] theorem State.closeWindow_chk (s : State) : (s.closeWindow).chk = s.chk := rfl
@[simp] theorem State.closeWindow_snd (s : State) : (s.closeWindow).snd = s.snd := rfl
@[simp] theorem State.closeWindow_smk (s : State) : (s.closeWindow).smk = s.smk := rfl
@[simp] theorem State.closeWindow_lgt (s : State) : (s.closeWindow).lgt = s.lgt := rfl
@[simp] theorem State.closeWindow_rrx (s : State) : (s.closeWindow).rrx = s.rrx := rfl
@[simp] theorem State.closeWindow_sup (s : State) : (s.closeWindow).sup = s.sup := rfl
@[simp] theorem State.closeWindow_mem (s : State) : (s.closeWindow).mem = s.mem := rfl
@[simp] theorem State.closeWindow_cfg (s : State) : (s.closeWindow).cfg = s.cfg := rfl
@[simp] theorem State.closeWindow_configured (s : State) : (s.closeWindow).configured = s.configured := rfl
@[simp] theorem State.closeWindow_freeCount (s : State) : (s.closeWindow).freeCount = s.freeCount := rfl
@[simp] theorem State.closeWindow_pending (s : State) : (s.closeWindow).pending = s.pending := rfl

/-! `State.takeModes` -/

@[simp] theorem State.takeModes_exc (s : State) : (s.takeModes).exc = s.exc := rfl
@[simp] theorem State.takeModes_port (s : State) : (s.takeModes).port = s.port := rfl
@[simp] theorem State.takeModes_drq (s : State) : (s.takeModes).drq = s.drq := rfl
@[simp] theorem State.takeModes_srg (s : State) : (s.takeModes).srg = s.srg := rfl
@[simp] theorem State.takeModes_chk (s : State) : (s.takeModes).chk = s.chk := rfl
@[simp] theorem State.takeModes_snd (s : State) : (s.takeModes).snd = s.snd := rfl
@[simp] theorem State.takeModes_smk (s : State) : (s.takeModes).smk = s.smk := rfl
@[simp] theorem State.takeModes_lgt (s : State) : (s.takeModes).lgt = s.lgt := rfl
@[simp] theorem State.takeModes_rrx (s : State) : (s.takeModes).rrx = s.rrx := rfl
@[simp] theorem State.takeModes_sup (s : State) : (s.takeModes).sup = s.sup := rfl
@[simp] theorem State.takeModes_mem (s : State) : (s.takeModes).mem = s.mem := rfl
@[simp] theorem State.takeModes_cfg (s : State) : (s.takeModes).cfg = s.cfg := rfl
@[simp] theorem State.takeModes_configured (s : State) : (s.takeModes).configured = s.configured := rfl
@[simp] theorem State.takeModes_freeCount (s : State) : (s.takeModes).freeCount = s.freeCount := rfl
@[simp] theorem State.takeModes_pending (s : State) : (s.takeModes).pending = s.pending := rfl

/-! `State.pwmTick` -/

@[simp] theorem State.pwmTick_exc (s : State) : (s.pwmTick).exc = s.exc := rfl
@[simp] theorem State.pwmTick_port (s : State) : (s.pwmTick).port = s.port := rfl
@[simp] theorem State.pwmTick_drq (s : State) : (s.pwmTick).drq = s.drq := rfl
@[simp] theorem State.pwmTick_srg (s : State) : (s.pwmTick).srg = s.srg := rfl
@[simp] theorem State.pwmTick_chk (s : State) : (s.pwmTick).chk = s.chk := rfl
@[simp] theorem State.pwmTick_snd (s : State) : (s.pwmTick).snd = s.snd := rfl
@[simp] theorem State.pwmTick_smk (s : State) : (s.pwmTick).smk = s.smk := rfl
@[simp] theorem State.pwmTick_lgt (s : State) : (s.pwmTick).lgt = s.lgt := rfl
@[simp] theorem State.pwmTick_rrx (s : State) : (s.pwmTick).rrx = s.rrx := rfl
@[simp] theorem State.pwmTick_sup (s : State) : (s.pwmTick).sup = s.sup := rfl
@[simp] theorem State.pwmTick_mem (s : State) : (s.pwmTick).mem = s.mem := rfl
@[simp] theorem State.pwmTick_cfg (s : State) : (s.pwmTick).cfg = s.cfg := rfl
@[simp] theorem State.pwmTick_configured (s : State) : (s.pwmTick).configured = s.configured := rfl
@[simp] theorem State.pwmTick_freeCount (s : State) : (s.pwmTick).freeCount = s.freeCount := rfl
@[simp] theorem State.pwmTick_pending (s : State) : (s.pwmTick).pending = s.pending := rfl

/-! `State.chuffStanding` -/

@[simp] theorem State.chuffStanding_exc (s : State) : (s.chuffStanding).exc = s.exc := rfl
@[simp] theorem State.chuffStanding_port (s : State) : (s.chuffStanding).port = s.port := rfl
@[simp] theorem State.chuffStanding_drq (s : State) : (s.chuffStanding).drq = s.drq := rfl
@[simp] theorem State.chuffStanding_srg (s : State) : (s.chuffStanding).srg = s.srg := rfl
@[simp] theorem State.chuffStanding_bfu (s : State) : (s.chuffStanding).bfu = s.bfu := rfl
@[simp] theorem State.chuffStanding_snd (s : State) : (s.chuffStanding).snd = s.snd := rfl
@[simp] theorem State.chuffStanding_smk (s : State) : (s.chuffStanding).smk = s.smk := rfl
@[simp] theorem State.chuffStanding_lgt (s : State) : (s.chuffStanding).lgt = s.lgt := rfl
@[simp] theorem State.chuffStanding_rrx (s : State) : (s.chuffStanding).rrx = s.rrx := rfl
@[simp] theorem State.chuffStanding_sup (s : State) : (s.chuffStanding).sup = s.sup := rfl
@[simp] theorem State.chuffStanding_mem (s : State) : (s.chuffStanding).mem = s.mem := rfl
@[simp] theorem State.chuffStanding_cfg (s : State) : (s.chuffStanding).cfg = s.cfg := rfl
@[simp] theorem State.chuffStanding_configured (s : State) : (s.chuffStanding).configured = s.configured := rfl
@[simp] theorem State.chuffStanding_freeCount (s : State) : (s.chuffStanding).freeCount = s.freeCount := rfl
@[simp] theorem State.chuffStanding_pending (s : State) : (s.chuffStanding).pending = s.pending := rfl

/-! `State.haltChuff` -/

@[simp] theorem State.haltChuff_exc (s : State) : (s.haltChuff).exc = s.exc := rfl
@[simp] theorem State.haltChuff_port (s : State) : (s.haltChuff).port = s.port := rfl
@[simp] theorem State.haltChuff_drq (s : State) : (s.haltChuff).drq = s.drq := rfl
@[simp] theorem State.haltChuff_srg (s : State) : (s.haltChuff).srg = s.srg := rfl
@[simp] theorem State.haltChuff_bfu (s : State) : (s.haltChuff).bfu = s.bfu := rfl
@[simp] theorem State.haltChuff_snd (s : State) : (s.haltChuff).snd = s.snd := rfl
@[simp] theorem State.haltChuff_smk (s : State) : (s.haltChuff).smk = s.smk := rfl
@[simp] theorem State.haltChuff_lgt (s : State) : (s.haltChuff).lgt = s.lgt := rfl
@[simp] theorem State.haltChuff_rrx (s : State) : (s.haltChuff).rrx = s.rrx := rfl
@[simp] theorem State.haltChuff_sup (s : State) : (s.haltChuff).sup = s.sup := rfl
@[simp] theorem State.haltChuff_mem (s : State) : (s.haltChuff).mem = s.mem := rfl
@[simp] theorem State.haltChuff_cfg (s : State) : (s.haltChuff).cfg = s.cfg := rfl
@[simp] theorem State.haltChuff_configured (s : State) : (s.haltChuff).configured = s.configured := rfl
@[simp] theorem State.haltChuff_freeCount (s : State) : (s.haltChuff).freeCount = s.freeCount := rfl
@[simp] theorem State.haltChuff_pending (s : State) : (s.haltChuff).pending = s.pending := rfl

/-! `State.stopTurn` -/

@[simp] theorem State.stopTurn_exc (s : State) : (s.stopTurn).exc = s.exc := rfl
@[simp] theorem State.stopTurn_port (s : State) : (s.stopTurn).port = s.port := rfl
@[simp] theorem State.stopTurn_drq (s : State) : (s.stopTurn).drq = s.drq := rfl
@[simp] theorem State.stopTurn_bfu (s : State) : (s.stopTurn).bfu = s.bfu := rfl
@[simp] theorem State.stopTurn_chk (s : State) : (s.stopTurn).chk = s.chk := rfl
@[simp] theorem State.stopTurn_snd (s : State) : (s.stopTurn).snd = s.snd := rfl
@[simp] theorem State.stopTurn_smk (s : State) : (s.stopTurn).smk = s.smk := rfl
@[simp] theorem State.stopTurn_lgt (s : State) : (s.stopTurn).lgt = s.lgt := rfl
@[simp] theorem State.stopTurn_rrx (s : State) : (s.stopTurn).rrx = s.rrx := rfl
@[simp] theorem State.stopTurn_sup (s : State) : (s.stopTurn).sup = s.sup := rfl
@[simp] theorem State.stopTurn_mem (s : State) : (s.stopTurn).mem = s.mem := rfl
@[simp] theorem State.stopTurn_cfg (s : State) : (s.stopTurn).cfg = s.cfg := rfl
@[simp] theorem State.stopTurn_configured (s : State) : (s.stopTurn).configured = s.configured := rfl
@[simp] theorem State.stopTurn_freeCount (s : State) : (s.stopTurn).freeCount = s.freeCount := rfl
@[simp] theorem State.stopTurn_pending (s : State) : (s.stopTurn).pending = s.pending := rfl

/-! `State.toTraction` -/

@[simp] theorem State.toTraction_exc (s : State) (t : TractionState) : (s.toTraction t).exc = s.exc := rfl
@[simp] theorem State.toTraction_port (s : State) (t : TractionState) : (s.toTraction t).port = s.port := rfl
@[simp] theorem State.toTraction_drq (s : State) (t : TractionState) : (s.toTraction t).drq = s.drq := rfl
@[simp] theorem State.toTraction_bfu (s : State) (t : TractionState) : (s.toTraction t).bfu = s.bfu := rfl
@[simp] theorem State.toTraction_chk (s : State) (t : TractionState) : (s.toTraction t).chk = s.chk := rfl
@[simp] theorem State.toTraction_snd (s : State) (t : TractionState) : (s.toTraction t).snd = s.snd := rfl
@[simp] theorem State.toTraction_smk (s : State) (t : TractionState) : (s.toTraction t).smk = s.smk := rfl
@[simp] theorem State.toTraction_lgt (s : State) (t : TractionState) : (s.toTraction t).lgt = s.lgt := rfl
@[simp] theorem State.toTraction_rrx (s : State) (t : TractionState) : (s.toTraction t).rrx = s.rrx := rfl
@[simp] theorem State.toTraction_sup (s : State) (t : TractionState) : (s.toTraction t).sup = s.sup := rfl
@[simp] theorem State.toTraction_mem (s : State) (t : TractionState) : (s.toTraction t).mem = s.mem := rfl
@[simp] theorem State.toTraction_cfg (s : State) (t : TractionState) : (s.toTraction t).cfg = s.cfg := rfl
@[simp] theorem State.toTraction_configured (s : State) (t : TractionState) : (s.toTraction t).configured = s.configured := rfl
@[simp] theorem State.toTraction_freeCount (s : State) (t : TractionState) : (s.toTraction t).freeCount = s.freeCount := rfl
@[simp] theorem State.toTraction_pending (s : State) (t : TractionState) : (s.toTraction t).pending = s.pending := rfl
@[simp] theorem State.toTraction_traction (s : State) (t : TractionState) : (s.toTraction t).srg.traction = t := rfl

/-! `State.flipBridge` -/

@[simp] theorem State.flipBridge_exc (s : State) : (s.flipBridge).exc = s.exc := rfl
@[simp] theorem State.flipBridge_port (s : State) : (s.flipBridge).port = s.port := rfl
@[simp] theorem State.flipBridge_drq (s : State) : (s.flipBridge).drq = s.drq := rfl
@[simp] theorem State.flipBridge_bfu (s : State) : (s.flipBridge).bfu = s.bfu := rfl
@[simp] theorem State.flipBridge_chk (s : State) : (s.flipBridge).chk = s.chk := rfl
@[simp] theorem State.flipBridge_snd (s : State) : (s.flipBridge).snd = s.snd := rfl
@[simp] theorem State.flipBridge_smk (s : State) : (s.flipBridge).smk = s.smk := rfl
@[simp] theorem State.flipBridge_lgt (s : State) : (s.flipBridge).lgt = s.lgt := rfl
@[simp] theorem State.flipBridge_rrx (s : State) : (s.flipBridge).rrx = s.rrx := rfl
@[simp] theorem State.flipBridge_sup (s : State) : (s.flipBridge).sup = s.sup := rfl
@[simp] theorem State.flipBridge_mem (s : State) : (s.flipBridge).mem = s.mem := rfl
@[simp] theorem State.flipBridge_cfg (s : State) : (s.flipBridge).cfg = s.cfg := rfl
@[simp] theorem State.flipBridge_configured (s : State) : (s.flipBridge).configured = s.configured := rfl
@[simp] theorem State.flipBridge_freeCount (s : State) : (s.flipBridge).freeCount = s.freeCount := rfl
@[simp] theorem State.flipBridge_pending (s : State) : (s.flipBridge).pending = s.pending := rfl

/-! `State.zeroDuty` -/

@[simp] theorem State.zeroDuty_exc (s : State) : (s.zeroDuty).exc = s.exc := rfl
@[simp] theorem State.zeroDuty_port (s : State) : (s.zeroDuty).port = s.port := rfl
@[simp] theorem State.zeroDuty_drq (s : State) : (s.zeroDuty).drq = s.drq := rfl
@[simp] theorem State.zeroDuty_chk (s : State) : (s.zeroDuty).chk = s.chk := rfl
@[simp] theorem State.zeroDuty_snd (s : State) : (s.zeroDuty).snd = s.snd := rfl
@[simp] theorem State.zeroDuty_smk (s : State) : (s.zeroDuty).smk = s.smk := rfl
@[simp] theorem State.zeroDuty_lgt (s : State) : (s.zeroDuty).lgt = s.lgt := rfl
@[simp] theorem State.zeroDuty_rrx (s : State) : (s.zeroDuty).rrx = s.rrx := rfl
@[simp] theorem State.zeroDuty_sup (s : State) : (s.zeroDuty).sup = s.sup := rfl
@[simp] theorem State.zeroDuty_mem (s : State) : (s.zeroDuty).mem = s.mem := rfl
@[simp] theorem State.zeroDuty_cfg (s : State) : (s.zeroDuty).cfg = s.cfg := rfl
@[simp] theorem State.zeroDuty_configured (s : State) : (s.zeroDuty).configured = s.configured := rfl
@[simp] theorem State.zeroDuty_freeCount (s : State) : (s.zeroDuty).freeCount = s.freeCount := rfl
@[simp] theorem State.zeroDuty_pending (s : State) : (s.zeroDuty).pending = s.pending := rfl

/-! `State.setDuty` -/

@[simp] theorem State.setDuty_exc (s : State) (m : Motor) (d : Nat) : (s.setDuty m d).exc = s.exc := rfl
@[simp] theorem State.setDuty_port (s : State) (m : Motor) (d : Nat) : (s.setDuty m d).port = s.port := rfl
@[simp] theorem State.setDuty_drq (s : State) (m : Motor) (d : Nat) : (s.setDuty m d).drq = s.drq := rfl
@[simp] theorem State.setDuty_chk (s : State) (m : Motor) (d : Nat) : (s.setDuty m d).chk = s.chk := rfl
@[simp] theorem State.setDuty_snd (s : State) (m : Motor) (d : Nat) : (s.setDuty m d).snd = s.snd := rfl
@[simp] theorem State.setDuty_smk (s : State) (m : Motor) (d : Nat) : (s.setDuty m d).smk = s.smk := rfl
@[simp] theorem State.setDuty_lgt (s : State) (m : Motor) (d : Nat) : (s.setDuty m d).lgt = s.lgt := rfl
@[simp] theorem State.setDuty_rrx (s : State) (m : Motor) (d : Nat) : (s.setDuty m d).rrx = s.rrx := rfl
@[simp] theorem State.setDuty_sup (s : State) (m : Motor) (d : Nat) : (s.setDuty m d).sup = s.sup := rfl
@[simp] theorem State.setDuty_mem (s : State) (m : Motor) (d : Nat) : (s.setDuty m d).mem = s.mem := rfl
@[simp] theorem State.setDuty_cfg (s : State) (m : Motor) (d : Nat) : (s.setDuty m d).cfg = s.cfg := rfl
@[simp] theorem State.setDuty_configured (s : State) (m : Motor) (d : Nat) : (s.setDuty m d).configured = s.configured := rfl
@[simp] theorem State.setDuty_freeCount (s : State) (m : Motor) (d : Nat) : (s.setDuty m d).freeCount = s.freeCount := rfl
@[simp] theorem State.setDuty_pending (s : State) (m : Motor) (d : Nat) : (s.setDuty m d).pending = s.pending := rfl

/-! `State.limitDuty` -/

@[simp] theorem State.limitDuty_exc (s : State) : (s.limitDuty).exc = s.exc := rfl
@[simp] theorem State.limitDuty_port (s : State) : (s.limitDuty).port = s.port := rfl
@[simp] theorem State.limitDuty_drq (s : State) : (s.limitDuty).drq = s.drq := rfl
@[simp] theorem State.limitDuty_chk (s : State) : (s.limitDuty).chk = s.chk := rfl
@[simp] theorem State.limitDuty_snd (s : State) : (s.limitDuty).snd = s.snd := rfl
@[simp] theorem State.limitDuty_smk (s : State) : (s.limitDuty).smk = s.smk := rfl
@[simp] theorem State.limitDuty_lgt (s : State) : (s.limitDuty).lgt = s.lgt := rfl
@[simp] theorem State.limitDuty_rrx (s : State) : (s.limitDuty).rrx = s.rrx := rfl
@[simp] theorem State.limitDuty_sup (s : State) : (s.limitDuty).sup = s.sup := rfl
@[simp] theorem State.limitDuty_mem (s : State) : (s.limitDuty).mem = s.mem := rfl
@[simp] theorem State.limitDuty_cfg (s : State) : (s.limitDuty).cfg = s.cfg := rfl
@[simp] theorem State.limitDuty_configured (s : State) : (s.limitDuty).configured = s.configured := rfl
@[simp] theorem State.limitDuty_freeCount (s : State) : (s.limitDuty).freeCount = s.freeCount := rfl
@[simp] theorem State.limitDuty_pending (s : State) : (s.limitDuty).pending = s.pending := rfl

/-! `State.stopSlip` -/

@[simp] theorem State.stopSlip_exc (s : State) : (s.stopSlip).exc = s.exc := by
  unfold State.stopSlip; split <;> rfl
@[simp] theorem State.stopSlip_port (s : State) : (s.stopSlip).port = s.port := by
  unfold State.stopSlip; split <;> rfl
@[simp] theorem State.stopSlip_drq (s : State) : (s.stopSlip).drq = s.drq := by
  unfold State.stopSlip; split <;> rfl
@[simp] theorem State.stopSlip_chk (s : State) : (s.stopSlip).chk = s.chk := by
  unfold State.stopSlip; split <;> rfl
@[simp] theorem State.stopSlip_snd (s : State) : (s.stopSlip).snd = s.snd := by
  unfold State.stopSlip; split <;> rfl
@[simp] theorem State.stopSlip_smk (s : State) : (s.stopSlip).smk = s.smk := by
  unfold State.stopSlip; split <;> rfl
@[simp] theorem State.stopSlip_lgt (s : State) : (s.stopSlip).lgt = s.lgt := by
  unfold State.stopSlip; split <;> rfl
@[simp] theorem State.stopSlip_rrx (s : State) : (s.stopSlip).rrx = s.rrx := by
  unfold State.stopSlip; split <;> rfl
@[simp] theorem State.stopSlip_sup (s : State) : (s.stopSlip).sup = s.sup := by
  unfold State.stopSlip; split <;> rfl
@[simp] theorem State.stopSlip_mem (s : State) : (s.stopSlip).mem = s.mem := by
  unfold State.stopSlip; split <;> rfl
@[simp] theorem State.stopSlip_cfg (s : State) : (s.stopSlip).cfg = s.cfg := by
  unfold State.stopSlip; split <;> rfl
@[simp] theorem State.stopSlip_configured (s : State) : (s.stopSlip).configured = s.configured := by
  unfold State.stopSlip; split <;> rfl
@[simp] theorem State.stopSlip_freeCount (s : State) : (s.stopSlip).freeCount = s.freeCount := by
  unfold State.stopSlip; split <;> rfl
@[simp] theorem State.stopSlip_pending (s : State) : (s.stopSlip).pending = s.pending := by
  unfold State.stopSlip; split <;> rfl

/-! `State.tractionTripped` -/

@[simp] theorem State.tractionTripped_exc (s : State) : (s.tractionTripped).exc = s.exc := rfl
@[simp] theorem State.tractionTripped_port (s : State) : (s.tractionTripped).port = s.port := rfl
@[simp] theorem State.tractionTripped_drq (s : State) : (s.tractionTripped).drq = s.drq := rfl
@[simp] theorem State.tractionTripped_chk (s : State) : (s.tractionTripped).chk = s.chk := rfl
@[simp] theorem State.tractionTripped_snd (s : State) : (s.tractionTripped).snd = s.snd := rfl
@[simp] theorem State.tractionTripped_smk (s : State) : (s.tractionTripped).smk = s.smk := rfl
@[simp] theorem State.tractionTripped_lgt (s : State) : (s.tractionTripped).lgt = s.lgt := rfl
@[simp] theorem State.tractionTripped_rrx (s : State) : (s.tractionTripped).rrx = s.rrx := rfl
@[simp] theorem State.tractionTripped_sup (s : State) : (s.tractionTripped).sup = s.sup := rfl
@[simp] theorem State.tractionTripped_mem (s : State) : (s.tractionTripped).mem = s.mem := rfl
@[simp] theorem State.tractionTripped_cfg (s : State) : (s.tractionTripped).cfg = s.cfg := rfl
@[simp] theorem State.tractionTripped_configured (s : State) : (s.tractionTripped).configured = s.configured := rfl
@[simp] theorem State.tractionTripped_freeCount (s : State) : (s.tractionTripped).freeCount = s.freeCount := rfl
@[simp] theorem State.tractionTripped_pending (s : State) : (s.tractionTripped).pending = s.pending := rfl

/-! `State.estimate` -/

@[simp] theorem State.estimate_exc (s : State) (t : Tick) (a b : EmfSet) : (s.estimate t a b).exc = s.exc := rfl
@[simp] theorem State.estimate_port (s : State) (t : Tick) (a b : EmfSet) : (s.estimate t a b).port = s.port := rfl
@[simp] theorem State.estimate_drq (s : State) (t : Tick) (a b : EmfSet) : (s.estimate t a b).drq = s.drq := rfl
@[simp] theorem State.estimate_bfu (s : State) (t : Tick) (a b : EmfSet) : (s.estimate t a b).bfu = s.bfu := rfl
@[simp] theorem State.estimate_chk (s : State) (t : Tick) (a b : EmfSet) : (s.estimate t a b).chk = s.chk := rfl
@[simp] theorem State.estimate_snd (s : State) (t : Tick) (a b : EmfSet) : (s.estimate t a b).snd = s.snd := rfl
@[simp] theorem State.estimate_smk (s : State) (t : Tick) (a b : EmfSet) : (s.estimate t a b).smk = s.smk := rfl
@[simp] theorem State.estimate_lgt (s : State) (t : Tick) (a b : EmfSet) : (s.estimate t a b).lgt = s.lgt := rfl
@[simp] theorem State.estimate_rrx (s : State) (t : Tick) (a b : EmfSet) : (s.estimate t a b).rrx = s.rrx := rfl
@[simp] theorem State.estimate_sup (s : State) (t : Tick) (a b : EmfSet) : (s.estimate t a b).sup = s.sup := rfl
@[simp] theorem State.estimate_mem (s : State) (t : Tick) (a b : EmfSet) : (s.estimate t a b).mem = s.mem := rfl
@[simp] theorem State.estimate_cfg (s : State) (t : Tick) (a b : EmfSet) : (s.estimate t a b).cfg = s.cfg := rfl
@[simp] theorem State.estimate_configured (s : State) (t : Tick) (a b : EmfSet) : (s.estimate t a b).configured = s.configured := rfl
@[simp] theorem State.estimate_freeCount (s : State) (t : Tick) (a b : EmfSet) : (s.estimate t a b).freeCount = s.freeCount := rfl
@[simp] theorem State.estimate_pending (s : State) (t : Tick) (a b : EmfSet) : (s.estimate t a b).pending = s.pending := rfl

/-! `State.judgeLabour` -/

@[simp] theorem State.judgeLabour_exc (s : State) (c : Traction) : (s.judgeLabour c).exc = s.exc := rfl
@[simp] theorem State.judgeLabour_port (s : State) (c : Traction) : (s.judgeLabour c).port = s.port := rfl
@[simp] theorem State.judgeLabour_drq (s : State) (c : Traction) : (s.judgeLabour c).drq = s.drq := rfl
@[simp] theorem State.judgeLabour_bfu (s : State) (c : Traction) : (s.judgeLabour c).bfu = s.bfu := rfl
@[simp] theorem State.judgeLabour_chk (s : State) (c : Traction) : (s.judgeLabour c).chk = s.chk := rfl
@[simp] theorem State.judgeLabour_snd (s : State) (c : Traction) : (s.judgeLabour c).snd = s.snd := rfl
@[simp] theorem State.judgeLabour_smk (s : State) (c : Traction) : (s.judgeLabour c).smk = s.smk := rfl
@[simp] theorem State.judgeLabour_lgt (s : State) (c : Traction) : (s.judgeLabour c).lgt = s.lgt := rfl
@[simp] theorem State.judgeLabour_rrx (s : State) (c : Traction) : (s.judgeLabour c).rrx = s.rrx := rfl
@[simp] theorem State.judgeLabour_sup (s : State) (c : Traction) : (s.judgeLabour c).sup = s.sup := rfl
@[simp] theorem State.judgeLabour_mem (s : State) (c : Traction) : (s.judgeLabour c).mem = s.mem := rfl
@[simp] theorem State.judgeLabour_cfg (s : State) (c : Traction) : (s.judgeLabour c).cfg = s.cfg := rfl
@[simp] theorem State.judgeLabour_configured (s : State) (c : Traction) : (s.judgeLabour c).configured = s.configured := rfl
@[simp] theorem State.judgeLabour_freeCount (s : State) (c : Traction) : (s.judgeLabour c).freeCount = s.freeCount := rfl
@[simp] theorem State.judgeLabour_pending (s : State) (c : Traction) : (s.judgeLabour c).pending = s.pending := rfl

/-! `State.setVoice` -/

@[simp] theorem State.setVoice_exc (s : State) (v : Fin 8) (x : Voice) : (s.setVoice v x).exc = s.exc := rfl
@[simp] theorem State.setVoice_port (s : State) (v : Fin 8) (x : Voice) : (s.setVoice v x).port = s.port := rfl
@[simp] theorem State.setVoice_drq (s : State) (v : Fin 8) (x : Voice) : (s.setVoice v x).drq = s.drq := rfl
@[simp] theorem State.setVoice_srg (s : State) (v : Fin 8) (x : Voice) : (s.setVoice v x).srg = s.srg := rfl
@[simp] theorem State.setVoice_bfu (s : State) (v : Fin 8) (x : Voice) : (s.setVoice v x).bfu = s.bfu := rfl
@[simp] theorem State.setVoice_chk (s : State) (v : Fin 8) (x : Voice) : (s.setVoice v x).chk = s.chk := rfl
@[simp] theorem State.setVoice_smk (s : State) (v : Fin 8) (x : Voice) : (s.setVoice v x).smk = s.smk := rfl
@[simp] theorem State.setVoice_lgt (s : State) (v : Fin 8) (x : Voice) : (s.setVoice v x).lgt = s.lgt := rfl
@[simp] theorem State.setVoice_rrx (s : State) (v : Fin 8) (x : Voice) : (s.setVoice v x).rrx = s.rrx := rfl
@[simp] theorem State.setVoice_sup (s : State) (v : Fin 8) (x : Voice) : (s.setVoice v x).sup = s.sup := rfl
@[simp] theorem State.setVoice_mem (s : State) (v : Fin 8) (x : Voice) : (s.setVoice v x).mem = s.mem := rfl
@[simp] theorem State.setVoice_cfg (s : State) (v : Fin 8) (x : Voice) : (s.setVoice v x).cfg = s.cfg := rfl
@[simp] theorem State.setVoice_configured (s : State) (v : Fin 8) (x : Voice) : (s.setVoice v x).configured = s.configured := rfl
@[simp] theorem State.setVoice_freeCount (s : State) (v : Fin 8) (x : Voice) : (s.setVoice v x).freeCount = s.freeCount := rfl
@[simp] theorem State.setVoice_pending (s : State) (v : Fin 8) (x : Voice) : (s.setVoice v x).pending = s.pending := rfl

/-! `State.endRecord` -/

@[simp] theorem State.endRecord_port (s : State) (r : EndRecord) : (s.endRecord r).port = s.port := rfl
@[simp] theorem State.endRecord_drq (s : State) (r : EndRecord) : (s.endRecord r).drq = s.drq := rfl
@[simp] theorem State.endRecord_srg (s : State) (r : EndRecord) : (s.endRecord r).srg = s.srg := rfl
@[simp] theorem State.endRecord_bfu (s : State) (r : EndRecord) : (s.endRecord r).bfu = s.bfu := rfl
@[simp] theorem State.endRecord_chk (s : State) (r : EndRecord) : (s.endRecord r).chk = s.chk := rfl
@[simp] theorem State.endRecord_smk (s : State) (r : EndRecord) : (s.endRecord r).smk = s.smk := rfl
@[simp] theorem State.endRecord_lgt (s : State) (r : EndRecord) : (s.endRecord r).lgt = s.lgt := rfl
@[simp] theorem State.endRecord_rrx (s : State) (r : EndRecord) : (s.endRecord r).rrx = s.rrx := rfl
@[simp] theorem State.endRecord_sup (s : State) (r : EndRecord) : (s.endRecord r).sup = s.sup := rfl
@[simp] theorem State.endRecord_mem (s : State) (r : EndRecord) : (s.endRecord r).mem = s.mem := rfl
@[simp] theorem State.endRecord_cfg (s : State) (r : EndRecord) : (s.endRecord r).cfg = s.cfg := rfl
@[simp] theorem State.endRecord_configured (s : State) (r : EndRecord) : (s.endRecord r).configured = s.configured := rfl
@[simp] theorem State.endRecord_freeCount (s : State) (r : EndRecord) : (s.endRecord r).freeCount = s.freeCount := rfl
@[simp] theorem State.endRecord_pending (s : State) (r : EndRecord) : (s.endRecord r).pending = s.pending := rfl

/-! `State.recomputeCap` -/

@[simp] theorem State.recomputeCap_exc (s : State) : (s.recomputeCap).exc = s.exc := rfl
@[simp] theorem State.recomputeCap_port (s : State) : (s.recomputeCap).port = s.port := rfl
@[simp] theorem State.recomputeCap_drq (s : State) : (s.recomputeCap).drq = s.drq := rfl
@[simp] theorem State.recomputeCap_srg (s : State) : (s.recomputeCap).srg = s.srg := rfl
@[simp] theorem State.recomputeCap_bfu (s : State) : (s.recomputeCap).bfu = s.bfu := rfl
@[simp] theorem State.recomputeCap_chk (s : State) : (s.recomputeCap).chk = s.chk := rfl
@[simp] theorem State.recomputeCap_smk (s : State) : (s.recomputeCap).smk = s.smk := rfl
@[simp] theorem State.recomputeCap_lgt (s : State) : (s.recomputeCap).lgt = s.lgt := rfl
@[simp] theorem State.recomputeCap_rrx (s : State) : (s.recomputeCap).rrx = s.rrx := rfl
@[simp] theorem State.recomputeCap_sup (s : State) : (s.recomputeCap).sup = s.sup := rfl
@[simp] theorem State.recomputeCap_mem (s : State) : (s.recomputeCap).mem = s.mem := rfl
@[simp] theorem State.recomputeCap_cfg (s : State) : (s.recomputeCap).cfg = s.cfg := rfl
@[simp] theorem State.recomputeCap_configured (s : State) : (s.recomputeCap).configured = s.configured := rfl
@[simp] theorem State.recomputeCap_freeCount (s : State) : (s.recomputeCap).freeCount = s.freeCount := rfl
@[simp] theorem State.recomputeCap_pending (s : State) : (s.recomputeCap).pending = s.pending := rfl

/-! `State.setMute` -/

@[simp] theorem State.setMute_exc (s : State) (m : Bool) : (s.setMute m).exc = s.exc := rfl
@[simp] theorem State.setMute_port (s : State) (m : Bool) : (s.setMute m).port = s.port := rfl
@[simp] theorem State.setMute_drq (s : State) (m : Bool) : (s.setMute m).drq = s.drq := rfl
@[simp] theorem State.setMute_srg (s : State) (m : Bool) : (s.setMute m).srg = s.srg := rfl
@[simp] theorem State.setMute_bfu (s : State) (m : Bool) : (s.setMute m).bfu = s.bfu := rfl
@[simp] theorem State.setMute_chk (s : State) (m : Bool) : (s.setMute m).chk = s.chk := rfl
@[simp] theorem State.setMute_smk (s : State) (m : Bool) : (s.setMute m).smk = s.smk := rfl
@[simp] theorem State.setMute_lgt (s : State) (m : Bool) : (s.setMute m).lgt = s.lgt := rfl
@[simp] theorem State.setMute_rrx (s : State) (m : Bool) : (s.setMute m).rrx = s.rrx := rfl
@[simp] theorem State.setMute_sup (s : State) (m : Bool) : (s.setMute m).sup = s.sup := rfl
@[simp] theorem State.setMute_mem (s : State) (m : Bool) : (s.setMute m).mem = s.mem := rfl
@[simp] theorem State.setMute_cfg (s : State) (m : Bool) : (s.setMute m).cfg = s.cfg := rfl
@[simp] theorem State.setMute_configured (s : State) (m : Bool) : (s.setMute m).configured = s.configured := rfl
@[simp] theorem State.setMute_freeCount (s : State) (m : Bool) : (s.setMute m).freeCount = s.freeCount := rfl
@[simp] theorem State.setMute_pending (s : State) (m : Bool) : (s.setMute m).pending = s.pending := rfl

/-! `State.setSqueal` -/

@[simp] theorem State.setSqueal_exc (s : State) (q : SquealState) : (s.setSqueal q).exc = s.exc := rfl
@[simp] theorem State.setSqueal_port (s : State) (q : SquealState) : (s.setSqueal q).port = s.port := rfl
@[simp] theorem State.setSqueal_drq (s : State) (q : SquealState) : (s.setSqueal q).drq = s.drq := rfl
@[simp] theorem State.setSqueal_srg (s : State) (q : SquealState) : (s.setSqueal q).srg = s.srg := rfl
@[simp] theorem State.setSqueal_bfu (s : State) (q : SquealState) : (s.setSqueal q).bfu = s.bfu := rfl
@[simp] theorem State.setSqueal_chk (s : State) (q : SquealState) : (s.setSqueal q).chk = s.chk := rfl
@[simp] theorem State.setSqueal_smk (s : State) (q : SquealState) : (s.setSqueal q).smk = s.smk := rfl
@[simp] theorem State.setSqueal_lgt (s : State) (q : SquealState) : (s.setSqueal q).lgt = s.lgt := rfl
@[simp] theorem State.setSqueal_rrx (s : State) (q : SquealState) : (s.setSqueal q).rrx = s.rrx := rfl
@[simp] theorem State.setSqueal_sup (s : State) (q : SquealState) : (s.setSqueal q).sup = s.sup := rfl
@[simp] theorem State.setSqueal_mem (s : State) (q : SquealState) : (s.setSqueal q).mem = s.mem := rfl
@[simp] theorem State.setSqueal_cfg (s : State) (q : SquealState) : (s.setSqueal q).cfg = s.cfg := rfl
@[simp] theorem State.setSqueal_configured (s : State) (q : SquealState) : (s.setSqueal q).configured = s.configured := rfl
@[simp] theorem State.setSqueal_freeCount (s : State) (q : SquealState) : (s.setSqueal q).freeCount = s.freeCount := rfl
@[simp] theorem State.setSqueal_pending (s : State) (q : SquealState) : (s.setSqueal q).pending = s.pending := rfl

/-! `State.handOutput` -/

@[simp] theorem State.handOutput_exc (s : State) : (s.handOutput).exc = s.exc := rfl
@[simp] theorem State.handOutput_port (s : State) : (s.handOutput).port = s.port := rfl
@[simp] theorem State.handOutput_drq (s : State) : (s.handOutput).drq = s.drq := rfl
@[simp] theorem State.handOutput_srg (s : State) : (s.handOutput).srg = s.srg := rfl
@[simp] theorem State.handOutput_bfu (s : State) : (s.handOutput).bfu = s.bfu := rfl
@[simp] theorem State.handOutput_chk (s : State) : (s.handOutput).chk = s.chk := rfl
@[simp] theorem State.handOutput_smk (s : State) : (s.handOutput).smk = s.smk := rfl
@[simp] theorem State.handOutput_lgt (s : State) : (s.handOutput).lgt = s.lgt := rfl
@[simp] theorem State.handOutput_rrx (s : State) : (s.handOutput).rrx = s.rrx := rfl
@[simp] theorem State.handOutput_sup (s : State) : (s.handOutput).sup = s.sup := rfl
@[simp] theorem State.handOutput_mem (s : State) : (s.handOutput).mem = s.mem := rfl
@[simp] theorem State.handOutput_cfg (s : State) : (s.handOutput).cfg = s.cfg := rfl
@[simp] theorem State.handOutput_configured (s : State) : (s.handOutput).configured = s.configured := rfl
@[simp] theorem State.handOutput_freeCount (s : State) : (s.handOutput).freeCount = s.freeCount := rfl
@[simp] theorem State.handOutput_pending (s : State) : (s.handOutput).pending = s.pending := rfl

/-! `State.evalSmoke` -/

@[simp] theorem State.evalSmoke_exc (s : State) : (s.evalSmoke).exc = s.exc := rfl
@[simp] theorem State.evalSmoke_port (s : State) : (s.evalSmoke).port = s.port := rfl
@[simp] theorem State.evalSmoke_drq (s : State) : (s.evalSmoke).drq = s.drq := rfl
@[simp] theorem State.evalSmoke_srg (s : State) : (s.evalSmoke).srg = s.srg := rfl
@[simp] theorem State.evalSmoke_bfu (s : State) : (s.evalSmoke).bfu = s.bfu := rfl
@[simp] theorem State.evalSmoke_chk (s : State) : (s.evalSmoke).chk = s.chk := rfl
@[simp] theorem State.evalSmoke_snd (s : State) : (s.evalSmoke).snd = s.snd := rfl
@[simp] theorem State.evalSmoke_lgt (s : State) : (s.evalSmoke).lgt = s.lgt := rfl
@[simp] theorem State.evalSmoke_rrx (s : State) : (s.evalSmoke).rrx = s.rrx := rfl
@[simp] theorem State.evalSmoke_sup (s : State) : (s.evalSmoke).sup = s.sup := rfl
@[simp] theorem State.evalSmoke_mem (s : State) : (s.evalSmoke).mem = s.mem := rfl
@[simp] theorem State.evalSmoke_cfg (s : State) : (s.evalSmoke).cfg = s.cfg := rfl
@[simp] theorem State.evalSmoke_configured (s : State) : (s.evalSmoke).configured = s.configured := rfl
@[simp] theorem State.evalSmoke_freeCount (s : State) : (s.evalSmoke).freeCount = s.freeCount := rfl
@[simp] theorem State.evalSmoke_pending (s : State) : (s.evalSmoke).pending = s.pending := rfl

/-! `State.setSmokeEnable` -/

@[simp] theorem State.setSmokeEnable_exc (s : State) (b : Bool) : (s.setSmokeEnable b).exc = s.exc := rfl
@[simp] theorem State.setSmokeEnable_port (s : State) (b : Bool) : (s.setSmokeEnable b).port = s.port := rfl
@[simp] theorem State.setSmokeEnable_drq (s : State) (b : Bool) : (s.setSmokeEnable b).drq = s.drq := rfl
@[simp] theorem State.setSmokeEnable_srg (s : State) (b : Bool) : (s.setSmokeEnable b).srg = s.srg := rfl
@[simp] theorem State.setSmokeEnable_bfu (s : State) (b : Bool) : (s.setSmokeEnable b).bfu = s.bfu := rfl
@[simp] theorem State.setSmokeEnable_chk (s : State) (b : Bool) : (s.setSmokeEnable b).chk = s.chk := rfl
@[simp] theorem State.setSmokeEnable_snd (s : State) (b : Bool) : (s.setSmokeEnable b).snd = s.snd := rfl
@[simp] theorem State.setSmokeEnable_lgt (s : State) (b : Bool) : (s.setSmokeEnable b).lgt = s.lgt := rfl
@[simp] theorem State.setSmokeEnable_rrx (s : State) (b : Bool) : (s.setSmokeEnable b).rrx = s.rrx := rfl
@[simp] theorem State.setSmokeEnable_sup (s : State) (b : Bool) : (s.setSmokeEnable b).sup = s.sup := rfl
@[simp] theorem State.setSmokeEnable_mem (s : State) (b : Bool) : (s.setSmokeEnable b).mem = s.mem := rfl
@[simp] theorem State.setSmokeEnable_cfg (s : State) (b : Bool) : (s.setSmokeEnable b).cfg = s.cfg := rfl
@[simp] theorem State.setSmokeEnable_configured (s : State) (b : Bool) : (s.setSmokeEnable b).configured = s.configured := rfl
@[simp] theorem State.setSmokeEnable_freeCount (s : State) (b : Bool) : (s.setSmokeEnable b).freeCount = s.freeCount := rfl
@[simp] theorem State.setSmokeEnable_pending (s : State) (b : Bool) : (s.setSmokeEnable b).pending = s.pending := rfl

/-! `State.setHlim` -/

@[simp] theorem State.setHlim_exc (s : State) (h : Nat) : (s.setHlim h).exc = s.exc := rfl
@[simp] theorem State.setHlim_port (s : State) (h : Nat) : (s.setHlim h).port = s.port := rfl
@[simp] theorem State.setHlim_drq (s : State) (h : Nat) : (s.setHlim h).drq = s.drq := rfl
@[simp] theorem State.setHlim_srg (s : State) (h : Nat) : (s.setHlim h).srg = s.srg := rfl
@[simp] theorem State.setHlim_bfu (s : State) (h : Nat) : (s.setHlim h).bfu = s.bfu := rfl
@[simp] theorem State.setHlim_chk (s : State) (h : Nat) : (s.setHlim h).chk = s.chk := rfl
@[simp] theorem State.setHlim_snd (s : State) (h : Nat) : (s.setHlim h).snd = s.snd := rfl
@[simp] theorem State.setHlim_lgt (s : State) (h : Nat) : (s.setHlim h).lgt = s.lgt := rfl
@[simp] theorem State.setHlim_rrx (s : State) (h : Nat) : (s.setHlim h).rrx = s.rrx := rfl
@[simp] theorem State.setHlim_sup (s : State) (h : Nat) : (s.setHlim h).sup = s.sup := rfl
@[simp] theorem State.setHlim_mem (s : State) (h : Nat) : (s.setHlim h).mem = s.mem := rfl
@[simp] theorem State.setHlim_cfg (s : State) (h : Nat) : (s.setHlim h).cfg = s.cfg := rfl
@[simp] theorem State.setHlim_configured (s : State) (h : Nat) : (s.setHlim h).configured = s.configured := rfl
@[simp] theorem State.setHlim_freeCount (s : State) (h : Nat) : (s.setHlim h).freeCount = s.freeCount := rfl
@[simp] theorem State.setHlim_pending (s : State) (h : Nat) : (s.setHlim h).pending = s.pending := rfl

/-! `State.haltSmoke` -/

@[simp] theorem State.haltSmoke_exc (s : State) : (s.haltSmoke).exc = s.exc := rfl
@[simp] theorem State.haltSmoke_port (s : State) : (s.haltSmoke).port = s.port := rfl
@[simp] theorem State.haltSmoke_drq (s : State) : (s.haltSmoke).drq = s.drq := rfl
@[simp] theorem State.haltSmoke_srg (s : State) : (s.haltSmoke).srg = s.srg := rfl
@[simp] theorem State.haltSmoke_bfu (s : State) : (s.haltSmoke).bfu = s.bfu := rfl
@[simp] theorem State.haltSmoke_chk (s : State) : (s.haltSmoke).chk = s.chk := rfl
@[simp] theorem State.haltSmoke_snd (s : State) : (s.haltSmoke).snd = s.snd := rfl
@[simp] theorem State.haltSmoke_lgt (s : State) : (s.haltSmoke).lgt = s.lgt := rfl
@[simp] theorem State.haltSmoke_rrx (s : State) : (s.haltSmoke).rrx = s.rrx := rfl
@[simp] theorem State.haltSmoke_sup (s : State) : (s.haltSmoke).sup = s.sup := rfl
@[simp] theorem State.haltSmoke_mem (s : State) : (s.haltSmoke).mem = s.mem := rfl
@[simp] theorem State.haltSmoke_cfg (s : State) : (s.haltSmoke).cfg = s.cfg := rfl
@[simp] theorem State.haltSmoke_configured (s : State) : (s.haltSmoke).configured = s.configured := rfl
@[simp] theorem State.haltSmoke_freeCount (s : State) : (s.haltSmoke).freeCount = s.freeCount := rfl
@[simp] theorem State.haltSmoke_pending (s : State) : (s.haltSmoke).pending = s.pending := rfl

/-! `State.formHeater` -/

@[simp] theorem State.formHeater_exc (s : State) : (s.formHeater).exc = s.exc := rfl
@[simp] theorem State.formHeater_port (s : State) : (s.formHeater).port = s.port := rfl
@[simp] theorem State.formHeater_drq (s : State) : (s.formHeater).drq = s.drq := rfl
@[simp] theorem State.formHeater_srg (s : State) : (s.formHeater).srg = s.srg := rfl
@[simp] theorem State.formHeater_bfu (s : State) : (s.formHeater).bfu = s.bfu := rfl
@[simp] theorem State.formHeater_chk (s : State) : (s.formHeater).chk = s.chk := rfl
@[simp] theorem State.formHeater_snd (s : State) : (s.formHeater).snd = s.snd := rfl
@[simp] theorem State.formHeater_lgt (s : State) : (s.formHeater).lgt = s.lgt := rfl
@[simp] theorem State.formHeater_rrx (s : State) : (s.formHeater).rrx = s.rrx := rfl
@[simp] theorem State.formHeater_sup (s : State) : (s.formHeater).sup = s.sup := rfl
@[simp] theorem State.formHeater_mem (s : State) : (s.formHeater).mem = s.mem := rfl
@[simp] theorem State.formHeater_cfg (s : State) : (s.formHeater).cfg = s.cfg := rfl
@[simp] theorem State.formHeater_configured (s : State) : (s.formHeater).configured = s.configured := rfl
@[simp] theorem State.formHeater_freeCount (s : State) : (s.formHeater).freeCount = s.freeCount := rfl
@[simp] theorem State.formHeater_pending (s : State) : (s.formHeater).pending = s.pending := rfl

/-! `State.recomputeLampCap` -/

@[simp] theorem State.recomputeLampCap_exc (s : State) : (s.recomputeLampCap).exc = s.exc := rfl
@[simp] theorem State.recomputeLampCap_port (s : State) : (s.recomputeLampCap).port = s.port := rfl
@[simp] theorem State.recomputeLampCap_drq (s : State) : (s.recomputeLampCap).drq = s.drq := rfl
@[simp] theorem State.recomputeLampCap_srg (s : State) : (s.recomputeLampCap).srg = s.srg := rfl
@[simp] theorem State.recomputeLampCap_bfu (s : State) : (s.recomputeLampCap).bfu = s.bfu := rfl
@[simp] theorem State.recomputeLampCap_chk (s : State) : (s.recomputeLampCap).chk = s.chk := rfl
@[simp] theorem State.recomputeLampCap_snd (s : State) : (s.recomputeLampCap).snd = s.snd := rfl
@[simp] theorem State.recomputeLampCap_smk (s : State) : (s.recomputeLampCap).smk = s.smk := rfl
@[simp] theorem State.recomputeLampCap_rrx (s : State) : (s.recomputeLampCap).rrx = s.rrx := rfl
@[simp] theorem State.recomputeLampCap_sup (s : State) : (s.recomputeLampCap).sup = s.sup := rfl
@[simp] theorem State.recomputeLampCap_mem (s : State) : (s.recomputeLampCap).mem = s.mem := rfl
@[simp] theorem State.recomputeLampCap_cfg (s : State) : (s.recomputeLampCap).cfg = s.cfg := rfl
@[simp] theorem State.recomputeLampCap_configured (s : State) : (s.recomputeLampCap).configured = s.configured := rfl
@[simp] theorem State.recomputeLampCap_freeCount (s : State) : (s.recomputeLampCap).freeCount = s.freeCount := rfl
@[simp] theorem State.recomputeLampCap_pending (s : State) : (s.recomputeLampCap).pending = s.pending := rfl

/-! `State.flashChuff` -/

@[simp] theorem State.flashChuff_exc (s : State) : (s.flashChuff).exc = s.exc := rfl
@[simp] theorem State.flashChuff_port (s : State) : (s.flashChuff).port = s.port := rfl
@[simp] theorem State.flashChuff_drq (s : State) : (s.flashChuff).drq = s.drq := rfl
@[simp] theorem State.flashChuff_srg (s : State) : (s.flashChuff).srg = s.srg := rfl
@[simp] theorem State.flashChuff_bfu (s : State) : (s.flashChuff).bfu = s.bfu := rfl
@[simp] theorem State.flashChuff_chk (s : State) : (s.flashChuff).chk = s.chk := rfl
@[simp] theorem State.flashChuff_snd (s : State) : (s.flashChuff).snd = s.snd := rfl
@[simp] theorem State.flashChuff_smk (s : State) : (s.flashChuff).smk = s.smk := rfl
@[simp] theorem State.flashChuff_rrx (s : State) : (s.flashChuff).rrx = s.rrx := rfl
@[simp] theorem State.flashChuff_sup (s : State) : (s.flashChuff).sup = s.sup := rfl
@[simp] theorem State.flashChuff_mem (s : State) : (s.flashChuff).mem = s.mem := rfl
@[simp] theorem State.flashChuff_cfg (s : State) : (s.flashChuff).cfg = s.cfg := rfl
@[simp] theorem State.flashChuff_configured (s : State) : (s.flashChuff).configured = s.configured := rfl
@[simp] theorem State.flashChuff_freeCount (s : State) : (s.flashChuff).freeCount = s.freeCount := rfl
@[simp] theorem State.flashChuff_pending (s : State) : (s.flashChuff).pending = s.pending := rfl

/-! `State.haltLights` -/

@[simp] theorem State.haltLights_exc (s : State) : (s.haltLights).exc = s.exc := rfl
@[simp] theorem State.haltLights_port (s : State) : (s.haltLights).port = s.port := rfl
@[simp] theorem State.haltLights_drq (s : State) : (s.haltLights).drq = s.drq := rfl
@[simp] theorem State.haltLights_srg (s : State) : (s.haltLights).srg = s.srg := rfl
@[simp] theorem State.haltLights_bfu (s : State) : (s.haltLights).bfu = s.bfu := rfl
@[simp] theorem State.haltLights_chk (s : State) : (s.haltLights).chk = s.chk := rfl
@[simp] theorem State.haltLights_snd (s : State) : (s.haltLights).snd = s.snd := rfl
@[simp] theorem State.haltLights_smk (s : State) : (s.haltLights).smk = s.smk := rfl
@[simp] theorem State.haltLights_rrx (s : State) : (s.haltLights).rrx = s.rrx := rfl
@[simp] theorem State.haltLights_sup (s : State) : (s.haltLights).sup = s.sup := rfl
@[simp] theorem State.haltLights_mem (s : State) : (s.haltLights).mem = s.mem := rfl
@[simp] theorem State.haltLights_cfg (s : State) : (s.haltLights).cfg = s.cfg := rfl
@[simp] theorem State.haltLights_configured (s : State) : (s.haltLights).configured = s.configured := rfl
@[simp] theorem State.haltLights_freeCount (s : State) : (s.haltLights).freeCount = s.freeCount := rfl
@[simp] theorem State.haltLights_pending (s : State) : (s.haltLights).pending = s.pending := rfl

/-! `State.effectExpiry` -/

@[simp] theorem State.effectExpiry_exc (s : State) : (s.effectExpiry).exc = s.exc := rfl
@[simp] theorem State.effectExpiry_port (s : State) : (s.effectExpiry).port = s.port := rfl
@[simp] theorem State.effectExpiry_drq (s : State) : (s.effectExpiry).drq = s.drq := rfl
@[simp] theorem State.effectExpiry_srg (s : State) : (s.effectExpiry).srg = s.srg := rfl
@[simp] theorem State.effectExpiry_bfu (s : State) : (s.effectExpiry).bfu = s.bfu := rfl
@[simp] theorem State.effectExpiry_chk (s : State) : (s.effectExpiry).chk = s.chk := rfl
@[simp] theorem State.effectExpiry_snd (s : State) : (s.effectExpiry).snd = s.snd := rfl
@[simp] theorem State.effectExpiry_smk (s : State) : (s.effectExpiry).smk = s.smk := rfl
@[simp] theorem State.effectExpiry_rrx (s : State) : (s.effectExpiry).rrx = s.rrx := rfl
@[simp] theorem State.effectExpiry_sup (s : State) : (s.effectExpiry).sup = s.sup := rfl
@[simp] theorem State.effectExpiry_mem (s : State) : (s.effectExpiry).mem = s.mem := rfl
@[simp] theorem State.effectExpiry_cfg (s : State) : (s.effectExpiry).cfg = s.cfg := rfl
@[simp] theorem State.effectExpiry_configured (s : State) : (s.effectExpiry).configured = s.configured := rfl
@[simp] theorem State.effectExpiry_freeCount (s : State) : (s.effectExpiry).freeCount = s.freeCount := rfl
@[simp] theorem State.effectExpiry_pending (s : State) : (s.effectExpiry).pending = s.pending := rfl

/-! `State.derive` -/

@[simp] theorem State.derive_exc (s : State) : (s.derive).exc = s.exc := rfl
@[simp] theorem State.derive_port (s : State) : (s.derive).port = s.port := rfl
@[simp] theorem State.derive_srg (s : State) : (s.derive).srg = s.srg := rfl
@[simp] theorem State.derive_bfu (s : State) : (s.derive).bfu = s.bfu := rfl
@[simp] theorem State.derive_chk (s : State) : (s.derive).chk = s.chk := rfl
@[simp] theorem State.derive_snd (s : State) : (s.derive).snd = s.snd := rfl
@[simp] theorem State.derive_smk (s : State) : (s.derive).smk = s.smk := rfl
@[simp] theorem State.derive_lgt (s : State) : (s.derive).lgt = s.lgt := rfl
@[simp] theorem State.derive_rrx (s : State) : (s.derive).rrx = s.rrx := rfl
@[simp] theorem State.derive_sup (s : State) : (s.derive).sup = s.sup := rfl
@[simp] theorem State.derive_mem (s : State) : (s.derive).mem = s.mem := rfl
@[simp] theorem State.derive_cfg (s : State) : (s.derive).cfg = s.cfg := rfl
@[simp] theorem State.derive_configured (s : State) : (s.derive).configured = s.configured := rfl
@[simp] theorem State.derive_freeCount (s : State) : (s.derive).freeCount = s.freeCount := rfl
@[simp] theorem State.derive_pending (s : State) : (s.derive).pending = s.pending := rfl

/-! `State.stopOrder` -/

@[simp] theorem State.stopOrder_exc (s : State) : (s.stopOrder).exc = s.exc := rfl
@[simp] theorem State.stopOrder_port (s : State) : (s.stopOrder).port = s.port := rfl
@[simp] theorem State.stopOrder_srg (s : State) : (s.stopOrder).srg = s.srg := rfl
@[simp] theorem State.stopOrder_bfu (s : State) : (s.stopOrder).bfu = s.bfu := rfl
@[simp] theorem State.stopOrder_chk (s : State) : (s.stopOrder).chk = s.chk := rfl
@[simp] theorem State.stopOrder_snd (s : State) : (s.stopOrder).snd = s.snd := rfl
@[simp] theorem State.stopOrder_smk (s : State) : (s.stopOrder).smk = s.smk := rfl
@[simp] theorem State.stopOrder_lgt (s : State) : (s.stopOrder).lgt = s.lgt := rfl
@[simp] theorem State.stopOrder_rrx (s : State) : (s.stopOrder).rrx = s.rrx := rfl
@[simp] theorem State.stopOrder_sup (s : State) : (s.stopOrder).sup = s.sup := rfl
@[simp] theorem State.stopOrder_mem (s : State) : (s.stopOrder).mem = s.mem := rfl
@[simp] theorem State.stopOrder_cfg (s : State) : (s.stopOrder).cfg = s.cfg := rfl
@[simp] theorem State.stopOrder_configured (s : State) : (s.stopOrder).configured = s.configured := rfl
@[simp] theorem State.stopOrder_freeCount (s : State) : (s.stopOrder).freeCount = s.freeCount := rfl
@[simp] theorem State.stopOrder_pending (s : State) : (s.stopOrder).pending = s.pending := rfl
@[simp] theorem State.stopOrder_s (s : State) : (s.stopOrder).drq.s = 0 := rfl

/-! `State.freeBuffer` -/

@[simp] theorem State.freeBuffer_exc (s : State) (b : BufferId) : (s.freeBuffer b).exc = s.exc := rfl
@[simp] theorem State.freeBuffer_port (s : State) (b : BufferId) : (s.freeBuffer b).port = s.port := rfl
@[simp] theorem State.freeBuffer_drq (s : State) (b : BufferId) : (s.freeBuffer b).drq = s.drq := rfl
@[simp] theorem State.freeBuffer_srg (s : State) (b : BufferId) : (s.freeBuffer b).srg = s.srg := rfl
@[simp] theorem State.freeBuffer_bfu (s : State) (b : BufferId) : (s.freeBuffer b).bfu = s.bfu := rfl
@[simp] theorem State.freeBuffer_chk (s : State) (b : BufferId) : (s.freeBuffer b).chk = s.chk := rfl
@[simp] theorem State.freeBuffer_snd (s : State) (b : BufferId) : (s.freeBuffer b).snd = s.snd := rfl
@[simp] theorem State.freeBuffer_smk (s : State) (b : BufferId) : (s.freeBuffer b).smk = s.smk := rfl
@[simp] theorem State.freeBuffer_lgt (s : State) (b : BufferId) : (s.freeBuffer b).lgt = s.lgt := rfl
@[simp] theorem State.freeBuffer_sup (s : State) (b : BufferId) : (s.freeBuffer b).sup = s.sup := rfl
@[simp] theorem State.freeBuffer_mem (s : State) (b : BufferId) : (s.freeBuffer b).mem = s.mem := rfl
@[simp] theorem State.freeBuffer_cfg (s : State) (b : BufferId) : (s.freeBuffer b).cfg = s.cfg := rfl
@[simp] theorem State.freeBuffer_configured (s : State) (b : BufferId) : (s.freeBuffer b).configured = s.configured := rfl
@[simp] theorem State.freeBuffer_freeCount (s : State) (b : BufferId) : (s.freeBuffer b).freeCount = s.freeCount := rfl
@[simp] theorem State.freeBuffer_pending (s : State) (b : BufferId) : (s.freeBuffer b).pending = s.pending := rfl

/-! `State.hearHolder` -/

@[simp] theorem State.hearHolder_exc (s : State) (h : Half) : (s.hearHolder h).exc = s.exc := rfl
@[simp] theorem State.hearHolder_port (s : State) (h : Half) : (s.hearHolder h).port = s.port := rfl
@[simp] theorem State.hearHolder_drq (s : State) (h : Half) : (s.hearHolder h).drq = s.drq := rfl
@[simp] theorem State.hearHolder_srg (s : State) (h : Half) : (s.hearHolder h).srg = s.srg := rfl
@[simp] theorem State.hearHolder_bfu (s : State) (h : Half) : (s.hearHolder h).bfu = s.bfu := rfl
@[simp] theorem State.hearHolder_chk (s : State) (h : Half) : (s.hearHolder h).chk = s.chk := rfl
@[simp] theorem State.hearHolder_snd (s : State) (h : Half) : (s.hearHolder h).snd = s.snd := rfl
@[simp] theorem State.hearHolder_smk (s : State) (h : Half) : (s.hearHolder h).smk = s.smk := rfl
@[simp] theorem State.hearHolder_lgt (s : State) (h : Half) : (s.hearHolder h).lgt = s.lgt := rfl
@[simp] theorem State.hearHolder_sup (s : State) (h : Half) : (s.hearHolder h).sup = s.sup := rfl
@[simp] theorem State.hearHolder_mem (s : State) (h : Half) : (s.hearHolder h).mem = s.mem := rfl
@[simp] theorem State.hearHolder_cfg (s : State) (h : Half) : (s.hearHolder h).cfg = s.cfg := rfl
@[simp] theorem State.hearHolder_configured (s : State) (h : Half) : (s.hearHolder h).configured = s.configured := rfl
@[simp] theorem State.hearHolder_freeCount (s : State) (h : Half) : (s.hearHolder h).freeCount = s.freeCount := rfl
@[simp] theorem State.hearHolder_pending (s : State) (h : Half) : (s.hearHolder h).pending = s.pending := rfl

/-! `State.toInbox` -/

@[simp] theorem State.toInbox_port (s : State) (r : InboxRecord) (b : BufferId) : (s.toInbox r b).port = s.port := rfl
@[simp] theorem State.toInbox_drq (s : State) (r : InboxRecord) (b : BufferId) : (s.toInbox r b).drq = s.drq := rfl
@[simp] theorem State.toInbox_srg (s : State) (r : InboxRecord) (b : BufferId) : (s.toInbox r b).srg = s.srg := rfl
@[simp] theorem State.toInbox_bfu (s : State) (r : InboxRecord) (b : BufferId) : (s.toInbox r b).bfu = s.bfu := rfl
@[simp] theorem State.toInbox_chk (s : State) (r : InboxRecord) (b : BufferId) : (s.toInbox r b).chk = s.chk := rfl
@[simp] theorem State.toInbox_snd (s : State) (r : InboxRecord) (b : BufferId) : (s.toInbox r b).snd = s.snd := rfl
@[simp] theorem State.toInbox_smk (s : State) (r : InboxRecord) (b : BufferId) : (s.toInbox r b).smk = s.smk := rfl
@[simp] theorem State.toInbox_lgt (s : State) (r : InboxRecord) (b : BufferId) : (s.toInbox r b).lgt = s.lgt := rfl
@[simp] theorem State.toInbox_rrx (s : State) (r : InboxRecord) (b : BufferId) : (s.toInbox r b).rrx = s.rrx := rfl
@[simp] theorem State.toInbox_sup (s : State) (r : InboxRecord) (b : BufferId) : (s.toInbox r b).sup = s.sup := rfl
@[simp] theorem State.toInbox_mem (s : State) (r : InboxRecord) (b : BufferId) : (s.toInbox r b).mem = s.mem := rfl
@[simp] theorem State.toInbox_cfg (s : State) (r : InboxRecord) (b : BufferId) : (s.toInbox r b).cfg = s.cfg := rfl
@[simp] theorem State.toInbox_configured (s : State) (r : InboxRecord) (b : BufferId) : (s.toInbox r b).configured = s.configured := rfl
@[simp] theorem State.toInbox_freeCount (s : State) (r : InboxRecord) (b : BufferId) : (s.toInbox r b).freeCount = s.freeCount := rfl
@[simp] theorem State.toInbox_pending (s : State) (r : InboxRecord) (b : BufferId) : (s.toInbox r b).pending = s.pending := rfl

/-! `State.endFrame` -/

@[simp] theorem State.endFrame_exc (s : State) (t : Nat) : (s.endFrame t).exc = s.exc := rfl
@[simp] theorem State.endFrame_port (s : State) (t : Nat) : (s.endFrame t).port = s.port := rfl
@[simp] theorem State.endFrame_drq (s : State) (t : Nat) : (s.endFrame t).drq = s.drq := rfl
@[simp] theorem State.endFrame_srg (s : State) (t : Nat) : (s.endFrame t).srg = s.srg := rfl
@[simp] theorem State.endFrame_bfu (s : State) (t : Nat) : (s.endFrame t).bfu = s.bfu := rfl
@[simp] theorem State.endFrame_chk (s : State) (t : Nat) : (s.endFrame t).chk = s.chk := rfl
@[simp] theorem State.endFrame_snd (s : State) (t : Nat) : (s.endFrame t).snd = s.snd := rfl
@[simp] theorem State.endFrame_smk (s : State) (t : Nat) : (s.endFrame t).smk = s.smk := rfl
@[simp] theorem State.endFrame_lgt (s : State) (t : Nat) : (s.endFrame t).lgt = s.lgt := rfl
@[simp] theorem State.endFrame_sup (s : State) (t : Nat) : (s.endFrame t).sup = s.sup := rfl
@[simp] theorem State.endFrame_mem (s : State) (t : Nat) : (s.endFrame t).mem = s.mem := rfl
@[simp] theorem State.endFrame_cfg (s : State) (t : Nat) : (s.endFrame t).cfg = s.cfg := rfl
@[simp] theorem State.endFrame_configured (s : State) (t : Nat) : (s.endFrame t).configured = s.configured := rfl
@[simp] theorem State.endFrame_freeCount (s : State) (t : Nat) : (s.endFrame t).freeCount = s.freeCount := rfl
@[simp] theorem State.endFrame_pending (s : State) (t : Nat) : (s.endFrame t).pending = s.pending := rfl

/-! `State.discardFrame` -/

@[simp] theorem State.discardFrame_exc (s : State) (d : Discard) : (s.discardFrame d).exc = s.exc := rfl
@[simp] theorem State.discardFrame_port (s : State) (d : Discard) : (s.discardFrame d).port = s.port := rfl
@[simp] theorem State.discardFrame_drq (s : State) (d : Discard) : (s.discardFrame d).drq = s.drq := rfl
@[simp] theorem State.discardFrame_srg (s : State) (d : Discard) : (s.discardFrame d).srg = s.srg := rfl
@[simp] theorem State.discardFrame_bfu (s : State) (d : Discard) : (s.discardFrame d).bfu = s.bfu := rfl
@[simp] theorem State.discardFrame_chk (s : State) (d : Discard) : (s.discardFrame d).chk = s.chk := rfl
@[simp] theorem State.discardFrame_snd (s : State) (d : Discard) : (s.discardFrame d).snd = s.snd := rfl
@[simp] theorem State.discardFrame_smk (s : State) (d : Discard) : (s.discardFrame d).smk = s.smk := rfl
@[simp] theorem State.discardFrame_lgt (s : State) (d : Discard) : (s.discardFrame d).lgt = s.lgt := rfl
@[simp] theorem State.discardFrame_sup (s : State) (d : Discard) : (s.discardFrame d).sup = s.sup := rfl
@[simp] theorem State.discardFrame_mem (s : State) (d : Discard) : (s.discardFrame d).mem = s.mem := rfl
@[simp] theorem State.discardFrame_cfg (s : State) (d : Discard) : (s.discardFrame d).cfg = s.cfg := rfl
@[simp] theorem State.discardFrame_configured (s : State) (d : Discard) : (s.discardFrame d).configured = s.configured := rfl
@[simp] theorem State.discardFrame_freeCount (s : State) (d : Discard) : (s.discardFrame d).freeCount = s.freeCount := rfl
@[simp] theorem State.discardFrame_pending (s : State) (d : Discard) : (s.discardFrame d).pending = s.pending := rfl

/-! `State.takeSample` -/

@[simp] theorem State.takeSample_exc (s : State) (v h : Nat) : (s.takeSample v h).exc = s.exc := rfl
@[simp] theorem State.takeSample_port (s : State) (v h : Nat) : (s.takeSample v h).port = s.port := rfl
@[simp] theorem State.takeSample_drq (s : State) (v h : Nat) : (s.takeSample v h).drq = s.drq := rfl
@[simp] theorem State.takeSample_srg (s : State) (v h : Nat) : (s.takeSample v h).srg = s.srg := rfl
@[simp] theorem State.takeSample_bfu (s : State) (v h : Nat) : (s.takeSample v h).bfu = s.bfu := rfl
@[simp] theorem State.takeSample_chk (s : State) (v h : Nat) : (s.takeSample v h).chk = s.chk := rfl
@[simp] theorem State.takeSample_snd (s : State) (v h : Nat) : (s.takeSample v h).snd = s.snd := rfl
@[simp] theorem State.takeSample_smk (s : State) (v h : Nat) : (s.takeSample v h).smk = s.smk := rfl
@[simp] theorem State.takeSample_lgt (s : State) (v h : Nat) : (s.takeSample v h).lgt = s.lgt := rfl
@[simp] theorem State.takeSample_rrx (s : State) (v h : Nat) : (s.takeSample v h).rrx = s.rrx := rfl
@[simp] theorem State.takeSample_mem (s : State) (v h : Nat) : (s.takeSample v h).mem = s.mem := rfl
@[simp] theorem State.takeSample_cfg (s : State) (v h : Nat) : (s.takeSample v h).cfg = s.cfg := rfl
@[simp] theorem State.takeSample_configured (s : State) (v h : Nat) : (s.takeSample v h).configured = s.configured := rfl
@[simp] theorem State.takeSample_freeCount (s : State) (v h : Nat) : (s.takeSample v h).freeCount = s.freeCount := rfl
@[simp] theorem State.takeSample_pending (s : State) (v h : Nat) : (s.takeSample v h).pending = s.pending := rfl

/-! `State.shareOut` -/

@[simp] theorem State.shareOut_exc (s : State) : (s.shareOut).exc = s.exc := rfl
@[simp] theorem State.shareOut_port (s : State) : (s.shareOut).port = s.port := rfl
@[simp] theorem State.shareOut_drq (s : State) : (s.shareOut).drq = s.drq := rfl
@[simp] theorem State.shareOut_srg (s : State) : (s.shareOut).srg = s.srg := rfl
@[simp] theorem State.shareOut_bfu (s : State) : (s.shareOut).bfu = s.bfu := rfl
@[simp] theorem State.shareOut_chk (s : State) : (s.shareOut).chk = s.chk := rfl
@[simp] theorem State.shareOut_snd (s : State) : (s.shareOut).snd = s.snd := rfl
@[simp] theorem State.shareOut_lgt (s : State) : (s.shareOut).lgt = s.lgt := rfl
@[simp] theorem State.shareOut_rrx (s : State) : (s.shareOut).rrx = s.rrx := rfl
@[simp] theorem State.shareOut_mem (s : State) : (s.shareOut).mem = s.mem := rfl
@[simp] theorem State.shareOut_cfg (s : State) : (s.shareOut).cfg = s.cfg := rfl
@[simp] theorem State.shareOut_configured (s : State) : (s.shareOut).configured = s.configured := rfl
@[simp] theorem State.shareOut_freeCount (s : State) : (s.shareOut).freeCount = s.freeCount := rfl
@[simp] theorem State.shareOut_pending (s : State) : (s.shareOut).pending = s.pending := rfl

/-! `State.loseSensor` -/

@[simp] theorem State.loseSensor_port (s : State) : (s.loseSensor).port = s.port := rfl
@[simp] theorem State.loseSensor_drq (s : State) : (s.loseSensor).drq = s.drq := rfl
@[simp] theorem State.loseSensor_srg (s : State) : (s.loseSensor).srg = s.srg := rfl
@[simp] theorem State.loseSensor_bfu (s : State) : (s.loseSensor).bfu = s.bfu := rfl
@[simp] theorem State.loseSensor_snd (s : State) : (s.loseSensor).snd = s.snd := rfl
@[simp] theorem State.loseSensor_smk (s : State) : (s.loseSensor).smk = s.smk := rfl
@[simp] theorem State.loseSensor_lgt (s : State) : (s.loseSensor).lgt = s.lgt := rfl
@[simp] theorem State.loseSensor_rrx (s : State) : (s.loseSensor).rrx = s.rrx := rfl
@[simp] theorem State.loseSensor_sup (s : State) : (s.loseSensor).sup = s.sup := rfl
@[simp] theorem State.loseSensor_mem (s : State) : (s.loseSensor).mem = s.mem := rfl
@[simp] theorem State.loseSensor_cfg (s : State) : (s.loseSensor).cfg = s.cfg := rfl
@[simp] theorem State.loseSensor_configured (s : State) : (s.loseSensor).configured = s.configured := rfl
@[simp] theorem State.loseSensor_freeCount (s : State) : (s.loseSensor).freeCount = s.freeCount := rfl
@[simp] theorem State.loseSensor_pending (s : State) : (s.loseSensor).pending = s.pending := rfl

/-! `State.dropSqueal` -/

@[simp] theorem State.dropSqueal_exc (s : State) : (s.dropSqueal).exc = s.exc := rfl
@[simp] theorem State.dropSqueal_port (s : State) : (s.dropSqueal).port = s.port := rfl
@[simp] theorem State.dropSqueal_drq (s : State) : (s.dropSqueal).drq = s.drq := rfl
@[simp] theorem State.dropSqueal_srg (s : State) : (s.dropSqueal).srg = s.srg := rfl
@[simp] theorem State.dropSqueal_bfu (s : State) : (s.dropSqueal).bfu = s.bfu := rfl
@[simp] theorem State.dropSqueal_chk (s : State) : (s.dropSqueal).chk = s.chk := rfl
@[simp] theorem State.dropSqueal_smk (s : State) : (s.dropSqueal).smk = s.smk := rfl
@[simp] theorem State.dropSqueal_lgt (s : State) : (s.dropSqueal).lgt = s.lgt := rfl
@[simp] theorem State.dropSqueal_rrx (s : State) : (s.dropSqueal).rrx = s.rrx := rfl
@[simp] theorem State.dropSqueal_sup (s : State) : (s.dropSqueal).sup = s.sup := rfl
@[simp] theorem State.dropSqueal_mem (s : State) : (s.dropSqueal).mem = s.mem := rfl
@[simp] theorem State.dropSqueal_cfg (s : State) : (s.dropSqueal).cfg = s.cfg := rfl
@[simp] theorem State.dropSqueal_configured (s : State) : (s.dropSqueal).configured = s.configured := rfl
@[simp] theorem State.dropSqueal_freeCount (s : State) : (s.dropSqueal).freeCount = s.freeCount := rfl
@[simp] theorem State.dropSqueal_pending (s : State) : (s.dropSqueal).pending = s.pending := rfl

/-! `State.idleFan` -/

@[simp] theorem State.idleFan_exc (s : State) : (s.idleFan).exc = s.exc := rfl
@[simp] theorem State.idleFan_port (s : State) : (s.idleFan).port = s.port := rfl
@[simp] theorem State.idleFan_drq (s : State) : (s.idleFan).drq = s.drq := rfl
@[simp] theorem State.idleFan_srg (s : State) : (s.idleFan).srg = s.srg := rfl
@[simp] theorem State.idleFan_bfu (s : State) : (s.idleFan).bfu = s.bfu := rfl
@[simp] theorem State.idleFan_chk (s : State) : (s.idleFan).chk = s.chk := rfl
@[simp] theorem State.idleFan_snd (s : State) : (s.idleFan).snd = s.snd := rfl
@[simp] theorem State.idleFan_lgt (s : State) : (s.idleFan).lgt = s.lgt := rfl
@[simp] theorem State.idleFan_rrx (s : State) : (s.idleFan).rrx = s.rrx := rfl
@[simp] theorem State.idleFan_sup (s : State) : (s.idleFan).sup = s.sup := rfl
@[simp] theorem State.idleFan_mem (s : State) : (s.idleFan).mem = s.mem := rfl
@[simp] theorem State.idleFan_cfg (s : State) : (s.idleFan).cfg = s.cfg := rfl
@[simp] theorem State.idleFan_configured (s : State) : (s.idleFan).configured = s.configured := rfl
@[simp] theorem State.idleFan_freeCount (s : State) : (s.idleFan).freeCount = s.freeCount := rfl
@[simp] theorem State.idleFan_pending (s : State) : (s.idleFan).pending = s.pending := rfl

@[simp] theorem State.dropSqueal_snd_squealDue (s : State) : s.dropSqueal.snd.squealDue = false := rfl
@[simp] theorem State.dropSqueal_snd_squeal (s : State) : s.dropSqueal.snd.squeal = s.snd.squeal := rfl
@[simp] theorem State.dropSqueal_snd_squealCount (s : State) : s.dropSqueal.snd.squealCount = s.snd.squealCount := rfl
@[simp] theorem State.dropSqueal_snd_voices (s : State) : s.dropSqueal.snd.voices = s.snd.voices := rfl
@[simp] theorem State.dropSqueal_snd_queue (s : State) : s.dropSqueal.snd.queue = s.snd.queue := rfl
@[simp] theorem State.dropSqueal_snd_current (s : State) : s.dropSqueal.snd.current = s.snd.current := rfl
@[simp] theorem State.idleFan_smk_state (s : State) : s.idleFan.smk.state = s.smk.state := rfl
@[simp] theorem State.idleFan_smk_target (s : State) : s.idleFan.smk.target = s.smk.target := rfl
@[simp] theorem State.idleFan_smk_heater (s : State) : s.idleFan.smk.heater = s.smk.heater := rfl
@[simp] theorem State.idleFan_smk_fluid (s : State) : s.idleFan.smk.fluid = s.smk.fluid := rfl
@[simp] theorem State.idleFan_smk_puff (s : State) : s.idleFan.smk.puff = s.smk.puff := rfl
@[simp] theorem State.idleFan_smk_fault (s : State) : s.idleFan.smk.fault = s.smk.fault := rfl
@[simp] theorem State.idleFan_smk_hot (s : State) : s.idleFan.smk.hot = s.smk.hot := rfl
@[simp] theorem State.idleFan_smk_temp (s : State) : s.idleFan.smk.temp = s.smk.temp := rfl
@[simp] theorem State.idleFan_smk_hlim (s : State) : s.idleFan.smk.hlim = s.smk.hlim := rfl
@[simp] theorem State.idleFan_smk_enable (s : State) : s.idleFan.smk.enable = s.smk.enable := rfl
@[simp] theorem State.idleFan_smk_timer (s : State) : s.idleFan.smk.timer = s.smk.timer := rfl

/-- The fan at an evaluation of its idle duty (R141). -/
theorem State.idleFan_fan (s : State) :
    s.idleFan.smk.fan = if s.smk.state = .ready ∧ s.smk.puff.isNone = true then s.cfg.smoke.idle else s.smk.fan := rfl

/-! `Exc.dropBoard` -/

@[simp] theorem Exc.dropBoard_part (e : Exc) : e.dropBoard.part = e.part := rfl
@[simp] theorem Exc.dropBoard_clearing (e : Exc) : e.dropBoard.clearing = e.clearing := rfl
@[simp] theorem Exc.dropBoard_lastCmd (e : Exc) : e.dropBoard.lastCmd = e.lastCmd := rfl
@[simp] theorem Exc.dropBoard_lastResult (e : Exc) : e.dropBoard.lastResult = e.lastResult := rfl
@[simp] theorem Exc.dropBoard_nlat (e : Exc) : e.dropBoard.nlat = e.nlat := rfl
@[simp] theorem Exc.dropBoard_nen (e : Exc) : e.dropBoard.nen = e.nen := rfl
@[simp] theorem Exc.dropBoard_ms (e : Exc) : e.dropBoard.ms = e.ms := rfl
@[simp] theorem Exc.dropBoard_lastTaken (e : Exc) : e.dropBoard.lastTaken = e.lastTaken := rfl
@[simp] theorem Exc.dropBoard_slotState (e : Exc) : e.dropBoard.slotState = e.slotState := rfl
@[simp] theorem Exc.dropBoard_cueTake (e : Exc) : e.dropBoard.cueTake = e.cueTake := rfl
@[simp] theorem Exc.dropBoard_inboxPut (e : Exc) : e.dropBoard.inboxPut = e.inboxPut := rfl
@[simp] theorem Exc.dropBoard_scan (e : Exc) : e.dropBoard.scan = e.scan := rfl
@[simp] theorem Exc.dropBoard_scanHeld (e : Exc) : e.dropBoard.scanHeld = e.scanHeld := rfl
@[simp] theorem Exc.dropBoard_inboxQueue (e : Exc) : e.dropBoard.inboxQueue = e.inboxQueue := rfl
@[simp] theorem Exc.dropBoard_inboxStep (e : Exc) : e.dropBoard.inboxStep = e.inboxStep := rfl
@[simp] theorem Exc.dropBoard_class3Last (e : Exc) : e.dropBoard.class3Last = e.class3Last := rfl
@[simp] theorem Exc.dropBoard_adoption (e : Exc) : e.dropBoard.adoption = e.adoption := rfl
@[simp] theorem Exc.dropBoard_board (e : Exc) : e.dropBoard.board = none := rfl
@[simp] theorem Exc.dropBoard_boardHeld (e : Exc) : e.dropBoard.boardHeld = false := rfl

/-! ### The pairs and the octets -/

@[simp] theorem PerMotor.get_set_self {α : Type} (p : PerMotor α) (m : Motor) (x : α) : (p.set m x).get m = x := by
  cases m <;> rfl

theorem PerMotor.get_set_other {α : Type} (p : PerMotor α) (m n : Motor) (x : α) (h : n ≠ m) : (p.set m x).get n = p.get n := by
  cases m <;> cases n <;> simp_all [PerMotor.set, PerMotor.get]

@[simp] theorem PerMotor.get_map {α β : Type} (p : PerMotor α) (f : α → β) (m : Motor) : (p.map f).get m = f (p.get m) := by
  cases m <;> rfl

@[simp] theorem Octet.get_set_self {α : Type} (o : Octet α) (i : Fin 8) (x : α) : (o.set i x).get i = x := by
  match i with
  | 0 => rfl
  | 1 => rfl
  | 2 => rfl
  | 3 => rfl
  | 4 => rfl
  | 5 => rfl
  | 6 => rfl
  | 7 => rfl

theorem Octet.get_set_other {α : Type} (o : Octet α) (i j : Fin 8) (x : α) (h : j ≠ i) : (o.set i x).get j = o.get j := by
  revert h; revert i j; intro i j
  match i with
  | 0 | 1 | 2 | 3 | 4 | 5 | 6 | 7 =>
    match j with
    | 0 | 1 | 2 | 3 | 4 | 5 | 6 | 7 => intro h; first | rfl | exact absurd rfl h

@[simp] theorem Octet.get_map {α β : Type} (o : Octet α) (f : α → β) (i : Fin 8) : (o.map f).get i = f (o.get i) := by
  match i with
  | 0 => rfl
  | 1 => rfl
  | 2 => rfl
  | 3 => rfl
  | 4 => rfl
  | 5 => rfl
  | 6 => rfl
  | 7 => rfl

@[simp] theorem Octet.get_ofFn {α : Type} (f : Fin 8 → α) (i : Fin 8) : (Octet.ofFn f).get i = f i := by
  match i with
  | 0 => rfl
  | 1 => rfl
  | 2 => rfl
  | 3 => rfl
  | 4 => rfl
  | 5 => rfl
  | 6 => rfl
  | 7 => rfl

end Sys2Proof.Machine
end

