-- ==== Sys2Proof/Laws/Memory.lean ====
section
/-!
SUPPORT. The laws of exchange memory: what a read gives after a write, and that every operation over it keeps its canonical form.
-/
namespace Sys2Proof.Machine

/-! ### The canonical form -/

/-- The canonical form by head and rest. -/
theorem Memory.wf_cons {k : Nat} {b : Byte} {rest : Memory} :
    Memory.wf ((k, b) :: rest) = true ↔
      k < memorySize ∧ b ≠ 0 ∧ (∀ c ∈ rest, k < c.1) ∧ Memory.wf rest = true := by
  induction rest generalizing k b with
  | nil => simp [Memory.wf]
  | cons c rest ih =>
    obtain ⟨k', b'⟩ := c
    simp only [Memory.wf, Bool.and_eq_true, decide_eq_true_eq, bne_iff_ne, List.mem_cons, forall_eq_or_imp]
    constructor
    · rintro ⟨⟨hk, hb⟩, hw⟩
      have h := ih.mp hw
      exact ⟨by omega, hb, ⟨hk, fun c hc => Nat.lt_trans hk (h.2.2.1 c hc)⟩, hw⟩
    · rintro ⟨_, hb, ⟨hk, _⟩, hw⟩
      exact ⟨⟨hk, hb⟩, hw⟩

/-- The empty memory is in canonical form. -/
@[simp] theorem Memory.wf_nil : Memory.wf [] = true := rfl

/-- Memory after power-on reset is in canonical form (R22). -/
theorem Memory.wf_identity : Memory.wf identityMemory = true := by decide

/-- The listed addresses of a memory written once. -/
theorem Memory.mem_write {m : Memory} {a : Nat} {v : Byte} {c : Host.Cell} (h : c ∈ m.write a v) : c ∈ m ∨ c.1 = a := by
  induction m with
  | nil =>
    simp only [Memory.write] at h
    split at h <;> simp_all
  | cons d rest ih =>
    obtain ⟨k, b⟩ := d
    simp only [Memory.write] at h
    split at h
    · split at h
      · exact .inl (List.mem_cons_of_mem _ h)
      · rcases List.mem_cons.mp h with h | h
        · exact .inr (by simp [h])
        · exact .inl (List.mem_cons_of_mem _ h)
    · split at h
      · split at h
        · exact .inl h
        · rcases List.mem_cons.mp h with h | h
          · exact .inr (by simp [h])
          · exact .inl h
      · rcases List.mem_cons.mp h with h | h
        · exact .inl (by simp [h])
        · rcases ih h with h | h
          · exact .inl (List.mem_cons_of_mem _ h)
          · exact .inr h

/-- A write keeps the canonical form. -/
theorem Memory.wf_write {m : Memory} {a : Nat} {v : Byte} (ha : a < memorySize) (h : m.wf = true) :
    (m.write a v).wf = true := by
  induction m with
  | nil =>
    simp only [Memory.write]
    split
    · rfl
    · next hv => exact Memory.wf_cons.mpr ⟨ha, hv, by simp, rfl⟩
  | cons d rest ih =>
    obtain ⟨k, b⟩ := d
    obtain ⟨hk, hb, hlt, hw⟩ := Memory.wf_cons.mp h
    simp only [Memory.write]
    split
    · next heq =>
      subst heq
      split
      · exact hw
      · next hv => exact Memory.wf_cons.mpr ⟨ha, hv, hlt, hw⟩
    · split
      · next hak =>
        split
        · exact h
        · next hv =>
          refine Memory.wf_cons.mpr ⟨ha, hv, ?_, h⟩
          intro c hc
          rcases List.mem_cons.mp hc with hc | hc
          · simp [hc, hak]
          · exact Nat.lt_trans hak (hlt c hc)
      · next hne hnlt =>
        refine Memory.wf_cons.mpr ⟨hk, hb, ?_, ih hw⟩
        intro c hc
        rcases Memory.mem_write hc with hc | hc
        · exact hlt c hc
        · omega

/-- Writing cells that lie inside exchange memory keeps the canonical form. -/
theorem Memory.wf_writeCells {q : List Host.Cell} {m : Memory} (hq : cellsInside q = true) (h : m.wf = true) :
    (m.writeCells q).wf = true := by
  induction q generalizing m with
  | nil => exact h
  | cons c rest ih =>
    obtain ⟨a, v⟩ := c
    simp only [cellsInside, List.all_cons, Bool.and_eq_true, decide_eq_true_eq] at hq
    exact ih (by simpa [cellsInside] using hq.2) (Memory.wf_write hq.1 h)

/-- Keeping part of a memory's cells keeps the canonical form. -/
theorem Memory.wf_filter {m : Memory} (f : Host.Cell → Bool) (h : m.wf = true) : Memory.wf (m.filter f) = true := by
  induction m with
  | nil => rfl
  | cons d rest ih =>
    obtain ⟨k, b⟩ := d
    obtain ⟨hk, hb, hlt, hw⟩ := Memory.wf_cons.mp h
    by_cases hf : f (k, b) = true
    · rw [List.filter_cons_of_pos hf]
      exact Memory.wf_cons.mpr ⟨hk, hb, fun c hc => hlt c (List.mem_filter.mp hc).1, ih hw⟩
    · rw [List.filter_cons_of_neg hf]
      exact ih hw

/-- Clearing a run of addresses keeps the canonical form (R23). -/
theorem Memory.wf_clear {m : Memory} (lo hi : Nat) (h : m.wf = true) : (m.clear lo hi).wf = true :=
  Memory.wf_filter _ h

/-- A soft reset keeps the canonical form (R23). -/
theorem Memory.wf_softCleared {m : Memory} (h : m.wf = true) : m.softCleared.wf = true :=
  Memory.wf_clear _ _ (Memory.wf_clear _ _ h)

/-- The cells of a little-endian field that ends inside exchange memory lie inside it. -/
theorem leCells_inside {a n v : Nat} (h : a + n ≤ memorySize) : cellsInside (leCells a n v) = true := by
  induction n generalizing a v with
  | zero => rfl
  | succ n ih =>
    simp only [leCells, cellsInside, List.all_cons, Bool.and_eq_true, decide_eq_true_eq]
    exact ⟨by omega, by simpa [cellsInside] using ih (a := a + 1) (v := v / 256) (by omega)⟩

/-- A field written inside exchange memory keeps the canonical form. -/
theorem State.wf_writeField {s : State} {a n v : Nat} (ha : a + n ≤ memorySize) (h : s.mem.wf = true) :
    (s.writeField a n v).mem.wf = true :=
  Memory.wf_writeCells (leCells_inside ha) h

/-! ### Reads and writes -/

/-- An address below every listed one reads 0. -/
theorem Memory.read_of_lt {m : Memory} {a : Nat} (h : ∀ c ∈ m, a < c.1) : m.read a = 0 := by
  induction m with
  | nil => rfl
  | cons d rest ih =>
    obtain ⟨k, b⟩ := d
    have hk : a < k := h (k, b) (by simp)
    have hr : Memory.read rest a = 0 := ih fun c hc => h c (List.mem_cons_of_mem _ hc)
    simp only [Memory.read, hr]
    exact if_neg (by omega)

/-- A byte just written reads as written. -/
theorem Memory.read_write_self {m : Memory} {a : Nat} {v : Byte} (h : m.wf = true) : (m.write a v).read a = v := by
  induction m with
  | nil =>
    simp only [Memory.write]
    split <;> simp_all [Memory.read]
  | cons d rest ih =>
    obtain ⟨k, b⟩ := d
    obtain ⟨_, _, hlt, hw⟩ := Memory.wf_cons.mp h
    simp only [Memory.write]
    split
    · next heq =>
      subst heq
      split
      · next hv => rw [Memory.read_of_lt hlt, hv]
      · simp [Memory.read]
    · split
      · next hne hak =>
        split
        · next hv =>
          have hr : Memory.read rest a = 0 := Memory.read_of_lt fun c hc => Nat.lt_trans hak (hlt c hc)
          rw [hv]
          simp [Memory.read, hne, hr]
        · simp [Memory.read]
      · next hne _ => simp [Memory.read, hne, ih hw]

/-- A write leaves every other byte as it was. -/
theorem Memory.read_write_other {m : Memory} {a b : Nat} {v : Byte} (hab : b ≠ a) (h : m.wf = true) :
    (m.write a v).read b = m.read b := by
  induction m with
  | nil =>
    simp only [Memory.write]
    split <;> simp [Memory.read, Ne.symm hab]
  | cons d rest ih =>
    obtain ⟨k, x⟩ := d
    obtain ⟨_, _, hlt, hw⟩ := Memory.wf_cons.mp h
    simp only [Memory.write]
    split
    · next heq =>
      subst heq
      split <;> simp [Memory.read, Ne.symm hab]
    · split
      · split
        · rfl
        · simp [Memory.read, Ne.symm hab]
      · simp [Memory.read, ih hw]

/-- Cells written at other addresses leave a byte as it was. -/
theorem Memory.read_writeCells_other {q : List Host.Cell} {m : Memory} {b : Nat} (hq : cellsInside q = true)
    (hb : ∀ c ∈ q, c.1 ≠ b) (h : m.wf = true) : (m.writeCells q).read b = m.read b := by
  induction q generalizing m with
  | nil => rfl
  | cons c rest ih =>
    obtain ⟨a, v⟩ := c
    have hc := hq
    simp only [cellsInside, List.all_cons, Bool.and_eq_true, decide_eq_true_eq] at hc
    have hne : b ≠ a := fun e => hb (a, v) (by simp) e.symm
    rw [Memory.writeCells, ih (by simpa [cellsInside] using hc.2) (fun d hd => hb d (List.mem_cons_of_mem _ hd))
      (Memory.wf_write hc.1 h), Memory.read_write_other hne h]

/-- A cleared address reads 0, and every other as before (R23). -/
theorem Memory.read_clear {m : Memory} {lo hi a : Nat} :
    (m.clear lo hi).read a = if lo ≤ a ∧ a < hi then 0 else m.read a := by
  induction m with
  | nil => simp [Memory.clear, Memory.read]
  | cons d rest ih =>
    obtain ⟨k, b⟩ := d
    unfold Memory.clear at ih ⊢
    by_cases hk : k < lo ∨ hi ≤ k
    · rw [List.filter_cons_of_pos (by simpa using hk)]
      simp only [Memory.read]
      split
      · next heq => subst heq; rw [if_neg (by omega)]
      · exact ih
    · rw [List.filter_cons_of_neg (by simpa using hk), ih]
      by_cases ha : lo ≤ a ∧ a < hi
      · rw [if_pos ha, if_pos ha]
      · rw [if_neg ha, if_neg ha]
        simp only [Memory.read]
        exact (if_neg (by omega)).symm

/-- What a little-endian field written inside exchange memory reads as, and what it leaves (0.8). -/
theorem Memory.read_writeField {m : Memory} {a n v b : Nat} (ha : a + n ≤ memorySize) (h : m.wf = true) :
    (m.writeCells (leCells a n v)).read b
      = if a ≤ b ∧ b < a + n then BitVec.ofNat 8 (v / 256 ^ (b - a)) else m.read b := by
  induction n generalizing a v m with
  | zero => simp only [leCells, Memory.writeCells]; rw [if_neg (by omega)]
  | succ n ih =>
    simp only [leCells, Memory.writeCells]
    rw [ih (by omega) (Memory.wf_write (by omega) h)]
    by_cases hb : b = a
    · subst hb
      rw [if_neg (by omega), if_pos (by omega), Memory.read_write_self h]; simp
    · rw [Memory.read_write_other hb h]
      by_cases hr : a + 1 ≤ b ∧ b < a + 1 + n
      · rw [if_pos hr, if_pos (by omega), Nat.div_div_eq_div_mul]
        congr 2
        obtain ⟨d, rfl⟩ : ∃ d, b = a + 1 + d := ⟨b - (a + 1), by omega⟩
        rw [show a + 1 + d - (a + 1) = d by omega, show a + 1 + d - a = d + 1 by omega, Nat.pow_succ, Nat.mul_comm]
      · rw [if_neg hr, if_neg (by omega)]

/-- What a run of bytes written from an address on reads as, and what it leaves. -/
theorem Memory.read_writeRun {l : List Byte} {m : Memory} {a b : Nat} (ha : a + l.length ≤ memorySize) (h : m.wf = true) :
    (m.writeCells ((l.zipIdx a).map fun x => (x.2, x.1))).read b
      = if a ≤ b ∧ b < a + l.length then l.getD (b - a) 0 else m.read b := by
  induction l generalizing a m with
  | nil => simp only [List.zipIdx_nil, List.map_nil, Memory.writeCells, List.length_nil]; rw [if_neg (by omega)]
  | cons v rest ih =>
    rw [List.length_cons] at ha
    simp only [List.zipIdx_cons, List.map_cons, Memory.writeCells, List.length_cons]
    rw [ih (by omega) (Memory.wf_write (by omega) h)]
    by_cases hb : b = a
    · subst hb
      rw [if_neg (by omega), if_pos (by omega), Memory.read_write_self h]; simp
    · rw [Memory.read_write_other hb h]
      by_cases hr : a + 1 ≤ b ∧ b < a + 1 + rest.length
      · rw [if_pos hr, if_pos (by omega), show b - a = (b - (a + 1)) + 1 by omega, List.getD_cons_succ]
      · rw [if_neg hr, if_neg (by omega)]

/-- Writing two runs of bytes one after the other. -/
theorem Memory.writeCells_append (m : Memory) (p q : List Host.Cell) :
    m.writeCells (p ++ q) = (m.writeCells p).writeCells q := by
  induction p generalizing m with
  | nil => rfl
  | cons c rest ih => obtain ⟨a, v⟩ := c; exact ih _

/-- Reading a field that a write leaves alone. -/
theorem Memory.readLe_congr {m m' : Memory} {a n : Nat} (h : ∀ b, a ≤ b → b < a + n → m'.read b = m.read b) :
    m'.readLe a n = m.readLe a n := by
  induction n generalizing a with
  | zero => rfl
  | succ n ih =>
    simp only [Memory.readLe]
    rw [h a (by omega) (by omega), ih fun b hb hb' => h b (by omega) (by omega)]

/-- The reset memory is in canonical form. -/
theorem State.reset_mem_wf : State.reset.mem.wf = true := Memory.wf_identity

end Sys2Proof.Machine
end

