-- ==== Sys2Proof/Laws/Arbiter.lean ====
section
/-!
SUPPORT. What the memory arbiter's grants can do (R6): one lemma for a single grant, one for a run of grants, and the counts that bound
the runs.
-/
namespace Sys2Proof.Machine

/-- The second state differs from the first in EXC, the port, SND and exchange memory alone. -/
def grantOnly (s t : State) : Prop := t = { s with exc := t.exc, port := t.port, snd := t.snd, mem := t.mem }

theorem grantOnly.refl (s : State) : grantOnly s s := rfl

theorem grantOnly.trans {s t u : State} (h : grantOnly s t) (h' : grantOnly t u) : grantOnly s u := by
  unfold grantOnly at *
  rw [h'] at *
  rw [h]

/-! ### Runs of grants -/

/-- What every grant keeps, a run of grants keeps. -/
theorem State.grantWhile_induct {w : State → Bool} {P : State → Prop} (h : ∀ s, P s → P s.grant) (n : Nat) :
    ∀ s, P s → P (State.grantWhile w n s) := by
  induction n with
  | zero => exact fun _ hs => hs
  | succ n ih =>
    intro s hs
    unfold State.grantWhile
    split
    · exact ih _ (h s hs)
    · exact hs

/-- Where nothing of the kind waits, nothing is granted. -/
theorem State.grantWhile_idle {w : State → Bool} {s : State} (h : w s = false) (n : Nat) : State.grantWhile w n s = s := by
  cases n with
  | zero => rfl
  | succ n => simp [State.grantWhile, h]

/-- A measure that falls with every grant while requests wait bounds the run, and at its end none waits. -/
theorem State.grantWhile_done {w : State → Bool} {f : State → Nat} (h : ∀ s, w s = true → f s.grant < f s) (n : Nat) :
    ∀ s, f s ≤ n → w (State.grantWhile w n s) = false := by
  induction n with
  | zero =>
    intro s hs
    cases hw : w s with
    | false => exact hw
    | true => exact absurd (h s hw) (by omega)
  | succ n ih =>
    intro s hs
    unfold State.grantWhile
    split
    · rename_i hw
      exact ih _ (by have := h s hw; omega)
    · rename_i hw
      simpa using hw

/-- A run that its measure bounds goes no further with more grants allowed. -/
theorem State.grantWhile_stable {w : State → Bool} {f : State → Nat} (h : ∀ s, w s = true → f s.grant < f s) (n : Nat) :
    ∀ s, f s ≤ n → State.grantWhile w (n + 1) s = State.grantWhile w n s := by
  induction n with
  | zero =>
    intro s hs
    cases hw : w s with
    | false => exact State.grantWhile_idle hw 1
    | true => exact absurd (h s hw) (by omega)
  | succ n ih =>
    intro s hs
    unfold State.grantWhile
    split
    · rename_i hw
      exact ih _ (by have := h s hw; omega)
    · rfl

@[simp] theorem State.serveSound_idle {s : State} (h : s.soundWaits = false) : s.serveSound = s := State.grantWhile_idle h 4

@[simp] theorem State.serveLower_idle {s : State} (h : s.lowerWaits = false) : s.serveLower = s := State.grantWhile_idle h 271

/-! ### A single grant -/

theorem State.boardGrant_grantOnly (s : State) (k : Nat) : grantOnly s (s.boardGrant k) := by
  unfold State.boardGrant
  split
  · rfl
  · split <;> rfl

theorem State.readSeen_grantOnly (s : State) : grantOnly s s.readSeen := by
  unfold State.readSeen
  split <;> rfl

theorem State.inboxGrant_grantOnly (s : State) : grantOnly s s.inboxGrant := by
  unfold State.inboxGrant
  split
  · rfl
  · split
    · exact State.readSeen_grantOnly s
    · rfl

theorem State.class3Grant_grantOnly (s : State) (x : Class3) : grantOnly s (s.class3Grant x) := by
  unfold State.class3Grant
  cases x with
  | board =>
    simp only
    split
    · exact (show grantOnly s (s.noteGrant .board) from rfl).trans (State.boardGrant_grantOnly _ _)
    · rfl
  | inbox => exact (show grantOnly s (s.noteGrant .inbox) from rfl).trans (State.inboxGrant_grantOnly _)

/-- A grant touches EXC, the port, SND and exchange memory alone (R6). -/
theorem State.grant_grantOnly (s : State) : grantOnly s s.grant := by
  unfold State.grant
  split
  · rfl
  · split
    · unfold State.portGrant
      split <;> rfl
    · split
      · unfold State.writerGrant
        split
        · exact (show grantOnly s { s with exc := { s.exc with class3Last := some (Class3.turn s.exc.class3Last) } } from rfl).trans
            (State.class3Grant_grantOnly _ _)
        · split <;> exact State.class3Grant_grantOnly _ _
      · split <;> rfl

/-- A run of grants touches EXC, the port, SND and exchange memory alone (R6). -/
theorem State.grantWhile_grantOnly (w : State → Bool) (n : Nat) (s : State) : grantOnly s (State.grantWhile w n s) :=
  State.grantWhile_induct (P := grantOnly s) (fun t ht => ht.trans t.grant_grantOnly) n s (grantOnly.refl s)

/-! ### How many grants can be waited for -/

/-- The descriptor words that the start in progress still needs. -/
def State.soundLeft (s : State) : Nat := (s.snd.current.map fun w => 4 - w.words.length).getD 0

/-- The port's awaited write. -/
def State.portLeft (s : State) : Nat := if s.port.awaiting.isSome then 1 else 0

/-- The grants that the board write in progress still needs. -/
def State.boardLeft (s : State) : Nat := (s.exc.board.map fun k => 257 - min k 256).getD 0

/-- The grants that the inbox writer still needs for the frame at the head of its queue. -/
def State.inboxLeft (s : State) : Nat :=
  match s.exc.inboxQueue, s.exc.inboxStep.ahead with
  | [], _ => 0
  | _ :: _, none => 9
  | _ :: _, some k => if k < 32 then 8 - s.exc.inboxStep.words else 0

/-- All the grants that requests of classes 1 to 3 wait for. -/
def State.lowerLeft (s : State) : Nat := s.soundLeft + s.portLeft + s.boardLeft + s.inboxLeft

theorem State.lowerLeft_le (s : State) : s.lowerLeft ≤ 271 := by
  have h1 : s.soundLeft ≤ 4 := by
    unfold State.soundLeft
    cases s.snd.current <;> simp
  have h2 : s.portLeft ≤ 1 := by
    unfold State.portLeft
    split <;> omega
  have h3 : s.boardLeft ≤ 257 := by
    unfold State.boardLeft
    cases s.exc.board <;> simp
  have h4 : s.inboxLeft ≤ 9 := by
    unfold State.inboxLeft
    split
    · omega
    · omega
    · split <;> omega
  unfold State.lowerLeft
  omega

theorem State.soundGrant_left {s : State} (h : s.soundWaits = true) : s.soundGrant.lowerLeft < s.lowerLeft := by
  unfold State.soundWaits at h
  cases hc : s.snd.current with
  | none => simp [hc] at h
  | some w =>
    simp only [hc, decide_eq_true_eq] at h
    simp only [State.lowerLeft, State.soundLeft, State.portLeft, State.boardLeft, State.inboxLeft, State.soundGrant, hc, Option.map_some,
      Option.getD_some, StartWork.readMore, List.length_append, List.length_singleton] <;> omega

theorem State.portGrant_left {s : State} (h : s.port.awaiting.isSome = true) : s.portGrant.lowerLeft < s.lowerLeft := by
  cases hc : s.port.awaiting with
  | none => simp [hc] at h
  | some q =>
    simp [State.lowerLeft, State.soundLeft, State.portLeft, State.boardLeft, State.inboxLeft, State.portGrant, hc, State.writeMem]

theorem State.boardGrant_left {s : State} {k : Nat} (h : s.exc.board = some k) (x : Option Class3) :
    (({ s with exc := { s.exc with class3Last := x } } : State).boardGrant k).lowerLeft < s.lowerLeft := by
  unfold State.boardGrant boardWords
  split
  · simp [State.lowerLeft, State.soundLeft, State.portLeft, State.boardLeft, State.inboxLeft, State.boardAt, State.writeGeneration,
      State.writeField, State.writeMem, h] <;> omega
  · split
    · simp [State.lowerLeft, State.soundLeft, State.portLeft, State.boardLeft, State.inboxLeft, State.boardAt, State.writeMem, h] <;> omega
    · simp [State.lowerLeft, State.soundLeft, State.portLeft, State.boardLeft, State.inboxLeft, State.boardAt, State.writeGeneration,
        State.writeField, State.writeMem, State.bumpGeneration, h] <;> omega

theorem State.inboxGrant_left {s : State} (h : s.inboxWaits = true) (x : Option Class3) :
    (({ s with exc := { s.exc with class3Last := x } } : State).inboxGrant).lowerLeft < s.lowerLeft := by
  unfold State.inboxWaits at h
  cases hq : s.exc.inboxQueue with
  | nil => simp [hq] at h
  | cons j rest =>
    simp only [hq] at h
    cases ha : s.exc.inboxStep.ahead with
    | none =>
      simp only [State.inboxGrant, hq, ha, Option.isNone_none, if_true, State.readSeen]
      simp only [State.lowerLeft, State.soundLeft, State.portLeft, State.boardLeft, State.inboxLeft, hq, ha]
      repeat' split
      all_goals omega
    | some k =>
      obtain ⟨h1, h2⟩ : k < 32 ∧ s.exc.inboxStep.words < 8 := by
        simp only [ha, Bool.and_eq_true] at h
        exact ⟨of_decide_eq_true h.1, of_decide_eq_true h.2⟩
      simp only [State.inboxGrant, hq, ha, Option.isNone_some, Bool.false_eq_true, if_false, State.writeRecord]
      simp only [State.lowerLeft, State.soundLeft, State.boardLeft, State.inboxLeft, State.writeMem, hq, ha, h1, if_true]
      show _ + s.portLeft + _ + _ < _
      omega

theorem State.class3Grant_left {s : State} (x : Option Class3) :
    (s.exc.board.isSome = true →
      (({ s with exc := { s.exc with class3Last := x } } : State).class3Grant .board).lowerLeft < s.lowerLeft)
    ∧ (s.inboxWaits = true → (({ s with exc := { s.exc with class3Last := x } } : State).class3Grant .inbox).lowerLeft < s.lowerLeft) := by
  refine ⟨fun h => ?_, fun h => ?_⟩
  · obtain ⟨k, hk⟩ := Option.isSome_iff_exists.mp h
    simp only [State.class3Grant, hk]
    exact State.boardGrant_left hk (x.map fun _ => Class3.board)
  · exact State.inboxGrant_left h (x.map fun _ => Class3.inbox)

/-- While a request of a lower-numbered class waits, every grant brings the arbiter nearer to having served them all (R6). -/
theorem State.grant_left {s : State} (h : s.lowerWaits = true) : s.grant.lowerLeft < s.lowerLeft := by
  unfold State.grant
  split
  · rename_i hs
    exact State.soundGrant_left hs
  · split
    · rename_i _ hp
      exact State.portGrant_left hp
    · rename_i hs hp
      have hw : (s.exc.board.isSome || s.inboxWaits) = true := by
        simp only [State.lowerWaits, Bool.or_eq_true] at h
        simp only [Bool.or_eq_true]
        rcases h with ((h | h) | h) | h
        · exact absurd h hs
        · exact absurd h hp
        · exact .inl h
        · exact .inr h
      rw [if_pos hw]
      unfold State.writerGrant
      split
      · rename_i hb
        have k := State.class3Grant_left (s := s) (some (Class3.turn s.exc.class3Last))
        show (State.class3Grant _ (Class3.turn s.exc.class3Last)).lowerLeft < s.lowerLeft
        generalize Class3.turn s.exc.class3Last = c at k ⊢
        cases c with
        | board => exact k.1 hb.1
        | inbox => exact k.2 hb.2
      · have k := State.class3Grant_left (s := s) s.exc.class3Last
        split
        · rename_i hb
          exact k.1 hb
        · rename_i hb
          exact k.2 (by simpa [hb] using hw)

/-- After the turn of the lower-numbered classes none of them waits (R6). -/
theorem State.serveLower_done (s : State) : s.serveLower.lowerWaits = false :=
  State.grantWhile_done (fun _ h => State.grant_left h) 271 s s.lowerLeft_le

/-- The turn of the lower-numbered classes begins with the arbiter's next grant (R6). -/
theorem State.serveLower_grant {s : State} (h : s.lowerWaits = true) : s.serveLower = s.grant.serveLower := by
  have e : s.serveLower = State.grantWhile State.lowerWaits 270 s.grant := by
    show (if s.lowerWaits then _ else _) = _
    rw [if_pos h]
  rw [e]
  exact (State.grantWhile_stable (fun _ h => State.grant_left h) 270 s.grant (by
    have := State.grant_left h
    have := s.lowerLeft_le
    omega)).symm

end Sys2Proof.Machine
end

