-- ==== Sys2Proof/Laws/Bridge.lean ====
section
/-!
SUPPORT. What the shared operations of the bridge channels can do (R68 to R72, R75): the switches, the counter and the phase move; the
rest of a channel stays.
-/
namespace Sys2Proof.Machine

/-- Two channels agree in all but the switches, the counter and the phase. -/
def channelCore (a b : Channel) : Prop :=
  a.mode = b.mode ∧ a.duty = b.duty ∧ a.raised = b.raised ∧ a.dir = b.dir ∧ a.avg = b.avg ∧ a.sum = b.sum ∧ a.count = b.count
  ∧ a.cbcMark = b.cbcMark ∧ a.persist = b.persist ∧ a.overlap = b.overlap ∧ a.periodSample = b.periodSample ∧ a.periodCbc = b.periodCbc

/-- No switch of the channel conducts. -/
def deadLegs (a : Channel) : Prop := a.leg1.high = false ∧ a.leg1.low = false ∧ a.leg2.high = false ∧ a.leg2.low = false

theorem channelCore.refl (a : Channel) : channelCore a a := by simp [channelCore]

theorem channelCore.trans {a b c : Channel} (h : channelCore a b) (h' : channelCore b c) : channelCore a c := by
  unfold channelCore at *
  simp_all

theorem Channel.apply_spec (c : Traction) (ch : Channel) :
    channelCore (ch.apply c) ch ∧ (ch.apply c).pos = ch.pos ∧ (ch.apply c).phase = ch.phase := by
  unfold Channel.apply channelCore
  cases ch.dir <;> simp

theorem Channel.arrive_spec (c : Traction) (p : Nat) (ch : Channel) :
    channelCore (ch.arrive c p) ch ∧ (ch.arrive c p).pos = some p ∧ ((ch.arrive c p).phase = .limited ↔ ch.phase = .limited) := by
  unfold Channel.arrive
  have h := Channel.apply_spec c { ch.pass (p - ch.pos.getD 0) with pos := some p, phase := phaseAt c ch.duty p ch.phase }
  refine ⟨h.1, h.2.1, ?_⟩
  rw [h.2.2]
  simp only [phaseAt]
  cases ch.phase <;> simp only [reduceCtorEq, iff_self] <;> repeat' split
  all_goals simp

theorem Channel.via_spec (c : Traction) (p : Nat) (qs : List Nat) (ch : Channel) :
    channelCore (ch.via c p qs) ch ∧ ((ch.via c p qs).phase = .limited ↔ ch.phase = .limited) := by
  induction qs generalizing ch with
  | nil =>
    unfold Channel.via
    split
    · exact ⟨(Channel.arrive_spec c p ch).1, (Channel.arrive_spec c p ch).2.2⟩
    · exact ⟨channelCore.refl _, Iff.rfl⟩
  | cons q qs ih =>
    unfold Channel.via
    split
    · have h := ih (ch.arrive c q)
      exact ⟨h.1.trans (Channel.arrive_spec c q ch).1, h.2.trans (Channel.arrive_spec c q ch).2.2⟩
    · exact ih ch

theorem Channel.moveTo_spec (c : Traction) (p : Nat) (ch : Channel) :
    channelCore (ch.moveTo c p) ch ∧ ((ch.moveTo c p).phase = .limited ↔ ch.phase = .limited) := by
  unfold Channel.moveTo
  split
  · exact Channel.via_spec _ _ _ _
  · exact ⟨channelCore.refl _, Iff.rfl⟩

theorem Leg.bring_none (d : Nat) (g : Leg) : (g.bring d none).high = false ∧ (g.bring d none).low = false := by
  simp [Leg.bring]

theorem Leg.bring_low (d : Nat) (g : Leg) : (g.bring d (some .low)).high = false := by
  simp only [Leg.bring]
  split
  · simp_all
  · split <;> (simp_all; split <;> rfl)

theorem Channel.apply_dead {c : Traction} {ch : Channel} (h : wanted c ch = (none, none)) : deadLegs (ch.apply c) := by
  unfold Channel.apply deadLegs
  rw [h]
  cases ch.dir <;> simp [Leg.bring_none]

/-- All that bringing a half-bridge to a switch can do (R70). -/
theorem Leg.bring_turns (dead : Nat) (want : Option Switch) (g : Leg) : Leg.Turns dead want g (g.bring dead want) := by
  obtain ⟨high, low, dh, dl, delayed⟩ := g
  rcases want with _ | (_ | _) <;> cases high <;> cases low <;> simp only [Leg.bring] <;> constructor <;>
    (repeat' split) <;> simp_all <;> exact fun a b => a (by simp_all)

/-- The switches that a channel is brought to are those that R68 to R70 and R75 make due. -/
theorem wanted_due (c : Traction) (ch : Channel) : Channel.Due c ch (wanted c ch).1 (wanted c ch).2 := by
  have h (a : Nat) : ch.pos.getD 0 + c.deadTime < (a + 2047) / 2048 ↔ 2048 * (ch.pos.getD 0 + c.deadTime) < a := by omega
  unfold wanted
  constructor <;> intro hm <;> (try rcases hm with hm | hm) <;> rw [hm]
  all_goals first
    | exact ⟨rfl, rfl⟩
    | intro hp; (try rcases hp with hp | hp) <;> rw [hp]
  · exact ⟨rfl, rfl⟩
  · exact ⟨fun h => by rw [h]; exact ⟨rfl, rfl⟩, fun h => by rw [h]; exact ⟨rfl, rfl⟩⟩
  · exact fun h => by rw [h]; exact ⟨rfl, rfl⟩
  · exact fun h => by rw [h]; exact ⟨rfl, rfl⟩
  all_goals
    intro ho
    rw [ho]
    refine ⟨rfl, ?_⟩
    simp [drivingLowWanted, onStart, hp, h]

/-- Bringing a channel to its pattern turns both half-bridges to what is due (R68 to R70, R75). -/
theorem Channel.apply_turns (c : Traction) (ch : Channel) : Channel.Turns c ch (ch.apply c) := by
  refine ⟨(wanted c ch).1, (wanted c ch).2, ?_, ?_⟩
  · have h := wanted_due c ch
    unfold Channel.apply
    cases ch.dir <;> exact ⟨h.off, h.brake, h.on, h.limited, h.coasts, h.brakes⟩
  · unfold Channel.apply Channel.drivingLeg Channel.returnLeg
    cases ch.dir <;> exact ⟨Leg.bring_turns _ _ _, Leg.bring_turns _ _ _⟩

/-- A half-bridge that has turned shows what is due on it. -/
theorem Leg.Turns.shows {dead : Nat} {want : Option Switch} {g h : Leg} (t : Leg.Turns dead want g h) : Leg.Shows want h :=
  ⟨fun x => (t.high.1 x).1, fun x => (t.low.1 x).1, t.waits⟩

/-- A channel that has turned shows its pattern. -/
theorem Channel.Turns.shown {c : Traction} {ch x : Channel} (t : Channel.Turns c ch x) : Channel.Shown c x := by
  obtain ⟨d, b, hd, h1, h2⟩ := t.legs
  exact ⟨d, b, hd, h1.shows, h2.shows⟩

/-- All that handing a duty to a channel can do (R71). -/
theorem Channel.hand_spec (c : Traction) (d : Nat) (ch : Channel) : DutyHanded c ch (ch.hand c d) d := by
  have h (a : Nat) : (a + 2047) / 2048 ≤ ch.pos.getD 0 ↔ a ≤ 2048 * ch.pos.getD 0 := by omega
  constructor <;> intro hm
  · rw [Channel.hand, if_pos hm]
  · intro hd
    subst hd
    rw [Channel.hand, if_neg (by simp [hm]), if_pos rfl]
  · intro hd
    rw [Channel.hand, if_neg (by simp [hm]), if_neg (by omega), if_pos hd]
  · intro hd
    rw [Channel.hand, if_neg (by simp [hm]), if_neg (by omega), if_neg (by omega)]
    simp only [onEnd, h]
    refine ⟨?_, ?_, ?_⟩
    · unfold Channel.apply
      cases ch.dir <;> rfl
    · rw [(Channel.apply_spec _ _).2.2]
    · have t := Channel.apply_turns c { ch with
        duty := d, raised := none,
        phase := if ch.phase = .on ∧ (d = 0 ∨ periodTicks c * (1024 + d) ≤ 2048 * ch.pos.getD 0) then .after else ch.phase }
      exact ⟨t.legs⟩

/-- In OFF and in FLOAT no switch conducts (R68, R72). -/
theorem Channel.apply_off {c : Traction} {ch : Channel} (h : ch.mode = .off ∨ ch.mode = .float) : deadLegs (ch.apply c) := by
  apply Channel.apply_dead
  unfold wanted
  rcases h with h | h <;> rw [h]

theorem Channel.enter_spec (c : Traction) (m : Mode) (ch : Channel) :
    (ch.enter c m).mode = m ∧ (ch.enter c m).duty = ch.duty ∧ (ch.enter c m).raised = ch.raised ∧ (ch.enter c m).dir = ch.dir
    ∧ (ch.enter c m).avg = ch.avg ∧ (ch.enter c m).sum = ch.sum ∧ (ch.enter c m).count = ch.count ∧ (ch.enter c m).pos = ch.pos := by
  unfold Channel.enter
  split
  · simp_all
  · have h := Channel.apply_spec c { ch with mode := m, persist := if m = .off then 0 else ch.persist }
    simp_all [channelCore]

/-- A period start (R69, R71): the counter restarts, a raised duty is applied, mode and direction stay. -/
theorem Channel.newPeriod_spec (c : Traction) (w : Bool) (ch : Channel) :
    (ch.newPeriod c w).mode = ch.mode ∧ (ch.newPeriod c w).duty = ch.raised.getD ch.duty ∧ (ch.newPeriod c w).raised = none
    ∧ (ch.newPeriod c w).dir = ch.dir ∧ (ch.newPeriod c w).avg = ch.avg ∧ (ch.newPeriod c w).sum = ch.sum
    ∧ (ch.newPeriod c w).count = ch.count ∧ (ch.newPeriod c w).pos = some 0 := by
  have h := Channel.moveTo_spec c (periodTicks c) ch
  unfold Channel.newPeriod
  simp_all [channelCore]

/-- A trip leaves a channel OFF with no switch conducting, its average and its counts 0, and its direction and duty as they were (R79). -/
theorem Channel.tripped_spec (c : Traction) (ch : Channel) :
    (ch.tripped c).mode = .off ∧ deadLegs (ch.tripped c) ∧ (ch.tripped c).avg = 0 ∧ (ch.tripped c).persist = 0
    ∧ (ch.tripped c).cbcMark = false ∧ (ch.tripped c).dir = ch.dir ∧ (ch.tripped c).duty = ch.duty := by
  unfold Channel.tripped
  refine ⟨?_, Channel.apply_off (.inl rfl), ?_, ?_, ?_, ?_, ?_⟩
  all_goals
    have h := Channel.apply_spec c { ch with
      mode := .off, persist := 0, cbcMark := false, periodCbc := false, avg := 0, sum := 0, count := 0, periodSample := none }
    simp_all [channelCore]

/-- An open float window leaves a present channel in FLOAT with no switch conducting (R72). -/
theorem Channel.openFloat_spec (c : Traction) (ch : Channel) :
    (ch.openFloat c).mode = .float ∧ deadLegs (ch.openFloat c) ∧ (ch.openFloat c).duty = ch.duty ∧ (ch.openFloat c).dir = ch.dir
    ∧ (ch.openFloat c).overlap = true := by
  unfold Channel.openFloat
  simp only
  refine ⟨?_, Channel.apply_off (.inr rfl), ?_, ?_, ?_⟩
  all_goals
    have h := Channel.apply_spec c { ch with
      mode := .float, overlap := true, cbcMark := if ch.periodCbc then false else ch.cbcMark, periodCbc := false,
      sum := ch.sum - ch.periodSample.getD 0, count := if ch.periodSample.isSome then ch.count - 1 else ch.count,
      periodSample := none }
    simp_all [channelCore]

@[simp] theorem State.chan_onChans (s : State) (f : Channel → Channel) (m : Motor) : (s.onChans f).chan m = f (s.chan m) := by
  cases m <;> rfl

@[simp] theorem State.chan_onChan (s : State) (m : Motor) (f : Channel → Channel) : (s.onChan m f).chan m = f (s.chan m) := by
  cases m <;> rfl

end Sys2Proof.Machine
end

