-- ==== Sys2Proof/Laws/Traction.lean ====
section
/-!
SUPPORT. What the shared operations of the speed regulator can do (R12, R49, R57, R59, R60, R79): each touches SRG, BFU, CHK and the
notices alone, unless it ends STOPPING.
-/
namespace Sys2Proof.Machine

/-- The second state differs from the first in SRG, BFU, CHK and the notice latch alone. -/
def driveOnly (s t : State) : Prop :=
  t = { s with srg := t.srg, bfu := t.bfu, chk := t.chk, exc := { s.exc with nlat := t.exc.nlat } }

theorem driveOnly.refl (s : State) : driveOnly s s := rfl

theorem driveOnly.trans {s t u : State} (h : driveOnly s t) (h' : driveOnly t u) : driveOnly s u := by
  unfold driveOnly at *
  rw [h'] at *
  rw [h]

theorem driveOnly.fields {s t : State} (h : driveOnly s t) :
    t.port = s.port ∧ t.drq = s.drq ∧ t.snd = s.snd ∧ t.smk = s.smk ∧ t.lgt = s.lgt ∧ t.rrx = s.rrx ∧ t.sup = s.sup ∧ t.mem = s.mem
    ∧ t.cfg = s.cfg ∧ t.exc = { s.exc with nlat := t.exc.nlat } := by
  unfold driveOnly at h
  rw [h]
  exact ⟨rfl, rfl, rfl, rfl, rfl, rfl, rfl, rfl, rfl, rfl⟩

theorem State.latch_driveOnly (s : State) (k : Notice) : driveOnly s (s.latch k) := rfl

theorem State.onChans_driveOnly (s : State) (f : Channel → Channel) : driveOnly s (s.onChans f) := rfl

theorem State.followModes_driveOnly (s : State) : driveOnly s s.followModes := by
  unfold State.followModes
  split <;> rfl

theorem State.zeroDuty_driveOnly (s : State) : driveOnly s s.zeroDuty := rfl

theorem State.stopTurn_driveOnly (s : State) : driveOnly s s.stopTurn := rfl

theorem State.limitDuty_driveOnly (s : State) : driveOnly s s.limitDuty := rfl

/-- SLIPPING ended by another event than its run count (R83) lowers each duty to the limit at once (R51); in NORMAL it clears the run count
alone. -/
theorem State.stopSlip_cases (s : State) :
    (s.stopSlip = s.endSlip ∧ s.bfu.slip ≠ .slipping) ∨ (s.stopSlip = s.endSlip.limitDuty ∧ s.bfu.slip = .slipping) := by
  unfold State.stopSlip
  split
  · rename_i h; exact .inr ⟨rfl, h⟩
  · rename_i h; exact .inl ⟨rfl, h⟩

theorem State.stopSlip_driveOnly (s : State) : driveOnly s s.stopSlip := by
  unfold State.stopSlip
  split <;> rfl

/-- Where slip is over, the duty limit is the base limit of the supply (R51). -/
theorem State.dutyLimit_endSlip (s : State) (c : Traction) (m : Motor) : s.endSlip.dutyLimit c m = s.baseLimit c := by
  unfold State.dutyLimit
  rw [if_neg (by simp [State.endSlip])]
  rfl

theorem State.toStanding_driveOnly (s : State) : driveOnly s s.toStanding :=
  have h : driveOnly s (({ s with srg := { s.srg with traction := .standing } }.zeroDuty).chuffStanding.endSlip) := rfl
  h.trans (State.followModes_driveOnly _)

theorem State.tractionTripped_driveOnly (s : State) : driveOnly s s.tractionTripped := rfl

theorem State.clearTrip_driveOnly (s : State) : driveOnly s s.clearTrip := rfl

theorem State.brakeEntry_driveOnly (s : State) : driveOnly s s.brakeEntry := by
  unfold State.brakeEntry
  split
  · have h : driveOnly s { s with srg := { s.srg with traction := .eBrake } } := rfl
    exact h.trans (State.followModes_driveOnly _)
  · have h : driveOnly s { s with srg := { s.srg with traction := .eBrake } } := rfl
    exact h.trans (State.followModes_driveOnly _)
  · have h : driveOnly s ({ s with srg := { s.srg with traction := .eBrake } } : State).stopTurn := rfl
    exact h.trans (State.followModes_driveOnly _)
  · rfl

/-- An e-stop leaves E_HELD and TRIPPED as they are, and makes every other state E_BRAKE (R57). -/
theorem State.brakeEntry_traction (s : State) :
    s.brakeEntry.srg.traction = if s.srg.traction = .eHeld ∨ s.srg.traction = .tripped then s.srg.traction else .eBrake := by
  unfold State.brakeEntry State.followModes
  cases h : s.srg.traction <;> simp only [reduceCtorEq, or_false, if_true, if_false, or_true, h] <;> split <;> rfl

/-- A report of the traction state either ends STOPPING in HALTED or changes nothing (R12, R62). -/
theorem State.endStopping_cases (s : State) :
    (s.endStopping = s ∧ ¬ (s.exc.part = .stopping ∧ (s.srg.traction.ends = true ∨ s.sup.state = .dark)))
    ∨ (s.endStopping = s.enterHalted ∧ s.exc.part = .stopping ∧ (s.srg.traction.ends = true ∨ s.sup.state = .dark)) := by
  unfold State.endStopping
  split
  · rename_i h; exact .inr ⟨rfl, h⟩
  · rename_i h; exact .inl ⟨rfl, h⟩

theorem State.endStopping_other {s : State} (h : s.exc.part ≠ .stopping) : s.endStopping = s := by
  unfold State.endStopping
  rw [if_neg (fun q => h q.1)]

theorem driveOnly.part {s t : State} (h : driveOnly s t) : t.exc.part = s.exc.part := by
  rw [h.fields.2.2.2.2.2.2.2.2.2]

theorem State.tripNow_driveOnly {s : State} (r : TripReason) (h : s.exc.part ≠ .stopping) : driveOnly s (s.tripNow r) := by
  unfold State.tripNow
  split
  · rw [State.endStopping_other]
    · exact State.tractionTripped_driveOnly _
    · exact h
  · rfl

theorem State.checkDriver_driveOnly {s : State} (h : s.exc.part ≠ .stopping) : driveOnly s s.checkDriver := by
  unfold State.checkDriver
  split
  · exact State.tripNow_driveOnly _ h
  · rfl

/-- Outside STOPPING a latch clear touches the drive alone (R59, R80). -/
theorem State.latchClear_driveOnly {s : State} (h : s.exc.part ≠ .stopping) : driveOnly s s.latchClear := by
  unfold State.latchClear
  split
  · have h1 : driveOnly s ({ s with srg := { s.srg with brakeOrder := false } } : State).toStanding :=
      State.toStanding_driveOnly { s with srg := { s.srg with brakeOrder := false } }
    rw [State.endStopping_other (by rw [h1.part]; exact h)]
    exact h1
  · have h1 : driveOnly s s.clearTrip.toStanding := (State.clearTrip_driveOnly s).trans (State.toStanding_driveOnly _)
    rw [State.endStopping_other (by rw [h1.part]; exact h)]
    exact h1.trans (State.checkDriver_driveOnly (by rw [h1.part]; exact h))
  · rfl

/-- Outside E_HELD and TRIPPED a latch clear has no effect (R59). -/
theorem State.latchClear_other {s : State} (h : s.srg.traction ≠ .eHeld) (h' : s.srg.traction ≠ .tripped) : s.latchClear = s := by
  unfold State.latchClear
  split
  · rename_i q; exact absurd q h
  · rename_i q; exact absurd q h'
  · rfl

theorem State.zeroRequest_driveOnly {s : State} (h : s.exc.part ≠ .stopping) : driveOnly s s.zeroRequest := by
  unfold State.zeroRequest
  split
  · exact State.latchClear_driveOnly h
  · rfl

/-- What a request does (R25, R28, R29, R34): DRQ's record, and the drive where it clears a latch. -/
theorem State.request_spec {s : State} (src : Source) (o : Origin) (d : Nat) (h : s.exc.part ≠ .stopping) :
    driveOnly { s with drq := { s.drq with
      source := src, origin := o, dir := directionOf d s.drq.dir, s := deriveS s.cfg.curve o s.drq.shunt } } (s.request src o d) :=
  State.zeroRequest_driveOnly (s := { s with drq := { s.drq with source := src, origin := o, dir := directionOf d s.drq.dir } }.derive) h

/-- What an e-stop does (R33, R57): the request is zeroed, ESTOP is latched, and the drive brakes. -/
theorem State.eStop_spec (s : State) :
    driveOnly { s with drq := { s.drq with origin := .speedUnits 0, s := 0 } } s.eStop :=
  (State.brakeEntry_driveOnly s.stopOrder).trans (State.latch_driveOnly _ _)

end Sys2Proof.Machine
end

