-- ==== Sys2Proof/Laws/Requests.lean ====
section
/-!
SUPPORT. What an e-stop and a zero request make of a state (R33, R34, R57, R59, R80), in the terms of Safety.lean: the statements about
the drive slot, the AT_CHUFF take and the radio frames cite these in place of the operations' definitions.
-/
namespace Sys2Proof.Machine

/-- A change of mode keeps a channel's duties, its direction and its CBC mark (R68). -/
theorem Channel.enter_kept (c : Traction) (m : Mode) (ch : Channel) :
    (ch.enter c m).duty = ch.duty ∧ (ch.enter c m).raised = ch.raised ∧ (ch.enter c m).dir = ch.dir
    ∧ (ch.enter c m).mode = m ∧ (ch.enter c m).cbcMark = ch.cbcMark := by
  unfold Channel.enter
  split
  · rename_i h; exact ⟨rfl, rfl, rfl, h, rfl⟩
  · unfold Channel.apply; cases ch.dir <;> simp

theorem Channel.follow_kept (c : Traction) (m : Mode) (ch : Channel) :
    (ch.follow c m).duty = ch.duty ∧ (ch.follow c m).raised = ch.raised ∧ (ch.follow c m).dir = ch.dir
    ∧ (ch.follow c m).mode = (if m = .drive then ch.mode else m) ∧ (ch.follow c m).cbcMark = ch.cbcMark := by
  unfold Channel.follow
  split
  · exact ⟨rfl, rfl, rfl, rfl, rfl⟩
  · exact Channel.enter_kept c m ch

/-- What following the modes does: nothing within a float window, and otherwise each channel follows its own mode (R68, R73). -/
theorem State.followModes_chan (s : State) (m : Motor) :
    s.followModes.chan m = if s.bfu.window.isSome then s.chan m else (s.chan m).follow s.cfg.traction (s.modeOf m) := by
  unfold State.followModes
  split
  · rfl
  · cases m <;> rfl

theorem State.followModes_kept (s : State) : s.followModes = { s with bfu := { s.bfu with chans := s.followModes.bfu.chans } } := by
  unfold State.followModes
  split <;> rfl

theorem State.followModes_fields (s : State) (m : Motor) :
    (s.followModes.chan m).duty = (s.chan m).duty ∧ (s.followModes.chan m).raised = (s.chan m).raised
    ∧ (s.followModes.chan m).dir = (s.chan m).dir ∧ (s.followModes.chan m).cbcMark = (s.chan m).cbcMark := by
  rw [State.followModes_chan]
  split
  · exact ⟨rfl, rfl, rfl, rfl⟩
  · have h := Channel.follow_kept s.cfg.traction (s.modeOf m) (s.chan m)
    exact ⟨h.1, h.2.1, h.2.2.1, h.2.2.2.2⟩

/-- In E_BRAKE a present motor's mode is kept outside a float window too, for DRIVE is entered at a period start (R68). -/
theorem State.followModes_braking {s : State} {m : Motor} (h : s.srg.traction = .eBrake) (hd : s.exc.part.driving = true)
    (ht : s.bfu.trip = .none) (hp : s.cfg.traction.present m = true) : (s.followModes.chan m).mode = (s.chan m).mode := by
  have hm : s.modeOf m = .drive := by simp [State.modeOf, h, hd, ht, hp]
  rw [State.followModes_chan]
  split
  · rfl
  · rw [hm]; exact (Channel.follow_kept _ _ _).2.2.2.1

/-- Where an e-stop makes E_BRAKE, R and the channels' duties, directions and modes stay (R57). -/
theorem State.eStop_braked {s u : State} (h : s.eStop = u.followModes.latch .estop) (hu : u = { s.stopOrder with srg := u.srg })
    (hb : u.srg.traction = .eBrake) :
    s.eStop = { s with
      drq := { s.drq with origin := .speedUnits 0, s := 0 }, exc := { s.exc with nlat := s.exc.nlat ||| 0x100 },
      srg := u.srg, bfu := s.eStop.bfu }
    ∧ s.eStop.bfu = { s.bfu with chans := s.eStop.bfu.chans }
    ∧ ∀ m, (s.eStop.chan m).duty = (s.chan m).duty ∧ (s.eStop.chan m).raised = (s.chan m).raised
      ∧ (s.eStop.chan m).dir = (s.chan m).dir
      ∧ (s.exc.part.driving = true → s.bfu.trip = .none → s.cfg.traction.present m = true →
          (s.eStop.chan m).mode = (s.chan m).mode) := by
  have hbfu : u.bfu = s.bfu := by rw [hu]; rfl
  have hexc : u.exc = s.exc := by rw [hu]; rfl
  have hcfg : u.cfg = s.cfg := by rw [hu]; rfl
  have hk := State.followModes_kept u
  have hc : ∀ m, s.eStop.chan m = u.followModes.chan m := fun m => by rw [h]; rfl
  have hs : ∀ m, u.chan m = s.chan m := fun m => by unfold State.chan; rw [hbfu]
  have hb2 : s.eStop.bfu = u.followModes.bfu := by rw [h]; rfl
  refine ⟨?_, ?_, fun m => ?_⟩
  · rw [hb2, h, hk]; rw [hu]; rfl
  · rw [hb2, ← hbfu]; exact congrArg State.bfu hk
  · have f := State.followModes_fields u m
    rw [hs] at f
    rw [hc]
    exact ⟨f.1, f.2.1, f.2.2.1, fun hd ht hp => by
      rw [State.followModes_braking hb (by rw [hexc]; exact hd) (by rw [hbfu]; exact ht) (by rw [hcfg]; exact hp), hs]⟩

/-- What an e-stop makes of any state (R33, R57). -/
theorem State.eStop_taken (s : State) : EmergencyTaken s s.eStop := by
  have stays (h : s.eStop = s.stopOrder.latch .estop) (hq : s.srg.traction = .eBrake ∨ s.srg.traction = .eHeld ∨ s.srg.traction = .tripped) :
      EmergencyTaken s s.eStop := by
    rw [h]
    constructor
    · rfl
    · intro q; rcases hq with x | x | x <;> simp [x] at q
    · intro q; rcases hq with x | x | x <;> simp [x] at q
    · exact fun _ => ⟨rfl, rfl⟩
    · exact ⟨rfl, fun _ => ⟨rfl, rfl, rfl, fun _ _ _ => rfl⟩⟩
  cases hq : s.srg.traction with
  | standing =>
    obtain ⟨a, b, c⟩ := State.eStop_braked (s := s) (u := { s.stopOrder with srg := { s.srg with traction := .eBrake } })
      (by unfold State.eStop State.brakeEntry; rw [show s.stopOrder.srg.traction = .standing from hq]; rfl) rfl rfl
    exact ⟨by rw [a], fun _ => by rw [a], fun q => by simp [hq] at q, fun q => by simp [hq] at q, b, c⟩
  | moving =>
    obtain ⟨a, b, c⟩ := State.eStop_braked (s := s) (u := { s.stopOrder with srg := { s.srg with traction := .eBrake } })
      (by unfold State.eStop State.brakeEntry; rw [show s.stopOrder.srg.traction = .moving from hq]; rfl) rfl rfl
    exact ⟨by rw [a], fun _ => by rw [a], fun q => by simp [hq] at q, fun q => by simp [hq] at q, b, c⟩
  | turning =>
    obtain ⟨a, b, c⟩ := State.eStop_braked (s := s)
      (u := { s.stopOrder with srg := { s.srg with traction := .eBrake, turnTimer := none, turnMark := false } })
      (by unfold State.eStop State.brakeEntry; rw [show s.stopOrder.srg.traction = .turning from hq]; rfl) rfl rfl
    exact ⟨by rw [a], fun q => by simp [hq] at q, fun _ => by rw [a], fun q => by simp [hq] at q, b, c⟩
  | eBrake =>
    exact stays (by unfold State.eStop State.brakeEntry; rw [show s.stopOrder.srg.traction = .eBrake from hq]) (by simp [hq])
  | eHeld =>
    exact stays (by unfold State.eStop State.brakeEntry; rw [show s.stopOrder.srg.traction = .eHeld from hq]) (by simp [hq])
  | tripped =>
    exact stays (by unfold State.eStop State.brakeEntry; rw [show s.stopOrder.srg.traction = .tripped from hq]) (by simp [hq])

/-! ### Latch clears -/

/-- A duty of 0 is applied at once in every mode (R71). -/
theorem Channel.hand_zero (c : Traction) (ch : Channel) :
    (ch.hand c 0).duty = 0 ∧ (ch.hand c 0).raised = none ∧ (ch.hand c 0).dir = ch.dir ∧ (ch.hand c 0).cbcMark = ch.cbcMark
    ∧ (ch.hand c 0).persist = ch.persist := by
  unfold Channel.hand
  split
  · exact ⟨rfl, rfl, rfl, rfl, rfl⟩
  split
  · rename_i h; exact ⟨h, rfl, rfl, rfl, rfl⟩
  split
  · rename_i h; exact absurd h (Nat.not_lt_zero _)
  · unfold Channel.apply; cases ch.dir <;> simp

/-- Following OFF leaves no persistence count behind that was not there (R76). -/
theorem Channel.follow_off_persist (c : Traction) (ch : Channel) (h : ch.persist = 0) : (ch.follow c .off).persist = 0 := by
  unfold Channel.follow Channel.enter
  rw [if_neg (by decide)]
  split
  · exact h
  · unfold Channel.apply; cases ch.dir <;> simp

/-- What an entry to STANDING makes of any state (R49, R83, R92). -/
theorem State.toStanding_spec (s : State) :
    s.toStanding.srg = { s.srg with traction := .standing, motors := s.srg.motors.map SrgMotor.rest }
    ∧ s.toStanding.chk = { s.chk with acc := 65535, next := 0, first := true }
    ∧ s.toStanding.bfu = { s.bfu with chans := s.toStanding.bfu.chans, slip := .normal, slipRun := 0, faster := none }
    ∧ s.toStanding.exc = s.exc
    ∧ ∀ m, (s.toStanding.chan m).duty = 0 ∧ (s.toStanding.chan m).raised = none ∧ (s.toStanding.chan m).dir = (s.chan m).dir
      ∧ (s.toStanding.chan m).cbcMark = (s.chan m).cbcMark
      ∧ (s.bfu.window = none → (s.toStanding.chan m).mode = .off)
      ∧ ((s.chan m).persist = 0 → (s.toStanding.chan m).persist = 0) := by
  have hk := State.followModes_kept ({ s with srg := { s.srg with traction := .standing } } : State).zeroDuty.chuffStanding.endSlip
  have hd : s.toStanding = ({ s with srg := { s.srg with traction := .standing } } : State).zeroDuty.chuffStanding.endSlip.followModes :=
    rfl
  refine ⟨by rw [hd, hk]; rfl, by rw [hd, hk]; rfl, by rw [hd, hk]; rfl, by rw [hd, hk]; rfl, fun m => ?_⟩
  have hc : ({ s with srg := { s.srg with traction := .standing } } : State).zeroDuty.chuffStanding.endSlip.chan m
      = (s.chan m).hand s.cfg.traction 0 := by cases m <;> rfl
  have hz := Channel.hand_zero s.cfg.traction (s.chan m)
  have hm : ({ s with srg := { s.srg with traction := .standing } } : State).zeroDuty.chuffStanding.endSlip.modeOf m = .off := by
    unfold State.modeOf
    split
    · rfl
    split
    · rfl
    split <;> rfl
  have f := State.followModes_fields ({ s with srg := { s.srg with traction := .standing } } : State).zeroDuty.chuffStanding.endSlip m
  rw [hc] at f
  rw [hd]
  refine ⟨f.1.trans hz.1, f.2.1.trans hz.2.1, f.2.2.1.trans hz.2.2.1, f.2.2.2.trans hz.2.2.2.1, fun hw => ?_, fun hp => ?_⟩
  · rw [State.followModes_chan, hm, if_neg (by show ¬ s.bfu.window.isSome = true; rw [hw]; decide)]
    exact (Channel.follow_kept _ _ _).2.2.2.1
  · rw [State.followModes_chan, hm, hc]
    split
    · exact hz.2.2.2.2.trans hp
    · exact Channel.follow_off_persist _ _ (hz.2.2.2.2.trans hp)

/-- A channel at a trip that is then handed duty 0 (R60, R79): OFF, with no switch conducting. -/
theorem Channel.tripped_hand (c : Traction) (ch : Channel) :
    let x := (ch.tripped c).hand c 0
    x.duty = 0 ∧ x.raised = none ∧ x.dir = ch.dir ∧ x.persist = 0 ∧ x.cbcMark = false ∧ x.mode = .off ∧ x.avg = 0
    ∧ x.leg1.high = false ∧ x.leg1.low = false ∧ x.leg2.high = false ∧ x.leg2.low = false := by
  have h : (ch.tripped c).mode = .off := by unfold Channel.tripped Channel.apply; cases ch.dir <;> rfl
  unfold Channel.hand
  rw [if_pos (by rw [h]; decide)]
  unfold Channel.tripped Channel.apply
  cases hd : ch.dir <;> simp [wanted, Leg.bring]

/-- What a trip makes of a state outside STOPPING with no trip reason (R60, R79). -/
theorem State.tripNow_spec {s : State} (r : TripReason) (hp : s.exc.part ≠ .stopping) (ht : s.bfu.trip = .none) :
    (s.tripNow r).srg = { s.srg with
      traction := .tripped, r := 0, brakeOrder := false, turnTimer := none, turnMark := false,
      motors := s.srg.motors.map SrgMotor.rest }
    ∧ (s.tripNow r).chk = s.chk
    ∧ (s.tripNow r).bfu = { s.bfu with chans := (s.tripNow r).bfu.chans, trip := r, slip := .normal, slipRun := 0, faster := none }
    ∧ (s.tripNow r).exc.nlat = s.exc.nlat ||| 0x80
    ∧ ∀ m, (s.tripNow r).chan m = ((s.chan m).tripped s.cfg.traction).hand s.cfg.traction 0 := by
  let s1 := s.onChans (Channel.tripped s.cfg.traction)
  have e : s.tripNow r = ({ s1 with bfu := { s1.bfu with trip := r } }.latch .trip).tractionTripped := by
    unfold State.tripNow
    rw [if_pos ht]
    exact State.endStopping_other hp
  rw [e]
  exact ⟨rfl, rfl, rfl, rfl, fun m => by cases m <;> rfl⟩

theorem SrgMotor.map_rest_get (p : PerMotor SrgMotor) (m : Motor) :
    (p.map SrgMotor.rest).get m = { p.get m with i := 0, sat := .zero, d := 0 } := by cases m <;> rfl

/-- What a latch clear in RUNNING makes of E_HELD and TRIPPED (R59, R80). -/
theorem State.latchClear_cleared {s : State} (hr : s.exc.part = .running)
    (hl : s.srg.traction = .eHeld ∨ s.srg.traction = .tripped) : LatchCleared s s.latchClear := by
  have hns : s.exc.part ≠ .stopping := by rw [hr]; decide
  have only := State.latchClear_driveOnly hns
  rcases hl with h | h
  · obtain ⟨a, b, c, d, e⟩ := State.toStanding_spec { s with srg := { s.srg with brakeOrder := false } }
    have hx : s.latchClear = ({ s with srg := { s.srg with brakeOrder := false } } : State).toStanding := by
      unfold State.latchClear
      rw [h]
      exact State.endStopping_other (by rw [d]; exact hns)
    rw [hx] at only ⊢
    refine ⟨only, b, fun m => ⟨by rw [a]; exact SrgMotor.map_rest_get _ m, (e m).1, (e m).2.1, (e m).2.2.1⟩,
      by rw [c]; exact ⟨rfl, rfl, rfl⟩, by rw [c]; exact ⟨rfl, rfl⟩, fun _ => ⟨by rw [a], by rw [c], by rw [d], fun hw m => (e m).2.2.2.2.1 hw⟩,
      fun q => ?_, fun q => ?_⟩
    · rw [h] at q; cases q
    · rw [h] at q; cases q
  · obtain ⟨a, b, c, d, e⟩ := State.toStanding_spec s.clearTrip
    have hu : s.clearTrip.toStanding.exc.part ≠ .stopping := by rw [d]; exact hns
    have hch : ∀ m, (s.clearTrip.chan m).persist = 0 ∧ (s.clearTrip.chan m).cbcMark = false ∧ (s.clearTrip.chan m).dir = (s.chan m).dir :=
      fun m => by cases m <;> exact ⟨rfl, rfl, rfl⟩
    have hcfg : s.clearTrip.toStanding.cfg = s.cfg := (State.toStanding_driveOnly s.clearTrip).fields.2.2.2.2.2.2.2.2.1
    have hx : s.latchClear = s.clearTrip.toStanding.checkDriver := by
      unfold State.latchClear
      rw [h]
      show State.checkDriver _ = _
      rw [State.endStopping_other hu]
    have ht : s.clearTrip.toStanding.bfu.trip = .none := by rw [c]; rfl
    have hdr : s.clearTrip.toStanding.bfu.drvflt = s.bfu.drvflt := by rw [c]; rfl
    by_cases hf : s.bfu.drvflt = some s.cfg.traction.polarity
    · have hy : s.latchClear = s.clearTrip.toStanding.tripNow .driver := by
        rw [hx]; unfold State.checkDriver
        rw [if_pos ⟨by simp [State.drvfltActive, hdr, hcfg, hf], by rw [d]; show s.exc.part.driving = true; rw [hr]; rfl, ht⟩]
      obtain ⟨a', b', c', d', e'⟩ := State.tripNow_spec .driver hu ht
      rw [hy] at only ⊢
      have k := fun m => Channel.tripped_hand s.clearTrip.toStanding.cfg.traction (s.clearTrip.toStanding.chan m)
      refine ⟨only, b'.trans b, fun m => ⟨?_, ?_, ?_, ?_⟩, by rw [c']; exact ⟨rfl, rfl, rfl⟩, ?_, fun q => ?_, fun _ q => absurd hf q,
        fun _ _ => ⟨?_, by rw [c'], ?_, fun m => ?_⟩⟩
      · rw [a', a]; cases m <;> rfl
      · rw [e']; exact (k m).1
      · rw [e']; exact (k m).2.1
      · rw [e']; exact (k m).2.2.1.trans ((e m).2.2.1.trans (hch m).2.2)
      · rw [c', c]; exact ⟨rfl, rfl⟩
      · rw [h] at q; cases q
      · rw [a', a]; rfl
      · rw [d', d]; rfl
      · rw [e']; exact (k m).2.2.2
    · have hy : s.latchClear = s.clearTrip.toStanding := by
        rw [hx]; unfold State.checkDriver
        rw [if_neg]
        intro q
        apply hf
        have q1 := q.1
        simp only [State.drvfltActive, hdr, hcfg, beq_iff_eq] at q1
        exact q1
      rw [hy] at only ⊢
      refine ⟨only, b, fun m => ⟨by rw [a]; exact SrgMotor.map_rest_get _ m, (e m).1, (e m).2.1, (e m).2.2.1.trans (hch m).2.2⟩,
        by rw [c]; exact ⟨rfl, rfl, rfl⟩, by rw [c]; exact ⟨rfl, rfl⟩, fun q => ?_,
        fun _ _ => ⟨by rw [a]; rfl, by rw [c]; rfl, by rw [d]; rfl, fun m => ⟨(e m).2.2.2.2.2 (hch m).1, (e m).2.2.2.1.trans (hch m).2.1⟩,
          fun hw m => (e m).2.2.2.2.1 hw⟩, fun _ q => absurd q hf⟩
      rw [h] at q; cases q

/-- What applying a request already stored makes of a state in RUNNING (R34, R59, R80). -/
theorem State.zeroRequest_taken {s : State} (hr : s.exc.part = .running) : RequestTaken s s.zeroRequest := by
  unfold State.zeroRequest
  refine ⟨fun h => ?_, fun hl hz => ?_⟩
  · split
    · rename_i hz
      rcases h with h | h
      · exact State.latchClear_other h.1 h.2
      · exact absurd hz h
    · rfl
  · rw [if_pos hz]
    exact State.latchClear_cleared hr hl

end Sys2Proof.Machine
end

