-- ==== Sys2Proof/Laws/Smoke.lean ====
section
/-!
SUPPORT. What an evaluation of the smoke state can do (R136).
-/
namespace Sys2Proof.Machine

/-- The smoke state and the target are those of the first row of R136 that holds. -/
theorem State.smokeRank_spec (s : State) : SmokeRanked s s.smokeRank.1 s.smokeRank.2 := by
  constructor
  case enabled =>
    intro h1 h2 h3 h4 h5
    refine ⟨?_, ?_, ?_, ?_⟩ <;> intro h6 h7
    case refine_4 => simp [State.smokeRank, Int.not_le.mpr h7, *]
    all_goals simp [State.smokeRank, *]
  all_goals intros; simp [State.smokeRank, *]

/-- An evaluation leaves the state and the target that the rank gives (R136). -/
theorem Smk.change_target (idle : Nat) (x : SmokeState) (target : SmokeTarget) (k : Smk) :
    (k.change idle x target).state = x ∧ (k.change idle x target).target = target := by
  unfold Smk.change
  repeat' split
  all_goals simp_all

/-- All that an evaluation of the smoke state can do (R136). -/
theorem State.evalSmoke_spec (s : State) : SmokeEvaluated s s.evalSmoke := by
  obtain ⟨hx, ht⟩ := Smk.change_target s.cfg.smoke.idle s.smokeRank.1 s.smokeRank.2 s.smk
  refine ⟨?_, rfl, ?_, ?_, ?_, ?_⟩ <;> simp only [State.evalSmoke] <;> rw [hx] <;> try rw [ht]
  · exact s.smokeRank_spec
  · intro h h'
    rw [Smk.change, if_pos (by rw [h]; exact fun e => h' e.symm), if_pos h, h]
  · intro h h'
    rw [Smk.change, if_pos (fun e => h' e.symm), if_neg h]
  · intro h h'
    rw [Smk.change, if_neg (by simp [h]), if_pos (fun e => h' e.symm)]
  · intro h h'
    rw [Smk.change, if_neg (by simp [h]), if_neg (by simp [h'])]

end Sys2Proof.Machine
end

