-- ==== Sys2Proof/Laws/Sound.lean ====
section
/-!
SUPPORT. What the shared operations of the sound engine can do (R101, R108 to R111, R115), and what an entry to HALTED leaves (R13).
-/
namespace Sys2Proof.Machine

/-- The second state differs from the first in SND, the notice latch and the outcome a waiting scan keeps alone. -/
def soundOnly (s t : State) : Prop :=
  t = { s with snd := t.snd, exc := { s.exc with nlat := t.exc.nlat, scan := t.exc.scan } }

theorem soundOnly.refl (s : State) : soundOnly s s := rfl

theorem soundOnly.trans {s t u : State} (h : soundOnly s t) (h' : soundOnly t u) : soundOnly s u := by
  unfold soundOnly at *
  rw [h'] at *
  rw [h]

theorem soundOnly.fields {s t : State} (h : soundOnly s t) :
    t.port = s.port ∧ t.drq = s.drq ∧ t.srg = s.srg ∧ t.bfu = s.bfu ∧ t.chk = s.chk ∧ t.smk = s.smk ∧ t.lgt = s.lgt ∧ t.rrx = s.rrx
    ∧ t.sup = s.sup ∧ t.mem = s.mem ∧ t.cfg = s.cfg ∧ t.exc = { s.exc with nlat := t.exc.nlat, scan := t.exc.scan } := by
  unfold soundOnly at h
  rw [h]
  exact ⟨rfl, rfl, rfl, rfl, rfl, rfl, rfl, rfl, rfl, rfl, rfl, rfl⟩

theorem soundOnly.withSnd {s t : State} (h : soundOnly s t) (x : Snd) : soundOnly s { t with snd := x } :=
  have h' : soundOnly t { t with snd := x } := rfl
  h.trans h'

theorem State.handBack_soundOnly (s : State) (a : Requester) (o : StartOutcome) : soundOnly s (s.handBack a o) := by
  unfold State.handBack
  split
  · rfl
  · split <;> rfl
  · rfl

/-- An outcome handed back to a key, a chuff or the background is not reported (R123, R125). -/
theorem State.handBack_other {s : State} {a : Requester} (o : StartOutcome) (h : a ≠ .playCue) (h' : a ≠ .squeal) :
    s.handBack a o = s := by
  cases a <;> simp_all [State.handBack]

theorem State.handBackAll_soundOnly (o : StartOutcome) (q : List StartReq) (s : State) : soundOnly s (State.handBackAll o q s) := by
  induction q generalizing s with
  | nil => rfl
  | cons r rest ih => exact (State.handBack_soundOnly s r.asker o).trans (ih _)

theorem State.requestStart_soundOnly (s : State) (r : StartReq) : soundOnly s (s.requestStart r) := by
  unfold State.requestStart
  split
  · exact State.handBack_soundOnly _ _ _
  · rfl

/-- With a place free a start request joins the end of the start queue, and nothing else changes (R101). -/
theorem State.requestStart_room {s : State} (r : StartReq) (h : s.snd.queue.length < 32) :
    s.requestStart r = { s with snd := { s.snd with queue := s.snd.queue ++ [r] } } := by
  unfold State.requestStart
  rw [if_neg (by omega)]

theorem State.recordEnd_soundOnly (s : State) (tag : Half) (reason : EndReason) (v : Fin 8) :
    soundOnly s (s.recordEnd tag reason v) := by
  unfold State.recordEnd
  split <;> rfl

theorem State.endVoice_soundOnly (s : State) (v : Fin 8) (reason : EndReason) : soundOnly s (s.endVoice v reason) := by
  unfold State.endVoice
  simp only
  split
  · exact (State.recordEnd_soundOnly s _ reason v).trans rfl
  · rfl

/-- A voice that is not active is left as it is (R110). -/
theorem State.endVoice_free {s : State} {v : Fin 8} (reason : EndReason) (h : (s.voice v).active = false) : s.endVoice v reason = s := by
  simp [State.endVoice, h]

/-- The end of an active voice: its end record, and the squeal's answer (R110, R111, R130). -/
theorem State.endVoice_ended {s : State} {v : Fin 8} (reason : EndReason) (h : (s.voice v).active = true) :
    VoiceEnded s (s.endVoice v reason) v reason ∧ (s.endVoice v reason).snd.voices = s.snd.voices.set v {}
    ∧ (s.endVoice v reason).snd.order = s.snd.order.erase v := by
  unfold State.endVoice
  rw [if_pos h]
  by_cases ht : (s.voice v).tag = 0
  · have e : s.recordEnd (s.voice v).tag reason v = s := by rw [State.recordEnd, if_pos ht]
    rw [e]
    exact ⟨⟨fun _ => ⟨rfl, rfl, rfl⟩, fun h' => absurd ht h', rfl⟩, rfl, rfl⟩
  · have e : s.recordEnd (s.voice v).tag reason v = s.endRecord ⟨(s.voice v).tag, reason, v.val⟩ := by
      rw [State.recordEnd, if_neg ht]
    rw [e]
    exact ⟨⟨fun h' => absurd h' ht, fun _ => ⟨rfl, rfl, rfl⟩, rfl⟩, rfl, rfl⟩

theorem State.endVoices_soundOnly (reason : EndReason) (l : List (Fin 8)) (s : State) : soundOnly s (State.endVoices reason l s) := by
  induction l generalizing s with
  | nil => rfl
  | cons v rest ih => exact (State.endVoice_soundOnly s v reason).trans (ih _)

theorem State.shedVoices_soundOnly (s : State) : soundOnly s s.shedVoices := by
  unfold State.shedVoices
  exact ((State.endVoices_soundOnly .shed octetIndices s).withSnd _).trans (State.handBackAll_soundOnly _ _ _)

theorem State.releaseTag_soundOnly (s : State) (tag : Half) : soundOnly s (s.releaseTag tag) := by
  unfold State.releaseTag
  split
  · rfl
  · simp only
    split
    · split <;> rfl
    · rfl

theorem State.cutTag_soundOnly (s : State) (tag : Half) : soundOnly s (s.cutTag tag) := by
  unfold State.cutTag
  split
  · rfl
  · simp only
    have h0 : soundOnly s { s with snd := { s.snd with queue := s.snd.queue.filter fun r => r.tag != tag } } := rfl
    refine soundOnly.trans ?_ (State.handBackAll_soundOnly _ _ _)
    split
    · exact h0.trans (State.endVoice_soundOnly _ _ _)
    · exact h0

theorem State.keyStart_soundOnly (s : State) (k : Nat) : soundOnly s (s.keyStart k) := by
  unfold State.keyStart
  split
  · rfl
  · exact State.requestStart_soundOnly _ _

theorem State.keyEnd_soundOnly (s : State) (k : Nat) : soundOnly s (s.keyEnd k) := by
  unfold State.keyEnd
  split
  · exact State.releaseTag_soundOnly _ _
  · rfl

theorem State.requestBackground_soundOnly (s : State) : soundOnly s s.requestBackground := by
  unfold State.requestBackground
  split
  · rfl
  · exact State.requestStart_soundOnly _ _

/-- SRG's share of an entry to HALTED (R62). -/
theorem State.haltTraction_driveOnly (s : State) : driveOnly s s.haltTraction := by
  have h : driveOnly s ({ s with srg := { s.srg with tick := none, regTimer := false, r := 0, brakeOrder := false } } : State).stopTurn.zeroDuty := rfl
  unfold State.haltTraction
  split
  · exact h.trans (State.toStanding_driveOnly _)
  · exact h.trans (State.toStanding_driveOnly _)
  · exact h.trans (State.toStanding_driveOnly _)
  · exact h

/-- SND's share of an entry to HALTED (R115, R129). -/
theorem State.haltSound_soundOnly (s : State) : soundOnly s s.haltSound :=
  (State.shedVoices_soundOnly s).withSnd _

theorem State.haltBridge_driveOnly (s : State) : driveOnly s s.haltBridge := rfl

theorem State.haltChuff_driveOnly (s : State) : driveOnly s s.haltChuff := rfl

/-- The part's share of an entry to HALTED before SND's: the part state with its mirror, SRG, BFU and CHK. -/
theorem State.haltDrive_spec (s : State) :
    driveOnly (s.setPart .halted) (((s.setPart .halted).haltTraction.haltBridge).haltChuff) :=
  ((State.haltTraction_driveOnly _).trans (State.haltBridge_driveOnly _)).trans (State.haltChuff_driveOnly _)

/-- The rest of an entry to HALTED after SND's share: SMK, LGT and the chuff that EXC holds, with the notice. -/
theorem State.haltRest_spec (s : State) :
    let t := { s.haltSmoke.haltLights with exc := { s.haltSmoke.haltLights.exc with chuffHeld := false } }.latch .halted
    t.drq = s.drq ∧ t.rrx = s.rrx ∧ t.sup = s.sup ∧ t.cfg = s.cfg ∧ t.port = s.port ∧ t.mem = s.mem ∧ t.exc.part = s.exc.part :=
  ⟨rfl, rfl, rfl, rfl, rfl, rfl, rfl⟩

/-- What an entry to HALTED leaves (R13): the drive request, the receiver, the supply monitor, the configuration and the port; the part
state and its mirror change. -/
theorem State.enterHalted_spec (s : State) :
    s.enterHalted.drq = s.drq ∧ s.enterHalted.rrx = s.rrx ∧ s.enterHalted.sup = s.sup ∧ s.enterHalted.cfg = s.cfg
    ∧ s.enterHalted.port = s.port ∧ s.enterHalted.mem = (s.setPart .halted).mem ∧ s.enterHalted.exc.part = .halted := by
  have h1 := s.haltDrive_spec.fields
  have h2 := (State.haltSound_soundOnly (((s.setPart .halted).haltTraction.haltBridge).haltChuff)).fields
  have h3 := State.haltRest_spec ((((s.setPart .halted).haltTraction.haltBridge).haltChuff).haltSound)
  obtain ⟨a1, a2, -, -, -, a3, a4, a5, a6, a7⟩ := h1
  obtain ⟨b1, b2, -, -, -, -, -, b3, b4, b5, b6, b7⟩ := h2
  obtain ⟨c1, c2, c3, c4, c5, c6, c7⟩ := h3
  have ap : (((s.setPart .halted).haltTraction.haltBridge).haltChuff).exc.part = .halted := by rw [a7]; rfl
  have bp : ((((s.setPart .halted).haltTraction.haltBridge).haltChuff).haltSound).exc.part = .halted := by rw [b7]; exact ap
  exact ⟨c1.trans (b2.trans a2), c2.trans (b3.trans a3), c3.trans (b4.trans a4), c4.trans (b6.trans a6), c5.trans (b1.trans a1),
    c6.trans (b5.trans a5), c7.trans bp⟩

/-- A report of the traction state leaves the drive request, the receiver, the supply monitor and the configuration (R12). -/
theorem State.endStopping_spec (s : State) :
    s.endStopping.drq = s.drq ∧ s.endStopping.rrx = s.rrx ∧ s.endStopping.sup = s.sup ∧ s.endStopping.cfg = s.cfg := by
  rcases s.endStopping_cases with ⟨h, -⟩ | ⟨h, -⟩ <;> rw [h]
  · exact ⟨rfl, rfl, rfl, rfl⟩
  · have := s.enterHalted_spec
    exact ⟨this.1, this.2.1, this.2.2.1, this.2.2.2.1⟩

/-- A scan that waits for nothing goes on with nothing. -/
theorem State.resumeScan_none {s : State} (h : s.exc.scan = none) : s.resumeScan = s := by
  simp [State.resumeScan, h]

/-- A command whose state keeps no waiting scan ends there. -/
theorem finish_none {s : State} (h : s.exc.scan = none) : finish s = .next s := by
  simp [finish, h]

/-! ### The squeal check count and the pins -/

/-- What one output sample does to the squeal check count (R129): outside RUNNING and STOPPING nothing; otherwise it counts on, or comes
round to 0 and makes a check due. -/
theorem State.countSqueal_cases (s : State) :
    (s.exc.part.driving = false ∧ s.countSqueal = s)
    ∨ (s.exc.part.driving = true ∧ s.snd.squealCount < 159
        ∧ s.countSqueal = { s with snd := { s.snd with squealCount := s.snd.squealCount + 1 } })
    ∨ (s.exc.part.driving = true ∧ 159 ≤ s.snd.squealCount
        ∧ s.countSqueal = { s with snd := { s.snd with squealCount := 0, squealDue := true } }) := by
  unfold State.countSqueal
  split
  · split
    · exact .inr (.inr ⟨‹_›, ‹_›, rfl⟩)
    · exact .inr (.inl ⟨‹_›, by omega, rfl⟩)
  · exact .inl ⟨Bool.eq_false_iff.mpr (by assumption), rfl⟩

theorem State.dropSqueal_soundOnly (s : State) : soundOnly s s.dropSqueal := rfl

/-- While the modulator runs, one of SPKP and SPKN is high at every moment of the carrier period (R114). -/
theorem State.pins_complement {s : State} (h : s.snd.modOn = true) (h' : s.snd.modNow ≤ 32767) : s.spkpHigh + s.spknHigh = 65536 := by
  have : s.spkpHigh ≤ 65536 := by
    unfold State.spkpHigh
    rw [if_pos h]
    omega
  unfold State.spknHigh
  rw [if_pos h]
  omega

/-- While the modulator is stopped both pins are low (R116). -/
theorem State.pins_low {s : State} (h : s.snd.modOn = false) : s.spkpHigh = 0 ∧ s.spknHigh = 0 := by
  simp [State.spkpHigh, State.spknHigh, h]

end Sys2Proof.Machine
end

