-- ==== Sys2Proof/Laws/Halted.lean ====
section
/-!
SUPPORT. What a shedding (R115) and an entry to HALTED (R13) make of a state, in the terms of Safety.lean: the statements about HALT_HARD,
HALT_SOFT and every event that ends STOPPING cite these in place of the operations' definitions.
-/
namespace Sys2Proof.Machine

/-- The end of a voice touches no start. -/
theorem State.endVoice_starts (s : State) (v : Fin 8) (reason : EndReason) :
    (s.endVoice v reason).snd.queue = s.snd.queue ∧ (s.endVoice v reason).snd.current = s.snd.current := by
  unfold State.endVoice
  simp only
  split
  · unfold State.recordEnd
    split <;> exact ⟨rfl, rfl⟩
  · exact ⟨rfl, rfl⟩

/-- The voices of a list, of which an end makes an end record: the active ones with a tag (R111). -/
def State.taggedOf (s : State) (l : List (Fin 8)) : List (Fin 8) := l.filter fun v => (s.voice v).active && (s.voice v).tag != 0

/-- The entry of the end list that the `i`-th further record goes into (R111). -/
def State.entryAfter (s : State) (i : Nat) : Fin 8 := Fin.ofNat 8 ((s.snd.endCount.toNat + i) % 8)

theorem getD_mem {l : List (Fin 8)} {i : Nat} (h : i < l.length) : l.getD i 0 ∈ l := by
  rw [List.getD, List.getElem?_eq_getElem h]
  exact List.getElem_mem h

/-- What the end of several voices, each once, makes of a state (R110, R111). -/
structure VoicesEnded (s t : State) (l : List (Fin 8)) (reason : EndReason) : Prop where
  voices : ∀ v, t.voice v = if v ∈ l ∧ (s.voice v).active = true then {} else s.voice v
  starts : t.snd.queue = s.snd.queue ∧ t.snd.current = s.snd.current
  count  : t.snd.endCount = s.snd.endCount + BitVec.ofNat 32 (s.taggedOf l).length
  notice : s.exc.nlat.getLsbD 4 = true ∨ s.taggedOf l ≠ [] → t.exc.nlat.getLsbD 4 = true
  made   : l.length ≤ 8 → ∀ i < (s.taggedOf l).length, t.snd.endList.get (s.entryAfter i)
    = ⟨(s.voice ((s.taggedOf l).getD i 0)).tag, reason, ((s.taggedOf l).getD i 0).val⟩
  kept   : ∀ k, (∀ i < (s.taggedOf l).length, k ≠ s.entryAfter i) → t.snd.endList.get k = s.snd.endList.get k

theorem State.endVoices_ended (reason : EndReason) (l : List (Fin 8)) (hn : l.Nodup) (s : State) :
    VoicesEnded s (State.endVoices reason l s) l reason := by
  induction l generalizing s with
  | nil => exact ⟨fun v => by simp [State.endVoices], ⟨rfl, rfl⟩, by simp [State.taggedOf, State.endVoices],
      by simp [State.taggedOf, State.endVoices], by simp [State.taggedOf], fun _ _ => rfl⟩
  | cons v rest ih =>
    obtain ⟨hv, hr⟩ := List.nodup_cons.mp hn
    show VoicesEnded s (State.endVoices reason rest (s.endVoice v reason)) (v :: rest) reason
    by_cases ha : (s.voice v).active = true
    · obtain ⟨he, hs, -⟩ := State.endVoice_ended reason ha
      have hq := State.endVoice_starts s v reason
      have hsv : (s.endVoice v reason).voice v = {} := by unfold State.voice; rw [hs]; exact Octet.get_set_self _ _ _
      have hsu : ∀ u, u ≠ v → (s.endVoice v reason).voice u = s.voice u := fun u h => by
        unfold State.voice; rw [hs]; exact Octet.get_set_other _ _ _ _ h
      have hrest : ∀ u ∈ rest, (s.endVoice v reason).voice u = s.voice u := fun u h => hsu u fun e => hv (e ▸ h)
      have htr : (s.endVoice v reason).taggedOf rest = s.taggedOf rest :=
        List.filter_congr fun u h => by rw [hrest u h]
      have i := ih hr (s.endVoice v reason)
      have hvoices : ∀ u, (State.endVoices reason rest (s.endVoice v reason)).voice u
          = if u ∈ v :: rest ∧ (s.voice u).active = true then {} else s.voice u := fun u => by
        rw [i.voices]
        by_cases hu : u = v
        · subst hu; simp [hsv, ha]
        · rw [hsu u hu]; simp [hu]
      by_cases ht : (s.voice v).tag = 0
      · obtain ⟨h1, h2, h3⟩ := he.untagged ht
        have htl : s.taggedOf (v :: rest) = s.taggedOf rest := by simp [State.taggedOf, ht]
        have hea : ∀ k, (s.endVoice v reason).entryAfter k = s.entryAfter k := fun k => by simp only [State.entryAfter, h2]
        refine ⟨hvoices, ⟨i.starts.1.trans hq.1, i.starts.2.trans hq.2⟩, ?_, ?_, ?_, ?_⟩
        · rw [i.count, h2, htr, htl]
        · rw [htl]; have := i.notice; rw [htr, h3] at this; exact this
        · intro hl k hk
          rw [htl] at hk ⊢
          have := i.made (by simp at hl; omega) k (by rw [htr]; exact hk)
          rw [htr, hea, hrest _ ?_] at this
          · exact this
          · exact (List.mem_filter.mp (getD_mem hk)).1
        · intro k hk
          rw [htl] at hk
          rw [i.kept k (fun j hj => by rw [hea]; exact hk j (by rw [htr] at hj; exact hj)), h1]
      · obtain ⟨h1, h2, h3⟩ := he.tagged ht
        have htl : s.taggedOf (v :: rest) = v :: s.taggedOf rest :=
          List.filter_cons_of_pos (by rw [ha, Bool.true_and]; exact bne_iff_ne.mpr ht)
        have hea : ∀ k, (s.endVoice v reason).entryAfter k = s.entryAfter (k + 1) := fun k => by
          simp only [State.entryAfter, h1, BitVec.toNat_add]
          congr 1
          have : (1 : BitVec 32).toNat = 1 := rfl
          rw [this]; omega
        have h0 : Fin.ofNat 8 (s.snd.endCount.toNat % 8) = s.entryAfter 0 := rfl
        have hb : (s.endVoice v reason).exc.nlat.getLsbD 4 = true := by rw [h2]; simp
        refine ⟨hvoices, ⟨i.starts.1.trans hq.1, i.starts.2.trans hq.2⟩, ?_, fun _ => i.notice (.inl hb), ?_, ?_⟩
        · rw [i.count, h1, htr, htl]
          apply BitVec.eq_of_toNat_eq
          simp [BitVec.toNat_add]; omega
        · intro hl k hk
          have hlen : (s.taggedOf rest).length ≤ rest.length := List.length_filter_le _ _
          rw [htl] at hk ⊢
          simp only [List.length_cons] at hk hl
          cases k with
          | zero =>
            rw [i.kept]
            · rw [h3, h0, Octet.get_set_self]; rfl
            · intro j hj
              rw [htr] at hj
              rw [hea]
              intro e
              have := congrArg Fin.val e
              simp only [State.entryAfter, Fin.val_ofNat] at this
              omega
          | succ k =>
            have := i.made (by omega) k (by rw [htr]; omega)
            rw [htr, hea, hrest _ ?_] at this
            · exact this
            · exact (List.mem_filter.mp (getD_mem (l := s.taggedOf rest) (by omega))).1
        · intro k hk
          rw [htl] at hk
          simp only [List.length_cons] at hk
          rw [i.kept k (fun j hj => by rw [hea]; exact hk (j + 1) (by rw [htr] at hj; omega)), h3, h0]
          exact Octet.get_set_other _ _ _ _ (hk 0 (by omega))
    · have hf : (s.voice v).active = false := by simpa using ha
      rw [State.endVoice_free reason hf]
      have i := ih hr s
      have htl : s.taggedOf (v :: rest) = s.taggedOf rest := by simp [State.taggedOf, hf]
      refine ⟨fun u => ?_, i.starts, by rw [htl]; exact i.count, by rw [htl]; exact i.notice, fun hl => ?_, by rw [htl]; exact i.kept⟩
      · rw [i.voices]
        by_cases hu : u = v
        · subst hu; simp [hf]
        · simp [hu]
      · rw [htl]; exact i.made (by simp at hl; omega)

/-- Outcomes handed back change the squeal state and a waiting scan alone (R119, R130). -/
theorem State.handBackAll_kept (o : StartOutcome) (q : List StartReq) (s : State) :
    (State.handBackAll o q s).snd = { s.snd with squeal := (State.handBackAll o q s).snd.squeal }
    ∧ (State.handBackAll o q s).exc.nlat = s.exc.nlat := by
  induction q generalizing s with
  | nil => exact ⟨rfl, rfl⟩
  | cons r rest ih =>
    have h : (s.handBack r.asker o).snd = { s.snd with squeal := (s.handBack r.asker o).snd.squeal }
        ∧ (s.handBack r.asker o).exc.nlat = s.exc.nlat := by
      unfold State.handBack
      split
      · exact ⟨rfl, rfl⟩
      · split <;> exact ⟨rfl, rfl⟩
      · exact ⟨rfl, rfl⟩
    have i := ih (s.handBack r.asker o)
    refine ⟨?_, i.2.trans h.2⟩
    show (State.handBackAll o rest (s.handBack r.asker o)).snd = _
    rw [i.1, h.1]
    rfl

theorem VoicesEnded.shed {s u t : State} (e : VoicesEnded s u octetIndices .shed)
    (h : t.snd = { u.snd with
      queue := [], current := u.snd.current.map fun w => { w with doomed := true }, squeal := t.snd.squeal,
      squealCount := t.snd.squealCount, squealDue := t.snd.squealDue })
    (h' : t.exc.nlat = u.exc.nlat) : VoicesShed s t := by
  have hall : ∀ v : Fin 8, v ∈ octetIndices := by decide
  refine ⟨fun v => ?_, ⟨by rw [h], by rw [h, ← e.starts.2]⟩, s.taggedOf octetIndices, rfl, by rw [h]; exact e.count, fun hn => ?_, fun i hi => ?_⟩
  · have := e.voices v
    simp only [hall, true_and] at this
    rw [← this]
    unfold State.voice
    rw [h]
  · rw [h']
    exact e.notice (.inr hn)
  · rw [h]
    exact e.made (by decide) i hi

/-- All that a shedding does to the voices and the starts (R115). -/
theorem State.shedVoices_shed (s : State) : VoicesShed s s.shedVoices := by
  obtain ⟨u, hu⟩ : ∃ u, State.endVoices .shed octetIndices s = u := ⟨_, rfl⟩
  have e : VoicesEnded s u octetIndices .shed := hu ▸ State.endVoices_ended .shed octetIndices (by decide) s
  unfold State.shedVoices
  simp only [hu]
  obtain ⟨k1, k2⟩ := State.handBackAll_kept (.refused .inactive) u.snd.queue
    { u with snd := { u.snd with queue := [], current := u.snd.current.map fun w => { w with doomed := true } } }
  refine e.shed ?_ k2
  rw [k1]

/-! ### The entry to HALTED -/

/-- SRG's share (R62), with what an entry to STANDING does to BFU and CHK: the channels keep their directions. -/
theorem State.haltTraction_spec (s : State) :
    s.haltTraction.srg = { s.srg with
      traction := if s.srg.traction.ends then s.srg.traction else .standing, r := 0, brakeOrder := false, tick := none,
      regTimer := false, turnTimer := none, turnMark := false, motors := s.srg.motors.map SrgMotor.rest }
    ∧ s.haltTraction.bfu = { s.bfu with
      chans := s.haltTraction.bfu.chans, slip := s.haltTraction.bfu.slip, slipRun := s.haltTraction.bfu.slipRun,
      faster := s.haltTraction.bfu.faster }
    ∧ (∀ m, (s.haltTraction.chan m).dir = (s.chan m).dir)
    ∧ s.haltTraction.chk = { s.chk with
      acc := s.haltTraction.chk.acc, next := s.haltTraction.chk.next, first := s.haltTraction.chk.first } := by
  obtain ⟨u, hu⟩ : ∃ u, ({ s with srg := { s.srg with tick := none, regTimer := false, r := 0, brakeOrder := false } } : State).stopTurn.zeroDuty = u :=
    ⟨_, rfl⟩
  have h1 : u.srg = { s.srg with
      tick := none, regTimer := false, r := 0, brakeOrder := false, turnTimer := none, turnMark := false,
      motors := s.srg.motors.map SrgMotor.rest } := by rw [← hu]; rfl
  have h2 : u.bfu = { s.bfu with chans := u.bfu.chans } := by rw [← hu]; rfl
  have h3 : ∀ m, (u.chan m).dir = (s.chan m).dir := fun m => by
    have hc : u.chan m = (s.chan m).hand s.cfg.traction 0 := by rw [← hu]; cases m <;> rfl
    rw [hc]; exact (Channel.hand_zero _ _).2.2.1
  have h4 : u.chk = s.chk := by rw [← hu]; rfl
  obtain ⟨g1, g2, g3, -, g5⟩ := u.toStanding_spec
  have gs : u.toStanding.srg = { s.srg with
      traction := .standing, r := 0, brakeOrder := false, tick := none, regTimer := false, turnTimer := none, turnMark := false,
      motors := s.srg.motors.map SrgMotor.rest } := by rw [g1, h1]; rfl
  have stands : u.toStanding.bfu = { s.bfu with
        chans := u.toStanding.bfu.chans, slip := u.toStanding.bfu.slip, slipRun := u.toStanding.bfu.slipRun,
        faster := u.toStanding.bfu.faster }
      ∧ (∀ m, (u.toStanding.chan m).dir = (s.chan m).dir)
      ∧ u.toStanding.chk = { s.chk with acc := u.toStanding.chk.acc, next := u.toStanding.chk.next, first := u.toStanding.chk.first } :=
    ⟨by rw [g3, h2], fun m => (g5 m).2.2.1.trans (h3 m), by rw [g2, h4]⟩
  have stays : u.bfu = { s.bfu with chans := u.bfu.chans, slip := u.bfu.slip, slipRun := u.bfu.slipRun, faster := u.bfu.faster }
      ∧ (∀ m, (u.chan m).dir = (s.chan m).dir) ∧ u.chk = { s.chk with acc := u.chk.acc, next := u.chk.next, first := u.chk.first } :=
    ⟨by rw [h2], h3, by rw [h4]⟩
  unfold State.haltTraction
  simp only [hu]
  cases ht : s.srg.traction <;> simp only [TractionState.ends, if_true, Bool.false_eq_true, if_false]
  · exact ⟨by rw [h1, ← ht], stays⟩
  · exact ⟨gs, stands⟩
  · exact ⟨gs, stands⟩
  · exact ⟨gs, stands⟩
  · exact ⟨by rw [h1, ← ht], stays⟩
  · exact ⟨by rw [h1, ← ht], stays⟩

/-- A channel at an entry to HALTED (R84). -/
theorem Channel.halted_spec (c : Traction) (ch : Channel) :
    (ch.halted c).dead = true ∧ (ch.halted c).raised = none ∧ (ch.halted c).pos = none ∧ (ch.halted c).dir = ch.dir
    ∧ (ch.halted c).avg = 0 ∧ (ch.halted c).persist = 0 ∧ (ch.halted c).cbcMark = false := by
  obtain ⟨h1, ⟨h2, h3, h4, h5⟩, h6, h7, h8, h9, -⟩ := Channel.tripped_spec c ch
  refine ⟨?_, rfl, rfl, h9, h6, h7, h8⟩
  simp [Channel.dead, Channel.halted, h1, h2, h3, h4, h5]

/-- SRG, BFU and CHK at an entry to HALTED (R62, R84, R95). -/
theorem State.haltDrive_facts (s : State) :
    let t := s.haltTraction.haltBridge.haltChuff
    t.srg = { s.srg with
      traction := if s.srg.traction.ends then s.srg.traction else .standing, r := 0, brakeOrder := false, tick := none,
      regTimer := false, turnTimer := none, turnMark := false, motors := s.srg.motors.map SrgMotor.rest }
    ∧ t.bfu = { s.bfu with chans := t.bfu.chans, window := none, slip := .normal, slipRun := 0, faster := none }
    ∧ (∀ m, (t.chan m).dead = true ∧ (t.chan m).raised = none ∧ (t.chan m).pos = none ∧ (t.chan m).dir = (s.chan m).dir
      ∧ (t.chan m).avg = 0 ∧ (t.chan m).persist = 0 ∧ (t.chan m).cbcMark = false)
    ∧ t.chk = { s.chk with
      level := none, previous := t.chk.previous, run := 0, prescale := 0, capture := none, lostTimer := none, acc := 65535, next := 0,
      first := true } := by
  obtain ⟨u, hu⟩ : ∃ u, s.haltTraction = u := ⟨_, rfl⟩
  have h := s.haltTraction_spec
  rw [hu] at h ⊢
  obtain ⟨h1, h2, h3, h4⟩ := h
  refine ⟨h1, ?_, fun m => ?_, ?_⟩
  · show ({ u.bfu with chans := _, window := none, slip := .normal, slipRun := 0, faster := none } : Bfu) = _
    rw [h2]; rfl
  · have hc : (u.haltBridge.haltChuff).chan m = (u.chan m).halted u.cfg.traction := by cases m <;> rfl
    rw [hc, ← h3 m]
    exact Channel.halted_spec _ _
  · show ({ u.chk with
      level := none, previous := none, run := 0, prescale := 0, capture := none, lostTimer := none, acc := 65535, next := 0,
      first := true } : Chk) = _
    rw [h4]; rfl

/-- With both outputs off and no puff, a change to any state but READY leaves them so (R136). -/
theorem Smk.change_rest {k : Smk} {x : SmokeState} (idle : Nat) (h : k.heater = 0) (h' : k.fan = 0) (h'' : k.puff = none) (hx : x ≠ .ready) :
    k.change idle x .none = { k with state := x, target := .none } := by
  cases k
  simp only at h h' h''
  subst h h' h''
  unfold Smk.change
  split
  · simp
  · split <;> simp_all

/-- SMK's share (R144): where the part is HALTED, the state is OFF, or SENSOR_FAULT with the fault latch set. -/
theorem State.haltSmoke_facts {s : State} (h : s.exc.part = .halted) :
    s.haltSmoke.smk = { s.smk with
      state := if s.smk.fault then .sensorFault else .off, target := .none, heater := 0, fan := 0, puff := none } := by
  obtain ⟨u, hu⟩ : ∃ u, ({ s with smk := { s.smk with heater := 0, fan := 0, puff := none } } : State) = u := ⟨_, rfl⟩
  have hs : u.smk = { s.smk with heater := 0, fan := 0, puff := none } := by rw [← hu]
  have hl : u.haltedLike = true := by rw [← hu]; simp [State.haltedLike, h]
  have change : ∀ x, x ≠ .ready → u.smk.change u.cfg.smoke.idle x .none
      = { s.smk with state := x, target := .none, heater := 0, fan := 0, puff := none } := fun x hx => by
    rw [hs]
    exact Smk.change_rest _ rfl rfl rfl hx
  have e : s.haltSmoke = u.evalSmoke := by rw [← hu]; rfl
  rw [e]
  show u.smk.change u.cfg.smoke.idle u.smokeRank.1 u.smokeRank.2 = _
  have r := u.smokeRank_spec
  have hf : u.smk.fault = s.smk.fault := by rw [hs]
  cases h' : s.smk.fault
  · rw [(r.halted (hf.trans h') hl).1, (r.halted (hf.trans h') hl).2]
    exact change _ (by decide)
  · rw [(r.fault (hf.trans h')).1, (r.fault (hf.trans h')).2]
    exact change _ (by decide)

/-- All that an entry to HALTED does (R13), in a part whose memory has its canonical form. -/
theorem State.enterHalted_facts {s : State} (hw : s.mem.wf = true) : HaltedFacts s s.enterHalted := by
  have hm : ∀ a, (s.setPart .halted).mem.read a = if a = 0x10 then 4 else s.mem.read a := fun a => by
    show (s.mem.writeCells (leCells 0x10 1 4)).read a = _
    rw [Memory.read_writeField (by decide) hw]
    by_cases h : a = 0x10
    · subst h; rfl
    · rw [if_neg (by omega), if_neg h]
  have hd := State.haltDrive_facts (s.setPart .halted)
  have hk := State.haltDrive_spec s
  obtain ⟨u, hu⟩ : ∃ u, (s.setPart .halted).haltTraction.haltBridge.haltChuff = u := ⟨_, rfl⟩
  rw [hu] at hd hk
  obtain ⟨d1, d2, d3, d4⟩ := hd
  obtain ⟨k1, -, k3, k4, k5, k6, k7, k8, k9, k10⟩ := hk.fields
  have hv := State.shedVoices_shed u
  have hs := State.shedVoices_soundOnly u
  obtain ⟨w, hw'⟩ : ∃ w, u.shedVoices = w := ⟨_, rfl⟩
  rw [hw'] at hv hs
  obtain ⟨b1, -, b3, b4, b5, b6, b7, b8, b9, b10, b11, b12⟩ := hs.fields
  have hp : w.exc.part = .halted := by rw [b12, k10]; rfl
  obtain ⟨x, hx⟩ : ∃ x, ({ w with snd := { w.snd with squeal := .silent, squealCount := 0, squealDue := false } } : State) = x := ⟨_, rfl⟩
  have hsm := State.haltSmoke_facts (s := x) (by rw [← hx]; exact hp)
  have xs : x.smk = w.smk := by rw [← hx]
  obtain ⟨t, ht⟩ : ∃ t, s.enterHalted = t := ⟨_, rfl⟩
  have ht' : t = { x.haltSmoke.haltLights with exc := { x.haltSmoke.haltLights.exc with chuffHeld := false } }.latch .halted := by
    rw [← ht, ← hx, ← hw', ← hu]; rfl
  rw [ht]
  have tsrg : t.srg = w.srg := by rw [ht', ← hx]; rfl
  have tbfu : t.bfu = w.bfu := by rw [ht', ← hx]; rfl
  have tchk : t.chk = w.chk := by rw [ht', ← hx]; rfl
  have tsnd : t.snd = { w.snd with squeal := .silent, squealCount := 0, squealDue := false } := by rw [ht', ← hx]; rfl
  have tsmk : t.smk = x.haltSmoke.smk := by rw [ht']; rfl
  have tlgt : t.lgt = { w.lgt with timer := false, lamps := w.lgt.lamps.map Lamp.halted, cap := 0 } := by rw [ht', ← hx]; rfl
  have texc : t.exc = { w.exc with chuffHeld := false, nlat := w.exc.nlat ||| Notice.halted.mask } := by rw [ht', ← hx]; rfl
  have tmem : t.mem = w.mem := by rw [ht', ← hx]; rfl
  have wexc : w.exc = { s.exc with part := .halted, nlat := w.exc.nlat, scan := w.exc.scan } := by rw [b12, k10]; rfl
  refine ⟨by rw [texc, wexc], fun a => by rw [tmem, b10, k8]; exact hm a, ?_, ?_, ?_, ?_, ?_, by rw [tsnd]; exact ⟨rfl, rfl, rfl⟩, ?_, ?_, ?_⟩
  · rw [texc]
    show (w.exc.nlat ||| Notice.halted.mask).getLsbD 14 = true
    rw [BitVec.getLsbD_or]
    simp [Notice.mask, Notice.bit]
  · rw [tsrg, b3, d1]
    exact ⟨rfl, fun m => by rw [PerMotor.get_map]; rfl⟩
  · refine ⟨by rw [tbfu, b4, d2]; rfl, fun m => ?_⟩
    have hc : t.chan m = u.chan m := by unfold State.chan; rw [tbfu, b4]
    rw [hc]
    exact d3 m
  · rw [tchk, b5, d4]; rfl
  · have hvc : ∀ v, u.voice v = s.voice v := fun v => by unfold State.voice; rw [k3]; rfl
    have hsnd : u.snd = s.snd := k3
    obtain ⟨v1, v2, l, v3, v4, v5, v6⟩ := hv
    simp only [hvc, hsnd] at v1 v2 v3 v4 v6
    refine ⟨fun v => ?_, by rw [tsnd]; exact v2, l, v3, by rw [tsnd]; exact v4, fun hn => ?_, fun i hi => ?_⟩
    · rw [← v1]; unfold State.voice; rw [tsnd]
    · rw [texc]
      show (w.exc.nlat ||| _).getLsbD _ = true
      rw [BitVec.getLsbD_or, v5 hn, Bool.true_or]
    · rw [tsnd]; exact v6 i hi
  · rw [tsmk, hsm, xs, b6, k4]; rfl
  · rw [tlgt, b7, k5]
    exact ⟨rfl, fun k => by rw [Octet.get_map]; rfl⟩
  · have h := State.enterHalted_spec s
    rw [ht] at h
    refine ⟨h.2.2.2.1, h.2.1, h.2.2.1, h.2.2.2.2.1, ?_⟩
    rw [texc, wexc]
    exact ⟨rfl, rfl, rfl, rfl⟩

end Sys2Proof.Machine
end

