-- ==== Sys2Proof/Laws/Scan.lean ====
section
/-!
SUPPORT. What the shared operations of the scanner can do (R14 to R18): the words as read, the millisecond count, the drive slot, the
take tally, and a cue written back with the outcome it waited for (R119).
-/
namespace Sys2Proof.Machine

theorem wordBytes_ofLe (b0 b1 b2 b3 : Byte) :
    wordBytes (BitVec.ofNat 32 (b0.toNat + 256 * (b1.toNat + 256 * (b2.toNat + 256 * (b3.toNat + 256 * 0))))) = [b0, b1, b2, b3] := by
  have h0 := b0.isLt
  have h1 := b1.isLt
  have h2 := b2.isLt
  have h3 := b3.isLt
  simp only [wordBytes, List.cons.injEq, and_true]
  refine ⟨?_, ?_, ?_, ?_⟩ <;> apply BitVec.eq_of_toNat_eq <;>
    simp [BitVec.toNat_setWidth, BitVec.toNat_ushiftRight, Nat.shiftRight_eq_div_pow] <;> omega

/-- The bytes of a word as one read grant delivers them (R6). -/
theorem wordBytes_readWord (m : Memory) (a : Nat) :
    wordBytes (m.readWord a) = [m.read a, m.read (a + 1), m.read (a + 2), m.read (a + 3)] := by
  simpa [Memory.readWord, Memory.readLe] using wordBytes_ofLe (m.read a) (m.read (a + 1)) (m.read (a + 2)) (m.read (a + 3))

/-- The slot as read is the post that it holds (R16). -/
theorem Memory.readSlot_of_holds {m : Memory} {x : Slot} (h : m.slotHolds x) : m.readSlot = x := by
  obtain ⟨h0, h1, h2, h3, h4, h5⟩ := h
  cases x
  simp only [Memory.readSlot, slotBase, wordBytes_readWord, Slot.mk.injEq] at *
  simp_all [byteAt, halfAt, Memory.readLe]

/-- The millisecond count at an expiry (R14): the count, its directory field, and what counts in ms. -/
theorem State.advanceMs_spec (s : State) :
    s.advanceMs = { s.countMs with exc := { s.exc with ms := s.exc.ms + 1 }, mem := s.advanceMs.mem } := rfl

theorem State.advanceMs_read {s : State} (hw : s.mem.wf = true) (a : Nat) :
    s.advanceMs.mem.read a = if 0x0C ≤ a ∧ a ≤ 0x0F then msByte (s.exc.ms + 1) a else s.mem.read a := by
  show (s.mem.writeCells (leCells 0x0C 4 _)).read a = _
  rw [Memory.read_writeField (by decide) hw]
  have h : (12 ≤ a ∧ a < 12 + 4) ↔ (12 ≤ a ∧ a ≤ 15) := by omega
  simp only [h, msByte]

theorem State.advanceMs_wf {s : State} (hw : s.mem.wf = true) : s.advanceMs.mem.wf = true :=
  State.wf_writeField (by decide) hw

/-- The slot state PENDING is written where it was not already (R15). -/
theorem State.markPending_spec {s : State} (hw : s.mem.wf = true) :
    s.markPending = { s with exc := { s.exc with slotState := .pending }, mem := s.markPending.mem }
    ∧ s.markPending.mem.wf = true ∧ ∀ a, a ≠ 0x16 → s.markPending.mem.read a = s.mem.read a := by
  unfold State.markPending
  split
  · rename_i h
    refine ⟨?_, hw, fun _ _ => rfl⟩
    cases s
    rename_i exc _ _ _ _ _ _ _ _ _ _ _ _ _ _ _
    cases exc
    simp_all
  · refine ⟨rfl, State.wf_writeField (by decide) hw, fun a ha => ?_⟩
    show (s.mem.writeCells _).read a = _
    rw [Memory.read_writeField (by decide) hw, if_neg (by omega)]

/-- The end of a take (R16): the last taken tally, the slot state, and SLOT_TAKEN. -/
theorem State.endTake_spec {s : State} (t : Byte) (x : SlotState) (hw : s.mem.wf = true) :
    let u := ((s.setLastTaken t).setSlotState x).latch .slotTaken
    u = { s with exc := { s.exc with lastTaken := t, slotState := x, nlat := s.exc.nlat ||| 2 }, mem := u.mem }
    ∧ u.mem.wf = true
    ∧ ∀ a, u.mem.read a = if a = 0x15 then t else if a = 0x16 then BitVec.ofNat 8 x.code else s.mem.read a := by
  have h1 : (s.mem.writeCells (leCells 0x15 1 t.toNat)).wf = true := Memory.wf_writeCells (leCells_inside (by decide)) hw
  refine ⟨rfl, Memory.wf_writeCells (leCells_inside (by decide)) h1, fun a => ?_⟩
  show ((s.mem.writeCells (leCells 0x15 1 _)).writeCells (leCells 0x16 1 _)).read a = _
  rw [Memory.read_writeField (by decide) h1, Memory.read_writeField (by decide) hw]
  by_cases ha : a = 0x15
  · subst ha
    simp
  · by_cases hb : a = 0x16
    · subst hb
      simp
    · rw [if_neg (by omega), if_neg (by omega), if_neg ha, if_neg hb]

/-- An empty strip brings nothing (R17). -/
theorem State.scanCues_empty {s : State} (h : s.mem.readLe 4 2 = s.exc.cueTake.toNat) : s.scanCues = s := by
  have e : s.appendTally = s.exc.cueTake := by simp [State.appendTally, h]
  simp [State.scanCues, e, State.takeCues]

/-- A slot with the last taken tally and no pending post brings nothing (R15). -/
theorem State.examineSlot_idle {s : State} (h : s.mem.read 0x500 = s.exc.lastTaken ∧ s.exc.slotState ≠ .pending) :
    s.examineSlot = s := by
  have e : s.mem.readSlot.tally = s.mem.read 0x500 := by simp [Memory.readSlot, slotBase, wordBytes_readWord]
  simp [State.examineSlot, e, h]

/-- What judging a slot can change in RUNNING (R16): DRQ's record, the drive, and the notices. -/
theorem State.judgeSlot_spec {s : State} (x : Slot) (h : s.exc.part ≠ .stopping) :
    driveOnly { s with drq := (s.judgeSlot x).1.drq } (s.judgeSlot x).1 ∧ (s.judgeSlot x).1.drq.functions = s.drq.functions := by
  have key : ∀ (d : Drq) (t : State), driveOnly { s with drq := d } t →
      driveOnly { s with drq := t.drq } t ∧ t.drq = d := by
    intro d t ht
    have e : t.drq = d := ht.fields.2.1
    rw [e]
    exact ⟨ht, rfl⟩
  unfold State.judgeSlot
  split
  · have k := key _ _ (State.eStop_spec s)
    exact ⟨k.1, by simp only [k.2]⟩
  · split
    · exact ⟨rfl, rfl⟩
    · split
      · exact ⟨rfl, rfl⟩
      · split
        · have k := key _ _ (State.request_spec .host (.speedUnits (min x.value 4095)) x.direction h)
          exact ⟨k.1, by simp only [k.2]⟩
        · have k := key _ _ (State.request_spec .host (.throttle (min x.value 200)) x.direction h)
          exact ⟨k.1, by simp only [k.2]⟩

/-- The bytes of a cue record's first word written back, and the take tally (R17). -/
theorem State.writeBack_read {s : State} (kind : Byte) (reason : CueReason) (hw : s.mem.wf = true) (a : Nat) :
    (s.writeBack kind reason).mem.read a
      = if 0x06 ≤ a ∧ a < 0x08 then BitVec.ofNat 8 ((s.exc.cueTake + 1).toNat / 256 ^ (a - 0x06))
        else if cueAddr s.exc.cueTake ≤ a ∧ a < cueAddr s.exc.cueTake + 4 then
          [if reason = .none then 2 else 3, kind, BitVec.ofNat 8 reason.code, 0].getD (a - cueAddr s.exc.cueTake) 0
        else s.mem.read a := by
  have hm : (s.writeBack kind reason).mem
      = (s.mem.writeCells (backCells s.exc.cueTake kind reason)).writeCells (leCells 0x06 2 (s.exc.cueTake + 1).toNat) := by
    unfold State.writeBack
    split <;> rfl
  have hi : cueAddr s.exc.cueTake + 4 ≤ memorySize := by
    have := Nat.mod_lt s.exc.cueTake.toNat (show 64 > 0 by decide)
    simp only [cueAddr, memorySize]
    omega
  have hq : cellsInside (backCells s.exc.cueTake kind reason) = true := by
    simp only [cellsInside, backCells, List.all_cons, List.all_nil, Bool.and_true, Bool.and_eq_true, decide_eq_true_eq]
    omega
  rw [hm, Memory.read_writeField (by decide) (Memory.wf_writeCells hq hw)]
  congr 1
  exact Memory.read_writeRun (l := [if reason = .none then 2 else 3, kind, BitVec.ofNat 8 reason.code, 0]) hi hw

/-- A cue record written back with its reason (R17): its first word, the take tally, and CUE_REFUSED at a refusal. -/
theorem State.writeBack_spec {s : State} (kind : Byte) (reason : CueReason) (hw : s.mem.wf = true) :
    let t := s.writeBack kind reason
    let base := 0x800 + 16 * (s.exc.cueTake.toNat % 64)
    t = { s with
      exc := { s.exc with cueTake := s.exc.cueTake + 1, nlat := if reason.code = 0 then s.exc.nlat else s.exc.nlat ||| 4 },
      mem := t.mem }
    ∧ t.mem.readLe 0x06 2 = (s.exc.cueTake.toNat + 1) % 65536
    ∧ t.mem.read base = (if reason.code = 0 then 2 else 3) ∧ t.mem.read (base + 1) = kind
    ∧ t.mem.read (base + 2) = BitVec.ofNat 8 reason.code ∧ t.mem.read (base + 3) = 0
    ∧ ∀ a, a ≠ 0x06 → a ≠ 0x07 → (a < base ∨ base + 4 ≤ a) → t.mem.read a = s.mem.read a := by
  have hr : (reason.code = 0) = (reason = .none) := by cases reason <;> simp [CueReason.code]
  have at_ (i : Nat) (hi : i < 4) : (s.writeBack kind reason).mem.read (0x800 + 16 * (s.exc.cueTake.toNat % 64) + i)
      = [if reason = .none then 2 else 3, kind, BitVec.ofNat 8 reason.code, 0].getD i 0 := by
    rw [State.writeBack_read kind reason hw, if_neg (by omega), if_pos (by simp only [cueAddr]; omega)]
    congr 1
    simp only [cueAddr]
    omega
  simp only [hr]
  refine ⟨?_, ?_, at_ 0 (by decide), at_ 1 (by decide), at_ 2 (by decide), at_ 3 (by decide), ?_⟩
  · unfold State.writeBack
    split <;> rfl
  · simp only [Memory.readLe, State.writeBack_read kind reason hw]
    have := s.exc.cueTake.isLt
    simp
    omega
  · intro a h6 h7 ha
    rw [State.writeBack_read kind reason hw, if_neg (by omega), if_neg (by simp only [cueAddr]; omega)]

/-- A start that ends while nothing keeps its outcome (R119, R130): the outcome is with its requester. -/
theorem State.endStart_handed {s : State} {asker : Requester} (o : StartOutcome) (ho : o ≠ .refused .none) (h : s.Answers asker) :
    ∃ t, finish (s.endStart asker o) = .next t
      ∧ OutcomeHanded { s with snd := { s.snd with current := none } } t asker (outcomeReason o).code := by
  by_cases ha : asker = .playCue
  · subst ha
    obtain ⟨hw, ⟨kind, hk⟩, hp, hb, hi⟩ := h.cue rfl
    let u : State := { s with
      snd := { s.snd with current := none }, exc := { s.exc with scan := some ⟨kind, 0, some o⟩ } }
    have he : s.endStart .playCue o = u := by
      unfold State.endStart State.handBack
      simp [hk, u]
    have hl : u.lowerWaits = false := by
      have hi' : u.inboxWaits = false := hi
      have hp' : u.port.awaiting.isSome = false := by simp [u, hp]
      have hb' : u.exc.board.isSome = false := by simp [u, hb]
      rw [State.lowerWaits, hi', hp', hb']
      rfl
    have hs := State.writeBack_spec (s := { u with exc := { u.exc with scan := none } }) kind (outcomeReason o) hw
    refine ⟨({ u with exc := { u.exc with scan := none } } : State).writeBack kind (outcomeReason o), ?_, ?_, ?_, ?_⟩
    · rw [he]
      simp only [finish, u, State.serveLower_idle hl, State.resumeScan, State.takeCues]
    · exact fun h' => absurd rfl h'
    · exact fun h' => by cases h'
    · intro k _ hk'
      have e : kind = k := by
        have := hk.symm.trans hk'
        simpa using this
      subst e
      exact hs
  · have hq (x : Snd) : finish { s with snd := x } = .next { s with snd := x } := by
      unfold finish
      split
      · rename_i hk
        exact absurd (h.quiet _ hk) (by simp)
      · rfl
    by_cases hs : asker = .squeal
    · subst hs
      unfold State.endStart State.handBack
      cases o with
      | started v => exact ⟨_, hq _, fun _ h' => absurd rfl h', fun _ => by simp [outcomeReason, CueReason.code], fun _ h' => by cases h'⟩
      | refused r =>
        have hr : (outcomeReason (.refused r)).code ≠ 0 := by cases r <;> simp_all [outcomeReason, CueReason.code]
        exact ⟨_, hq _, fun _ h' => absurd rfl h', fun _ => by simp [hr], fun _ h' => by cases h'⟩
      | withdrawn => exact ⟨_, hq _, fun _ h' => absurd rfl h', fun _ => by simp [outcomeReason, CueReason.code], fun _ h' => by cases h'⟩
    · refine ⟨{ s with snd := { s.snd with current := none } }, ?_, fun _ _ => rfl, fun h' => absurd h' hs, fun _ h' => absurd h' ha⟩
      unfold State.endStart
      rw [State.handBack_other _ ha hs]
      exact hq _

end Sys2Proof.Machine
end

