-- ==== Sys2Proof/WellFormed.lean ====
section
/-!
DEFINITION. When the operands of a command are ones its row can carry. `exec` gives every command its meaning, well-formed
or not; this file says which commands the port, the link and the converters can deliver.
-/
namespace Sys2Proof

/-- The upper four bits of a command byte name a transaction of R2. -/
def validTransaction (cmd : Byte) : Bool :=
  let u := cmd.toNat / 16
  u == 0xA || u == 0xB || u == 0xC || u == 0xD

/-- The lower four bits of a command byte name a lane count of R2. -/
def validLanes (cmd : Byte) : Bool :=
  let l := cmd.toNat % 16
  l == 0x1 || l == 0x4

/-- A command byte that R2's two tables define. -/
def validCommandByte (cmd : Byte) : Bool :=
  validTransaction cmd && validLanes cmd

/-- What the stored bytes of a frame of `bits` bits must be: the whole bytes clocked in, of which 32 are stored (R159). -/
def frameStored (bits : Nat) (bytes : List Byte) : Bool :=
  bytes.length == min 32 (bits / 8)

/-- The operands are ones the command's row can carry. (DESIGN CHOICE, log entry 5) -/
def WellFormed : Instr → Bool
  | .readMemory _ _ _ _ => true
  | .writeMemory _ _ _ tailBits _ => tailBits < 8
  | .readRegister _ _ => true
  | .portCommandInvalid cmd => !validCommandByte cmd
  | .start _ => true
  | .haltSoft _ => true
  | .haltHard _ => true
  | .reset _ => true
  | .pctlNoCommand _ => true
  | .pctlReservedCommand code _ => 5 ≤ code.toNat
  | .nlatWrite _ => true
  | .nenWrite _ => true
  | .registerWriteIgnored reg _ complete => 3 ≤ reg.toNat || !complete
  | .arbiterGrant => true
  | .powerOnReset => true
  | .memoryClearDone => true
  | .adoptionGroupRead => true
  | .scanTimer => true
  | .scanWorkDeferred => true
  | .atChuffSlotTake => true
  | .inboxWrite => true
  | .boardTimer => true
  | .boardWriteDeferred => true
  | .regulationTimer => true
  | .settleTimeElapsed => true
  | .tickCompletion _ _ => true
  | .turnTimeout => true
  | .pwmPeriodStart => true
  | .deadTimeElapsed _ _ => true
  | .currentSample _ _ _ => true
  | .cbcLimit _ => true
  | .shortDetected _ => true
  | .drvfltQualified _ => true
  | .axsSample _ => true
  | .lostTimerExpiry => true
  | .outputSampleTimer => true
  | .carrierPeriodStart => true
  | .startBegin => true
  | .startDecided => true
  | .squealCheck => true
  | .smokeTimer _ => true
  | .kickEnd => true
  | .puffEnd => true
  | .effectTimer => true
  | .frameBegin _ => true
  | .frameArrival _ bits bytes => frameStored bits bytes
  | .failsafeExpiry => true
  | .supplyTimer _ _ => true
  | .holdupTimerExpiry => true
  | .shareTimer => true
  | .lampPwmPeriodStart _ => true

end Sys2Proof
end

