-- ==== Sys2Proof/Tests/Slice0.lean ====
section
/-!
SUPPORT. Tests of the model: the well-formedness smoke tests, the manual's worked examples, one small theorem or two for each
command, and for each obligation with hypotheses a state and operands that meet them.
-/
namespace Sys2Proof.Tests

open Sys2Proof.Machine

/-! ### States of the tests -/

/-- The TRACTION values of the worked ticks of 3.9, one motor, with BFU's parameters. -/
def traction1 : Traction :=
  { motors := 1, treg := 10, accel := 40, decel := 60, emergency := 64, kc := 640, kff := 256, kp := 512, ki := 16, dmax := 1023,
    standstill := 40, t1 := 100, t2 := 500, t3 := 1000, pwmFreq := 1, deadTime := 10, settle := 100, limit := 2000, persist := 4 }

/-- The SMOKE values of 8.10, with the puff values of 8.7 and a two-point thermistor table. -/
def smoke1 : Smoke :=
  { tVapor := 200, tSet := 220, tMax := 260, gain := 20, capacity := 600, idle := 40, kick := 30, puffMax := 150, base := 120,
    step := 15, points := [(800, 25), (100, 300)] }

/-- The POWER values of 11.7 and of the worked shares of 11.5. -/
def power1 : Power :=
  { vLean := 12000, vOff := 9000, vOn := 11000, qualifier := 3, holdTime := 400, vhMin := 6000, holdDmax := 600, leanCap := 128,
    holdCap := 64, holdLamp := 64, budget := 3000, reserve := 300, heaterNom := 1600 }

/-- The SOUND values of the tests: a squeal on clip 3, and one background clip. -/
def sound1 : Sound :=
  { master := 200, bgClip := some 1, bgVolume := 100, sqClip := some 3, sqPriority := 2, sqVolume := 90, sqLow := 100, sqHigh := 900 }

/-- The CHUFF values of the tests: a sensor with K = 3, rising edges, four chuffs per cycle. -/
def chuff1 : Chuff := { mode := .sensor, qualifier := 3, prescale := 1, kcam := 256, lostTime := 500, moving := 100, perCycle := 4 }

/-- All groups of the tests. -/
def groups1 : Groups :=
  { traction := traction1, curve := [0, 40, 80, 120, 160, 200, 300, 400, 500, 600, 700], sound := sound1, chuff := chuff1,
    smoke := smoke1, power := power1, radio := { unit := 42, failsafe := 1000 } }

/-- A part that runs and stands, its supply NORMAL. -/
def running : State :=
  { State.reset with
    exc := { part := .running }, cfg := groups1, configured := true, srg := { regTimer := true },
    bfu := { chans := PerMotor.both { pos := some 0 } }, chk := { source := .sensorLive },
    snd := { master := 200, cap := 255, modOn := true }, smk := { timer := true, fluid := 600, hlim := 135 },
    lgt := { timer := true, cap := 255 }, rrx := { link := true },
    sup := { state := .normal, vs := 14000, vh := 14000, share := true, hlim := 135 } }

/-- The same part moving at R = 1200, as before the ordinary tick of 3.9. -/
def moving : State :=
  { running with
    drq := { source := .host, origin := .speedUnits 1200, s := 1200 },
    srg := { running.srg with traction := .moving, r := 1200, motors := ⟨{ vf := 1000, i := 20000 }, {}⟩ },
    bfu := { chans := ⟨{ pos := some 0, mode := .drive, duty := 400 }, { pos := some 0 }⟩ } }

/-- The part moving with a tick in progress whose conversions are being taken. -/
def converting : State :=
  { moving with
    srg := { moving.srg with tick := some ⟨traction1, .forward, false⟩ },
    bfu := { moving.bfu with window := some ⟨.converting, none⟩ } }

/-- The part halted. -/
def halted : State := { running with exc := { part := .halted } }

/-- The part adopting from IDLE with the reader at one group. -/
def adopting (group : Nat) : State :=
  { State.reset with exc := { part := .adopting, adoption := some { fromHalted := false, group := group, words := [], values := {} } } }

/-- A state with bytes of exchange memory written. -/
def put (s : State) (cells : List Host.Cell) : State := s.writeMem cells

/-- What holds of the next state of a command. -/
def after (c : Instr) (s : State) (p : State → Bool) : Bool :=
  match exec c s with
  | .next t => p t
  | _ => false

/-- Four equal conversions in FORWARD. -/
def emf (counts : BitVec 10) : EmfSet :=
  let e : EmfReading := ⟨counts, .forward⟩
  ⟨e, e, e, e⟩

/-! ### Well-formedness -/

/-- A last byte of eight bits would be complete (R3). -/
theorem test_wf_tail : WellFormed (.writeMemory .one 0 [] 8 []) = false := by decide

/-- 0xA1 is READ_MEMORY on one lane, a defined command byte (R2). -/
theorem test_wf_command : WellFormed (.portCommandInvalid 0xA1) = false := by decide

/-- Code 4 is RESET, not a reserved command (R4). -/
theorem test_wf_reserved : WellFormed (.pctlReservedCommand 4 0) = false := by decide

/-- A complete write to NEN is not ignored (R2). -/
theorem test_wf_ignored : WellFormed (.registerWriteIgnored 2 0 true) = false := by decide

/-- Of 16 bits, two whole bytes are stored (R159). -/
theorem test_wf_frame : WellFormed (.frameArrival 0 16 [1]) = false := by decide

/-- The table gives no row any bits, so no word spells a command. -/
theorem test_decode_none : decodeTableWord 8 0xA1 = none ∧ State.reset.withFetchWord 8 0xA1 = State.reset := by decide

/-- A transaction of the tests, with all its grants in time. -/
def transaction (bytes : List Byte) : Transaction := { bytes := bytes }

/-- R2: 0xA4 and the address 0x07FFFF, the most significant byte first; 0xD1 and NEN with 0x8005, low byte first; PCTL with bits 3 to 15
ignored (R4). A transaction that ends within its address is no command, and 0xA2 is an undefined command byte. -/
theorem test_transaction :
    { transaction [0xA4, 0x07, 0xFF, 0xFF] with out := 2 }.command = some (.readMemory .four 0x07FFFF 2 [])
    ∧ (transaction [0xD1, 2, 0x05, 0x80]).command = some (.nenWrite 0x8005)
    ∧ (transaction [0xD4, 0, 0x0A, 0]).command = some (.haltSoft 1)
    ∧ (transaction [0xD1, 0, 4]).command = some (.registerWriteIgnored 0 4 false)
    ∧ (transaction [0xA1, 0, 0]).command = none ∧ (transaction [0xA2, 7]).command = some (.portCommandInvalid 0xA2) := by decide

/-- START as a register write of 1 to PCTL (R4, R7). -/
theorem test_transact : (match step (State.reset.transact (transaction [0xD1, 0, 1, 0])) with
    | .next t => t.exc.part == .adopting
    | _ => false) = true := by decide

/-! ### The manual's worked examples -/

/-- 10.2: the check of "123456789" is 0x29B1. -/
theorem test_crc : crc16 [0x31, 0x32, 0x33, 0x34, 0x35, 0x36, 0x37, 0x38, 0x39] = 0x29B1 := by decide +kernel

/-- 9.7: the flicker generator's first values after 0xACE1 give n = 112, 56 and 156. -/
theorem test_flicker : flickerValue (lfsrStep 0xACE1) = 112 ∧ flickerValue (lfsrStep (lfsrStep 0xACE1)) = 56
    ∧ flickerValue (lfsrStep (lfsrStep (lfsrStep 0xACE1))) = 156 := by decide

/-- 3.9: the ordinary tick. -/
theorem test_ordinary_tick : after (.tickCompletion (emf 380) (emf 0)) converting (fun t =>
    t.srg.motors.a == { vf := 987, i := 23408, sat := .zero, d := 429 } && t.srg.labour == 6 && t.srg.vl == 987
    && t.srg.tick == none) = true := by decide +kernel

/-- 3.9: the upper limit. -/
theorem test_upper_limit : SrgMotor.regulate traction1 4000 1023 { vf := 500, i := 200000, sat := .plus }
    = { vf := 500, i := 200000, sat := .plus, d := 1023 } := by decide +kernel

/-- 3.9: the lower limit, with labour 3. -/
theorem test_lower_limit : SrgMotor.regulate traction1 100 1023 { vf := 600, i := -10000, sat := .minus }
    = { vf := 600, i := -10000, sat := .minus, d := 0 } ∧ labourOf 0 25 = 3 := by decide

/-- 3.9: the second tick of the falling limit. -/
theorem test_falling_limit : SrgMotor.regulate traction1 2200 600 { vf := 2100, i := 31600 }
    = { vf := 2100, i := 33200, sat := .plus, d := 600 } := by decide

/-- 3.9: two motors. -/
theorem test_two_motors : filterSpeed 1000 1010 = 1002 ∧ filterSpeed 1060 1070 = 1062
    ∧ locoSpeed true ⟨{ vf := 1002 }, { vf := 1062 }⟩ = 1032 ∧ meanDuty true ⟨{ d := 420 }, { d := 437 }⟩ = 428 := by decide

/-- 6.9: the mixed output values. -/
theorem test_mixer : outputValue 6510 200 = 5085 ∧ outputValue 6510 128 = 3255 ∧ outputValue 6510 0 = 0
    ∧ outputValue (-22950) 200 = -17930 ∧ outputValue 259080 255 = 32767 := by decide

/-- 6.9: the loop returns from 384,184 to 128,184. -/
theorem test_loop : loopBack { length := 2000, loopStart := 500, loopEnd := 1500 } 384184 = 128184 := by decide

/-- 6.9: pool pressure. Below priority 5 voices 3 and 5 share the lowest priority, and voice 3 stands earlier. -/
theorem test_victim : victimOf (fun v => match v with | 2 => 3 | 3 => 1 | 4 => 6 | 5 => 1 | 6 => 4 | _ => 2) 5 [2, 3, 4, 5, 6, 7]
    = some 3 := by decide

/-- 8.10: the heater demand at 201 and 218 °C with target 220 and gain 20. -/
theorem test_heater : heaterDemand smoke1 .set 201 = 95 ∧ heaterDemand smoke1 .set 218 = 10 := by decide

/-- 8.10: the puff of a chuff of period 160 at labour 5. -/
theorem test_puff : (puffOf smoke1 0 160 5).duty = 195 ∧ (puffOf smoke1 0 160 5).length = 112 := by decide

/-- 11.5: the worked shares. -/
theorem test_share : heaterAllowance power1 1850 = 135 ∧ heaterAllowance power1 2800 = 0 ∧ heaterAllowance power1 200 = 255 := by
  decide

/-- 5.8: a virtual cam at Vl = 1000 with Kcam = 256 advances by 4000. -/
theorem test_cam : camIncrement 256 1000 = 4000 := by decide

/-- 9.7: a dimmed level of 150 with dim level 128. -/
theorem test_dim : dimLevelOf { dimLevel := 128 } true 150 = 75 ∧ dimLevelOf { dimLevel := 128 } true 110 = 55 := by decide

/-- 8.3: the worked conversions of codes 612, 570 and 541. -/
theorem test_conversion : temperatureOf 612 [(612, 150), (540, 180)] = some 150 ∧ temperatureOf 570 [(612, 150), (540, 180)] = some 167
    ∧ temperatureOf 541 [(612, 150), (540, 180)] = some 179 ∧ temperatureOf 540 [(612, 150), (540, 180)] = some 180
    ∧ temperatureOf 613 [(612, 150), (540, 180)] = none := by decide

/-! ### The commands -/

/-- READ_MEMORY wraps from 0x7FFFF to 0x00000, where the family code begins with 0xE4 (R2, R22). -/
theorem test_readMemory : after (.readMemory .one 0x7FFFF 2 []) running (fun t => t.port.out == [0, 0xE4]) = true := by decide

/-- A byte that fell due before its grant is shifted out as 0 (R3). -/
theorem test_readMemory_late : after (.readMemory .four 0 2 [1]) running (fun t => t.port.out == [0, 0x1B]) = true := by decide

/-- WRITE_MEMORY stores across a word boundary, and the second word is discarded behind an awaited grant (R3). -/
theorem test_writeMemory : after (.writeMemory .one 0x803 [1, 2] 0 []) running
    (fun t => t.mem.read 0x803 == 1 && t.mem.read 0x804 == 2) = true
    ∧ after (.writeMemory .one 0x803 [1, 2] 0 [1]) running (fun t => t.mem.read 0x803 == 1 && t.mem.read 0x804 == 0) = true := by
  decide

/-- READ_REGISTER of IDNT gives 7140, low byte first, and a number above 3 gives 0 (R2, R4). -/
theorem test_readRegister : after (.readRegister .one 3) running (fun t => t.port.out == [0xE4, 0x1B]) = true
    ∧ after (.readRegister .one 4) running (fun t => t.port.out == [0, 0]) = true := by decide

/-- An undefined command byte shifts nothing out (R2). -/
theorem test_portCommandInvalid : after (.portCommandInvalid 0xA2) running (fun t => t.port.hiZ && t.port.out == []) = true := by decide

/-- A write to IDNT is dropped (R4). -/
theorem test_registerWriteIgnored : after (.registerWriteIgnored 3 0xFFFF true) running (fun t => t == running) = true := by decide

/-- START from IDLE begins adoption with the mirror 1 (R7). -/
theorem test_start : after (.start 0) State.reset (fun t => t.exc.part == .adopting && t.mem.read 0x10 == 1 && t.rrx.link) = true := by
  decide

/-- START is refused while RUNNING (R7). -/
theorem test_start_refused : after (.start 0) running (fun t => t.exc.part == .running && t.exc.lastResult == .refused) = true := by
  decide

/-- HALT_SOFT while moving enters STOPPING with S = 0 and the source kept (R12, R31). -/
theorem test_haltSoft : after (.haltSoft 0) moving (fun t => t.exc.part == .stopping && t.drq.s == 0 && t.drq.source == .host) = true := by
  decide

/-- HALT_SOFT while standing enters HALTED at once (R12). -/
theorem test_haltSoft_standing : after (.haltSoft 0) running (fun t => t.exc.part == .halted && t.exc.nlat == 0x4000) = true := by decide

/-- HALT_HARD leaves no switch on and no duty; TURNING becomes STANDING with its timer stopped, and the chuff clock, the squeal and the lamps
take their values (R13, R62, R84, R95, R131, R156). -/
theorem test_haltHard :
    after (.haltHard 0) moving (fun t => t.exc.part == .halted && (t.chan .a).dead && t.srg.r == 0) = true
    ∧ after (.haltHard 0)
      { moving with
        srg := { moving.srg with traction := .turning, turnTimer := some 9, motors := ⟨{ i := 7, sat := .plus, d := 5, vf := 3 }, {}⟩ },
        bfu := { moving.bfu with slip := .slipping, faster := some .a }, chk := { moving.chk with acc := 5, lostTimer := some 7 },
        snd := { moving.snd with squeal := .sounding }, lgt := { moving.lgt with lamps := Octet.rep { phase := 3, fade := 7, flash := 9 } } }
      (fun t => t.srg.traction == .standing && t.srg.turnTimer == none && t.srg.motors.a == { vf := 3 } && t.bfu.slip == .normal
        && t.chk.acc == 65535 && t.chk.lostTimer == none && t.snd.squeal == .silent && t.lgt.timer == false && t.lgt.lamps.e0 == {}) = true := by
  decide +kernel

/-- RESET keeps NEN and sets CLEARING (R23). -/
theorem test_reset : after (.reset 0) { running with exc := { running.exc with nen := 5, nlat := 7 } } (fun t =>
    t.exc.part == .idle && t.exc.nen == 5 && t.exc.nlat == 0 && t.exc.clearing && t.exc.lastCmd == 4) = true := by decide

/-- A reserved code is recorded and refused (R4). -/
theorem test_pctlReservedCommand : after (.pctlReservedCommand 6 0) running (fun t =>
    t.exc.lastCmd == 6 && t.exc.lastResult == .refused) = true := by decide

/-- A kind written 1 is cleared, and the others stay (R5). -/
theorem test_nlatWrite : after (.nlatWrite 0x0001) { running with exc := { running.exc with nlat := 3 } } (fun t => t.exc.nlat == 2) = true := by
  decide

/-- ATTN goes low when a latched kind is enabled (R5). -/
theorem test_nenWrite : after (.nenWrite 0x8002) { running with exc := { running.exc with nlat := 3 } } (fun t =>
    t.exc.nen == 2 && t.attnLow) = true := by decide

/-- The sound engine's descriptor read comes before an awaited port write (R6). -/
theorem test_arbiterGrant : after .arbiterGrant
    { running with
      port := { awaiting := some [(0x2000, 9)] },
      snd := { running.snd with current := some { req := ⟨.pool, .key, 0, 256, 9, 0, 0, false, false⟩ } } }
    (fun t => t.port.awaiting.isSome && t.mem.read 0x2000 == 0) = true := by decide

/-- After a power-on reset the identity stands in the directory (R22). -/
theorem test_powerOnReset : after .powerOnReset moving (fun t => t.exc.clearing && t.mem.readLe 0 2 == 7140 && t.srg.r == 0) = true := by
  decide

/-- The clearing ends (R22). -/
theorem test_memoryClearDone : after .memoryClearDone { State.reset with exc := { clearing := true } } (fun t => t == State.reset) = true := by
  decide

/-- A TRACTION group of zeros is refused at index 0, and the part goes back to IDLE (R9, R64). -/
theorem test_adoptionGroupRead : after .adoptionGroupRead (adopting 1) (fun t =>
    t.exc.part == .idle && t.mem.readBytes 0x11 4 == [2, 1, 0, 1] && t.exc.nlat == 1) = true := by decide

/-- A scan of an empty exchange advances the millisecond count (R14). -/
theorem test_scanTimer : after .scanTimer running (fun t => t.exc.ms == 1 && t.mem.readLe 0x0C 4 == 1) = true := by decide

/-- A posted setpoint of 300 su, REVERSE and IMMEDIATE, is taken (R15, R16). -/
theorem test_scanTimer_slot : after .scanTimer (put running [(0x500, 18), (0x502, 0x2C), (0x503, 1), (0x504, 1)]) (fun t =>
    t.drq.s == 300 && t.drq.dir == .reverse && t.drq.source == .host && t.mem.read 0x15 == 18 && t.mem.read 0x16 == 2) = true := by decide

/-- Held scan work starts (R14). -/
theorem test_scanWorkDeferred : after .scanWorkDeferred { running with exc := { running.exc with scanHeld := true } } (fun t =>
    t == running) = true := by decide

/-- An AT_CHUFF post withdrawn since becomes EMPTY (R15). -/
theorem test_atChuffSlotTake : after .atChuffSlotTake
    { running with exc := { running.exc with chuffHeld := true, slotState := .pending } } (fun t =>
    t.exc.slotState == .empty && t.exc.nlat == 0) = true := by decide

/-- A record of the tests, with a payload of two bytes. -/
def record1 : InboxRecord :=
  { verdict := .acted, kind := 1, sender := 291, seq := 40, length := 2, target := 42, time := 1000, signal := 60, payload := [80, 1] }

/-- A frame is recorded, and its buffer is free (R20). -/
theorem test_inboxWrite : after .inboxWrite
    { running with exc := { running.exc with inboxQueue := [⟨record1, .one⟩] }, rrx := { running.rrx with buf1 := some [] } } (fun t =>
    t.exc.inboxPut == 1 && t.mem.readBytes 0xC00 15 == [1, 1, 0x23, 1, 40, 2, 42, 0, 0xE8, 3, 0, 0, 60, 80, 1] && t.rrx.buf1 == none) = true := by
  decide +kernel

/-- A full inbox latches INBOX_FULL (R20). -/
theorem test_inboxWrite_full : after .inboxWrite
    { running with exc := { running.exc with inboxPut := 32, inboxQueue := [⟨record1, .one⟩] } } (fun t =>
    t.exc.inboxPut == 32 && t.exc.nlat == 0x40) = true := by decide +kernel

/-- While the inbox writer and the board writer wait together they are granted in turn, the board first (R6): nine grants of the one
come with nine of the other. -/
theorem test_inboxWrite_contended : after .inboxWrite
    { running with exc := { running.exc with inboxQueue := [⟨record1, .one⟩], board := some 0, boardGen := 1 } } (fun t =>
    t.exc.inboxPut == 1 && t.exc.board == some 9 && t.mem.read 0x100 == 1) = true := by decide +kernel

/-- A board write begins with an odd generation (R21). -/
theorem test_boardTimer : after .boardTimer running (fun t => t.exc.boardGen == 1 && t.exc.board == some 0) = true := by decide

/-- A board write that waited begins (R21). -/
theorem test_boardWriteDeferred : after .boardWriteDeferred { running with exc := { running.exc with boardHeld := true, boardGen := 2 } }
    (fun t => t.exc.boardGen == 3 && !t.exc.boardHeld) = true := by decide

/-- A refused adoption from IDLE abandons a board write, and its odd generation moves on to the even one (log entry 40, the model's
choice). -/
theorem test_board_abandoned :
    after .adoptionGroupRead
      { adopting 1 with exc := { (adopting 1).exc with
          adoption := some { fromHalted := false, group := 1, words := List.replicate 13 0, values := {} }, board := some 9,
          boardGen := 3 } }
      (fun t => t.exc.part == .idle && t.exc.board == none && t.exc.boardGen == 4) = true := by decide +kernel

/-- From rest with S = 130 the first tick enters MOVING at R = 40 (3.10). -/
theorem test_regulationTimer : after .regulationTimer { running with drq := { source := .host, origin := .speedUnits 130, s := 130 } } (fun t =>
    t.srg.traction == .moving && t.srg.r == 40 && t.bfu.window == some ⟨.settling, none⟩) = true := by decide

/-- The other direction requested while moving enters TURNING, and R falls (R54). -/
theorem test_regulationTimer_turn : after .regulationTimer { moving with drq := { moving.drq with dir := .reverse } } (fun t =>
    t.srg.traction == .turning && t.srg.r == 1140 && t.srg.bridgeDir == .forward) = true := by decide

/-- The conversions begin (R72). -/
theorem test_settleTimeElapsed : after .settleTimeElapsed { moving with bfu := { moving.bfu with window := some ⟨.settling, none⟩ } } (fun t =>
    t.converting) = true := by decide

/-- The turn timeout mark is set (R56). -/
theorem test_turnTimeout : after .turnTimeout { moving with srg := { moving.srg with turnTimer := some 0 } } (fun t =>
    t.srg.turnMark && t.srg.turnTimer == none) = true := by decide

/-- A raised duty is applied at the period start, in DRIVE (R69, R71). -/
theorem test_pwmPeriodStart : after .pwmPeriodStart
    { moving with bfu := { moving.bfu with chans := ⟨{ (moving.chan .a) with raised := some 429 }, moving.chan .b⟩ } } (fun t =>
    (t.chan .a).duty == 429 && (t.chan .a).mode == .drive && (t.chan .b).mode == .off) = true := by decide

/-- A delayed turn-on takes place (R70). -/
theorem test_deadTimeElapsed : after (.deadTimeElapsed .a .leg1)
    { moving with bfu := { moving.bfu with chans := ⟨{ leg1 := { delayed := some .high } }, {}⟩ } } (fun t =>
    (t.chan .a).leg1.high && !(t.chan .a).leg1.low) = true := by decide

/-- A sample of 100 counts is 800 mA (R74). -/
theorem test_currentSample : after (.currentSample .a 100 .forward) moving (fun t => (t.chan .a).sum == 800 && (t.chan .a).count == 1) = true := by
  decide +kernel

/-- The limit comparator ends the on interval, and both legs are off under COAST (R75). -/
theorem test_cbcLimit : after (.cbcLimit .a) moving (fun t =>
    (t.chan .a).cbcMark && !(t.chan .a).conducts && (t.chan .a).phase == .limited) = true := by decide +kernel

/-- A short trips SHORT_A (R77, R79). -/
theorem test_shortDetected : after (.shortDetected .a) moving (fun t =>
    t.bfu.trip == .shortA && t.srg.traction == .tripped && t.exc.nlat == 0x80) = true := by decide +kernel

/-- The active level of DRVFLT trips DRIVER (R78). -/
theorem test_drvfltQualified : after (.drvfltQualified .low) moving (fun t => t.bfu.trip == .driver) = true
    ∧ after (.drvfltQualified .high) moving (fun t => t.bfu.trip == .none) = true := by decide

/-- 5.3: the third high sample makes a rising edge, a sensor event and a chuff (R86, R87, R93). -/
theorem test_axsSample : after (.axsSample .high) { moving with chk := { moving.chk with level := some .low, run := 2 } } (fun t =>
    t.chk.level == some .high && t.chk.run == 0 && t.chk.count == 1 && t.chk.lastChuff == 65535) = true := by decide

/-- The lost timer's expiry latches SENSOR_LOST (R90). -/
theorem test_lostTimerExpiry : after .lostTimerExpiry { moving with chk := { moving.chk with lostTimer := some 0 } } (fun t =>
    t.chk.source == .sensorLost && t.exc.nlat == 0x800) = true := by decide

/-- A voice of the tests that loops on one clip. -/
def voice1 : Voice :=
  { state := .looping, clip := 5, copy := { start := 0x3000, length := 2000, loopStart := 500, loopEnd := 1500, gain := 255 },
    pos := 383800, pitch := 384, volume := 255, priority := 1, tag := 0x10 }

/-- 6.9: sample 1499 is read and the position returns to 128,184 (R106, R107). -/
theorem test_outputSampleTimer : after .outputSampleTimer (put (running.setVoice 2 voice1) [(0x35DB, 0xA6)]) (fun t =>
    (t.voice 2).pos == 128184 && t.snd.out == -17930) = true := by decide +kernel

/-- 6.9: released, the voice reaches its clip end, and its end record is made (R110, R111). -/
theorem test_outputSampleTimer_end : after .outputSampleTimer
    (running.setVoice 2 { voice1 with state := .released, pos := 511800 }) (fun t =>
    !(t.voice 2).active && t.snd.endList.e0 == ⟨0x10, .playedOut, 2⟩ && t.snd.endCount == 1) = true := by decide

/-- The modulator takes the value handed last, and SPKP is high for 32,775 of 65,536 parts of the carrier period (R114). -/
theorem test_carrierPeriodStart : after .carrierPeriodStart { running with snd := { running.snd with modIn := 7 } } (fun t =>
    t.snd.modNow == 7 && t.spkpHigh == 32775 && t.spknHigh == 32761) = true ∧ halted.spkpHigh = 32768
    ∧ State.reset.spkpHigh = 0 ∧ State.reset.spknHigh = 0 := by decide

/-- A POOL start of the tests. -/
def request1 : StartReq := ⟨.pool, .key, 5, 256, 200, 3, 0, false, false⟩

/-- The oldest start begins (R101). -/
theorem test_startBegin : after .startBegin { running with snd := { running.snd with queue := [request1] } } (fun t =>
    t.snd.queue == [] && t.snd.current == some { req := request1 }) = true := by decide

/-- Descriptor words of the tests: start 0x3000, length 16, no loop, gain 255. -/
def words1 : List Word := [0x3000, 16, 0xFF000000, 0]

/-- A valid start takes voice 2, the lowest free pool voice (R104). -/
theorem test_startDecided : after .startDecided { running with snd := { running.snd with current := some { req := request1, words := words1 } } }
    (fun t => (t.voice 2).state == .playing && (t.voice 2).priority == 3 && t.snd.order == [2] && t.snd.current == none) = true := by decide

/-- A descriptor of length 0 refuses the start (R98). -/
theorem test_startDecided_bad : after .startDecided
    { running with snd := { running.snd with current := some { req := request1, words := [0x3000, 0, 0, 0] } } }
    (fun t => t.snd.order == [] && t.snd.current == none) = true := by decide

/-- A part whose squeal condition holds. -/
def squealing : State :=
  { moving with srg := { moving.srg with labour := 2, vl := 100 }, snd := { moving.snd with squealDue := true } }

/-- The squeal starts (R130). -/
theorem test_squealCheck : after .squealCheck squealing (fun t => t.snd.squeal == .sounding && t.snd.queue.length == 1) = true := by decide

/-- Without a check due nothing happens (R129), and the 160th output sample makes one due. -/
theorem test_squealCheck_due :
    after .squealCheck { squealing with snd := { squealing.snd with squealDue := false } } (fun t => t.snd.squeal == .silent) = true
    ∧ after .outputSampleTimer { moving with snd := { moving.snd with squealCount := 158 } } (fun t => !t.snd.squealDue) = true
    ∧ after .outputSampleTimer { moving with snd := { moving.snd with squealCount := 159 } } (fun t =>
      t.snd.squealDue && t.snd.squealCount == 0) = true := by decide

/-- A part that smokes at 201 °C. -/
def smoking : State :=
  { running with
    drq := { smokeEnable := true },
    smk := { running.smk with enable := true, state := .ready, target := .set, temp := 201, fan := 40 } }

/-- 8.10: at 218 °C the heater duty is 10, and one unit of fluid is used. -/
theorem test_smokeTimer : after (.smokeTimer 308) smoking (fun t => t.smk.heater == 10 && t.smk.fluid == 599 && t.smk.temp == 218) = true := by
  decide

/-- A code above the table latches the fault (R134). -/
theorem test_smokeTimer_fault : after (.smokeTimer 801) smoking (fun t => t.smk.state == .sensorFault && t.exc.nlat == 0x1000) = true := by decide

/-- A part with a puff in its kick. -/
def puffing : State := { smoking with smk := { smoking.smk with puff := some ⟨0, 30, 112, 195, false⟩, fan := 255 } }

/-- The fan drops to the puff duty (R142). -/
theorem test_kickEnd : after .kickEnd puffing (fun t => t.smk.fan == 195) = true := by decide

/-- The fan returns to its idle duty (R142). -/
theorem test_puffEnd : after .puffEnd puffing (fun t => t.smk.fan == 40 && t.smk.puff == none) = true := by decide

/-- A part whose output 6 flickers and whose output 7 flashes on function 1 (9.7). -/
def lit : State :=
  { running with
    drq := { functions := 2 },
    cfg := { groups1 with lights := { groups1.lights with
      e6 := { effect := .flicker 60, level := 200 }, e7 := { binding := some 1, effect := .chuffFlash 20 3, level := 255 } } } }

/-- 9.7: L6 is 121 and L7 is 20 at the first expiry. -/
theorem test_effectTimer : after .effectTimer lit (fun t => t.lgt.lamps.e6.level == 121 && t.lgt.lamps.e7.level == 20) = true := by
  decide +kernel

/-- The lamp's PWM takes the level last set: on for 9 of 256 parts, and for the whole period at 255 (R155). -/
theorem test_lampPwmPeriodStart : after (.lampPwmPeriodStart 3)
    { running with lgt := { running.lgt with lamps := running.lgt.lamps.set 3 { level := 9 } } } (fun t =>
    t.lgt.lamps.e3.pwm == 9 && t.lgt.lamps.e3.onShare == 9 && t.lgt.lamps.e2.onShare == 0) = true
    ∧ ({ pwm := 255 } : Lamp).onShare = 256 := by decide

/-- A frame takes buffer 1, and one within 50 µs of the last end is marked for OVERRUN (R159). -/
theorem test_frameBegin : after (.frameBegin 100) running (fun t => t.rrx.frame == some (.stored .one)) = true
    ∧ after (.frameBegin 100) { running with rrx := { running.rrx with lastEnd := some 51 } } (fun t =>
      t.rrx.frame == some .overrun) = true := by decide

/-- A part with a frame in buffer 1. -/
def hearing : State := { running with rrx := { running.rrx with frame := some (.stored .one), buf1 := some [] } }

/-- A THROTTLE frame of 100 FORWARD from 291 to unit 42: 11 body bytes with their check, and the signal strength. -/
def frame1 : List Byte :=
  let body : List Byte := [11, 1, 35, 40, 0, 42, 1, 100, 0]
  body ++ [(crc16 body >>> 8).setWidth 8, (crc16 body).setWidth 8, 60]

/-- The frame makes 291 the holder with throttle 100, the curve value 200 (R166, R26). -/
theorem test_frameArrival : after (.frameArrival 900 96 frame1) hearing (fun t =>
    t.rrx.holder == some ⟨291, 0⟩ && t.drq.source == .radio && t.drq.s == 200 && t.exc.inboxQueue.length == 1) = true := by
  decide +kernel

/-- A wrong check discards the frame with reason CHECK (R160). -/
theorem test_frameArrival_check : after (.frameArrival 900 96 (frame1.set 10 0x55)) hearing (fun t =>
    t.rrx.discard == .check && t.rrx.buf1 == none && t.exc.inboxQueue == []) = true := by decide +kernel

/-- A part that radio drives. -/
def held : State :=
  { moving with
    drq := { moving.drq with source := .radio }, rrx := { moving.rrx with holder := some ⟨291, 0⟩, failsafe := some 0 } }

/-- The failsafe stops the locomotive (R32, R167). -/
theorem test_failsafeExpiry : after .failsafeExpiry held (fun t =>
    t.rrx.holder == none && t.drq.source == .failsafe && t.drq.s == 0 && t.exc.nlat == 0x200) = true := by decide

/-- 11.7: the second sample below VOFF enters HOLDUP with 400 ms (R174). -/
theorem test_supplyTimer : after (.supplyTimer 7500 14000) { moving with sup := { moving.sup with loss := 1, lean := 1 } } (fun t =>
    t.sup.state == .holdup && t.sup.holdup == some 400 && t.exc.nlat == 0x2000) = true := by decide

/-- 11.7: a sample at VLEAN clears the run counts (R174). -/
theorem test_supplyTimer_good : after (.supplyTimer 12000 14000) { moving with sup := { moving.sup with loss := 1, lean := 2 } } (fun t =>
    t.sup.state == .normal && t.sup.loss == 0 && t.sup.lean == 0) = true := by decide

/-- A part in hold-up. -/
def bridging : State := { moving with sup := { moving.sup with state := .holdup, holdup := some 0 } }

/-- The hold-up timer's expiry makes the supply DARK and stops the locomotive with S kept (R61, R175). -/
theorem test_holdupTimerExpiry : after .holdupTimerExpiry bridging (fun t =>
    t.sup.state == .dark && t.srg.traction == .standing && t.srg.r == 0 && t.drq.s == 1200) = true := by decide +kernel

/-- 11.5: at 1850 mA the heater allowance is 135 (R178). -/
theorem test_shareTimer : after .shareTimer
    { moving with
      bfu := { moving.bfu with chans := ⟨{ (moving.chan .a) with avg := 1850 }, {}⟩ }, smk := { moving.smk with heater := 200 } } (fun t =>
    t.sup.hlim == 135 && t.smk.heater == 135) = true := by decide

/-! ### The hypotheses of the obligations are met -/

/-- A scan of the tests waits for a PLAY cue's start, whose descriptor has been read. -/
def waiting : State :=
  { running with
    exc := { running.exc with scan := some ⟨1, 0, none⟩ },
    snd := { running.snd with current := some { req := { request1 with asker := .playCue }, words := words1 } } }

/-- A moving part with a command waiting. -/
def stepping : State := { moving with pending := [.regulationTimer] }

theorem witness_StepRunsFrontCommand : running.pending = [] := rfl

theorem witness_CommandsKeepQueue : waiting.scanQuiet ∧ ∃ t, exec .startDecided waiting = .next t :=
  ⟨by intro w h; cases h; rfl, _, rfl⟩

theorem witness_StepsKeepMemory : stepping.memOk ∧ ∃ t, step stepping = .next t :=
  ⟨⟨by decide, by intro q h; cases h⟩, _, rfl⟩

theorem witness_StepsPreventShootThrough : stepping.noShootThrough ∧ ∃ t, step stepping = .next t :=
  ⟨⟨by decide, by decide⟩, _, rfl⟩

theorem witness_StepsKeepHeater : smoking.adoptionOk ∧ smoking.HeaterOk ∧ ∃ t, step { smoking with pending := [.smokeTimer 308] } = .next t :=
  ⟨by unfold State.adoptionOk; decide, ⟨by decide, by decide, by decide, by decide, by decide⟩, _, rfl⟩

theorem witness_StepsKeepTrip : stepping.tripOk ∧ stepping.restOk ∧ (∃ t, step stepping = .next t)
    ∧ (let s := { stepping with exc := { stepping.exc with part := .stopping } }
      s.exc.part = .stopping ∧ s.stoppingOk ∧ ∃ t, step s = .next t) :=
  ⟨by unfold State.tripOk; decide, by unfold State.restOk; decide, ⟨_, rfl⟩, rfl, fun _ => by decide, _, rfl⟩

theorem witness_StepsKeepUndriven : stepping.adoptionOk ∧ (stepping.quiet → stepping.undriven) ∧ ∃ t, step stepping = .next t :=
  ⟨by unfold State.adoptionOk; decide, by unfold State.quiet State.undriven; decide, _, rfl⟩

/-- A part with one tagged pool voice. -/
def sounding : State := { (running.setVoice 2 voice1) with snd := { (running.setVoice 2 voice1).snd with order := [2] } }

theorem witness_StepsKeepStartOrder : sounding.orderOk ∧ sounding.tagsOk
    ∧ ∃ t, step { sounding with pending := [.outputSampleTimer] } = .next t :=
  ⟨⟨by decide, by decide⟩, ⟨by decide, by decide, by decide +kernel⟩, _, rfl⟩

/-- A moving part whose board writer stands before word `k`. -/
def boarding (k : Nat) : State := { moving with exc := { moving.exc with board := some k, boardGen := 7 } }

theorem witness_StepsKeepHolderFlickerBoard : held.holderOk ∧ held.lfsrOk ∧ (∃ t, step { held with pending := [.failsafeExpiry] } = .next t)
    ∧ (boarding 256).boardOk ∧ ∃ t, step { boarding 256 with pending := [.arbiterGrant] } = .next t :=
  ⟨by unfold State.holderOk; decide, by unfold State.lfsrOk; decide, ⟨_, rfl⟩, by unfold State.boardOk; decide, _, rfl⟩

theorem witness_HaltedLeftOnlyByCommand : halted.adoptionOk ∧ halted.exc.part = .halted
    ∧ ∃ t, exec (.start 0) halted = .next t ∧ t.exc.part ≠ .halted :=
  ⟨by unfold State.adoptionOk; decide, rfl, _, rfl, by decide⟩

/-- A standing part for which REVERSE is requested. -/
def turning : State := { running with drq := { running.drq with dir := .reverse } }

theorem witness_BridgeTurnsOnlyAtTick : turning.adoptionOk ∧ turning.restOk ∧ turning.exc.part.driving = true
    ∧ ∃ t, exec .regulationTimer turning = .next t ∧ t.exc.part.driving = true ∧ t.srg.bridgeDir ≠ turning.srg.bridgeDir :=
  ⟨by unfold State.adoptionOk; decide, by unfold State.restOk; decide, rfl, _, rfl, by decide, by decide⟩

/-- A part while its exchange memory is being cleared. -/
def clearing : State := { State.reset with exc := { clearing := true } }

theorem witness_PortTransactions :
    (∀ x ∈ [((0xA1 : Byte), 1, 0xA), (0xB4, 4, 0xB), (0xC1, 1, 0xC), (0xD4, 4, 0xD)], x.1.toNat % 16 = x.2.1 ∧ x.1.toNat / 16 = x.2.2)
    ∧ (transaction [0xD1, 0, 1, 0]).bytes = 0xD1 :: 0 :: 1 :: 0 :: [] ∧ 3 ≤ (3 : Byte).toNat ∧ ([0] : List Byte).length < 2
    ∧ ((0xA2 : Byte).toNat % 16 ≠ 1 ∧ (0xA2 : Byte).toNat % 16 ≠ 4) ∧ (0x91 : Byte).toNat / 16 < 0xA ∧ 0xD < (0xE4 : Byte).toNat / 16
    ∧ running.pending = [] ∧ (transaction [0xD1, 0, 1, 0]).command = some (.start 0) := by decide

theorem witness_ReadMemoryDelivers : running.exc.clearing = false ∧ 0 < 1 ∧ running.soundWaits = false ∧ clearing.exc.clearing = true
    ∧ clearing.port.awaiting = none ∧ clearing.soundWaits = false := by decide

theorem witness_WriteMemoryStores : running.exc.clearing = false ∧ running.port.awaiting = none ∧ running.soundWaits = false
    ∧ clearing.exc.clearing = true ∧ (0x07FFF8 : BitVec 24).toNat % 4 = 0 := by decide

/-- A transaction without data whose awaited write is granted: the descriptor word of a waiting start is read first (R6), from the byte that
the write then changes (R3); with the grant still to come nothing is written, and without a write awaited no one is granted anything. -/
theorem test_writeMemory_awaited :
    let s := { running with port := { awaiting := some [(0x2050, 9)] }, snd := { running.snd with current := some { req := request1 } } }
    after (.writeMemory .one 0x3000 [] 0 []) s (fun t => t.mem.read 0x2050 == 9 && t.port.awaiting == none
      && t.snd.current == some { req := request1, words := [0, 0, 0, 0] }) = true
    ∧ after (.writeMemory .one 0x3000 [] 0 [1]) s (fun t => t.mem.read 0x2050 == 0 && t.port.awaiting.isSome) = true
    ∧ after (.writeMemory .one 0x3000 [] 0 []) { s with port := {} } (fun t => t.soundWaits) = true := by decide +kernel

theorem witness_RegisterReadsAndWrites : (3 : Byte) = 3 ∧ 3 < (4 : Byte).toNat ∧ (2 : Byte) = 2 ∧ (1 : Byte) = 1 ∧ (0 : Byte) = 0
    ∧ running.exc.clearing = false := by decide

theorem witness_RefusedAndDroppedCommands : running.exc.clearing = false ∧ running.exc.part ≠ .idle ∧ running.exc.part ≠ .halted
    ∧ halted.exc.clearing = false ∧ halted.exc.part ≠ .running ∧ halted.exc.part ≠ .stopping ∧ clearing.exc.clearing = true := by decide

theorem witness_StartBeginsAdoption : running.mem.wf = true ∧ State.reset.exc.clearing = false ∧ State.reset.exc.part = .idle
    ∧ halted.mem.wf = true ∧ halted.exc.clearing = false ∧ halted.exc.part = .halted ∧ State.reset.mem.wf = true := by decide

theorem witness_HaltsStopOrHalt : (moving.mem.wf = true ∧ moving.scanQuiet ∧ moving.exc.clearing = false ∧ moving.exc.part = .running
      ∧ moving.srg.traction.ends = false ∧ moving.sup.state ≠ .dark)
    ∧ moving.exc.scan = none ∧ moving.exc.part.driving = true ∧ running.mem.wf = true ∧ running.exc.scan = none
    ∧ running.exc.clearing = false ∧ running.exc.part = .running ∧ running.srg.traction.ends = true
    ∧ { moving.sup with state := .dark }.state = .dark :=
  ⟨⟨by decide, (by intro w h; cases h), rfl, rfl, rfl, by decide⟩, by decide⟩

theorem witness_ResetValues : moving.exc.clearing = false := rfl

/-- Groups that pass (LIGHTS of zeros) and that fail with each of the four reasons, at the first index and behind others that pass. -/
theorem witness_GroupChecks : (∀ c ∈ groupChecks 7 (List.replicate 128 0), c.2 = none)
    ∧ (∃ behind, groupChecks 1 [] = [] ++ (0, some .outOfRange) :: behind)
    ∧ (∃ behind, groupChecks 2 [2, 0, 1, 0] = [(0, none)] ++ (1, some .notMonotonic) :: behind)
    ∧ (∃ behind, groupChecks 9 [0x10, 0x27, 0x10, 0x27] = [(0, none)] ++ (1, some .inconsistent) :: behind)
    ∧ (∃ ahead behind, groupChecks 8 [42, 0, 0, 0, 0, 0, 0, 0, 0xF4, 1, 5, 0, 0, 0, 5, 0] = ahead ++ (7, some .duplicate) :: behind
      ∧ ∀ c ∈ ahead, c.2 = none) :=
  ⟨by decide +kernel, ⟨_, rfl⟩, ⟨_, rfl⟩, ⟨_, rfl⟩,
    [(0, none), (1, none), (2, none), (3, none), (4, none), (5, none), (6, none)], _, rfl, by decide⟩

/-- Little-endian 16-bit parameters. -/
def params (l : List Nat) : List Byte := l.flatMap fun n => [BitVec.ofNat 8 n, BitVec.ofNat 8 (n / 256)]

/-- A TRACTION group with Treg 7, T1 at the standstill threshold, T2 above 4095, T3 below it, and the short level at the limit. -/
def params1 : List Byte :=
  params [1, 7, 40, 60, 64, 640, 256, 512, 16, 1023, 40, 40, 5000, 1000, 1, 10, 0, 100, 2000, 0, 2000, 4, 0, 100, 3, 20]

/-- Two LIGHTS programs, ALTERNATE with one another at one period. -/
def pair1 : List Byte := [255, 0, 0, 2, 9, 255, 0, 1, 4, 0, 0, 0, 0, 0, 0, 0, 255, 0, 0, 2, 9, 255, 0, 0, 4]

/-- Parameters at and beyond a bound, each with the index and the reason of its own failure: TRACTION as above; an unlisted FUNCTIONS target
below its count; squeal low above squeal high and chuff clips below and beyond their count; a code and a temperature of SMOKE out of order;
LIGHTS with another period and another partner; RADIO rights of an entry that is not empty, and of one that is. -/
theorem test_groupChecks_indexes :
    (∀ x ∈ [(1, params1, 1, some GroupReason.outOfRange), (1, params1, 10, none), (1, params1, 11, some .inconsistent),
        (1, params1, 12, some .outOfRange), (1, params1, 13, some .notMonotonic), (1, params1, 20, some .inconsistent),
        (3, [0, 0, 0, 0, 0, 0, 0, 0, 1, 9, 9], 6, some .outOfRange), (3, [0, 0, 0, 0, 0, 0, 0, 0, 1, 9, 9], 7, none),
        (4, params [0, 0, 0, 2, 1], 7, some .inconsistent), (4, List.replicate 0x60 0 ++ [1, 128, 255], 81, some .outOfRange),
        (4, List.replicate 0x60 0 ++ [1, 128, 255], 82, none), (6, List.replicate 24 0 ++ params [7, 5, 7, 5], 14, some .notMonotonic),
        (6, List.replicate 24 0 ++ params [7, 5, 7, 5], 15, some .notMonotonic), (7, pair1.set 24 5, 17, some .inconsistent),
        (7, pair1.set 23 2, 16, some .inconsistent), (8, params [1, 0, 0, 0, 200, 9, 3, 0, 3], 6, some .outOfRange),
        (8, params [1, 0, 0, 0, 200, 9, 3, 0, 3], 8, none)],
      (groupChecks x.1 x.2.1)[x.2.2.1]? = some (x.2.2.1, x.2.2.2))
    ∧ ∀ c ∈ groupChecks 7 (pair1 ++ List.replicate 103 0), c.2 = none := by decide +kernel

/-- A valid LIGHTS group, all bytes 0: eight outputs STEADY at level 0; and an empty TRACTION group, from IDLE and from HALTED. -/
theorem witness_AdoptionGroupRead : (adopting 7).exc.adoption.isSome = true ∧ (7 : Nat) ≠ 9 ∧ (adopting 7).lowerWaits = false
    ∧ (∃ g, validateGroup 7 (bytesOf ([] ++ (adopting 7).mem.readWords (groupBase 7 + 4 * 0) (groupWords 7 - 0))) {} = .valid g)
    ∧ (adopting 1).mem.wf = true ∧ (adopting 1).scanQuiet ∧ (adopting 1).exc.adoption.isSome = true ∧ (adopting 1).lowerWaits = false
    ∧ validateGroup 1 (bytesOf ([] ++ (adopting 1).mem.readWords (groupBase 1 + 4 * 0) (groupWords 1 - 0))) {}
      = .refused 0 .outOfRange
    ∧ (let a : Adoption := { fromHalted := true, group := 1, words := List.replicate 13 0, values := {} }
      let s := { boarding 3 with exc := { (boarding 3).exc with part := .adopting, adoption := some a } }
      s.exc.adoption = some a ∧ s.adoptionWaits = false ∧ a.fromHalted = true) :=
  ⟨rfl, by decide, by decide, ⟨_, rfl⟩, by decide, (by intro w h; cases h), rfl, by decide, rfl, by decide⟩

/-- The part adopting with a valid POWER group in exchange memory, its lowest lean and return levels among the values. -/
def powering : State :=
  put (adopting 9) (leCells 0x1C00 2 1001 ++ leCells 0x1C02 2 1000 ++ leCells 0x1C04 2 1001 ++ leCells 0x1C06 2 2
    ++ leCells 0x1C18 2 100)

theorem witness_AdoptionAccepted : powering.mem.wf = true ∧ powering.exc.scan = none ∧ powering.exc.adoption.isSome = true
    ∧ powering.sup.holdup = none ∧ powering.lowerWaits = false
    ∧ ∃ g, validateGroup 9 (bytesOf ([] ++ powering.mem.readWords (groupBase 9 + 4 * 0) (groupWords 9 - 0))) {} = .valid g
        ∧ powering.bfu.drvflt ≠ some g.traction.polarity :=
  ⟨by decide +kernel, rfl, rfl, rfl, by decide, _, rfl, by decide⟩

/-- At the acceptance the background clip is asked for with the supply NORMAL or LEAN alone, and the smoke state is SHED outside NORMAL
(R127, R136). -/
theorem witness_AdoptionAccepted_background : ∀ x ∈ [(Supply.normal, 1, SmokeState.off), (.lean, 1, .shed), (.holdup, 0, .shed), (.dark, 0, .shed)],
    after .adoptionGroupRead
      { powering with
        exc := { powering.exc with adoption := some { fromHalted := false, group := 9, words := [], values := groups1 } },
        sup := { powering.sup with state := x.1 } } (fun t =>
      t.exc.part == .running && t.snd.queue.length == x.2.1 && t.smk.state == x.2.2) = true := by decide +kernel

/-- At the acceptance a DRVFLT active under the new polarity trips DRIVER (R78), and a hold-up timer that the new hold-up time leaves nothing
expires (R180); a link's table, holder and discard reason are gone (R161, R163, R166). -/
theorem test_adoptionGroupRead_faults :
    let s := { powering with
      exc := { powering.exc with adoption := some { fromHalted := true, group := 9, words := [], values := groups1 } },
      rrx := { powering.rrx with
        table := Octet.rep (some ⟨9, 1, 600⟩), holder := some ⟨5, 0⟩, failsafe := some 4, discard := .long }, bfu := { drvflt := some .low, trip := .shortA },
      sup := { powering.sup with state := .holdup, holdup := some 4 } }
    after .adoptionGroupRead s (fun t => t.bfu.trip == .driver && t.srg.traction == .tripped && t.exc.nlat == 0x2081 && t.sup.state == .dark
      && t.sup.holdup == none && t.rrx.holder == none && t.rrx.table == Octet.rep none && t.rrx.discard == .none && t.lgt.lfsr == 0xACE1) = true
    ∧ after .adoptionGroupRead { s with bfu := { drvflt := some .high } } (fun t => t.bfu.trip == .none && t.srg.traction == .standing
      && t.exc.nlat == 0x2001) = true := by decide +kernel

/-- A part with every class of requester waiting but the sound engine. -/
def contending : State :=
  { running with
    exc := { running.exc with board := some 0, inboxQueue := [⟨record1, .one⟩] }, port := { awaiting := some [(0x2000, 9)] } }

theorem witness_GrantOrder :
    (∃ w : StartWork, w.words.length < 4 ∧ { running with snd := { running.snd with current := some w } }.snd.current = some w)
    ∧ contending.soundWaits = false ∧ contending.port.awaiting.isSome = true
    ∧ (adopting 9).soundWaits = false ∧ (adopting 9).port.awaiting = none ∧ (adopting 9).exc.board = none ∧ (adopting 9).inboxWaits = false
    ∧ (adopting 9).adoptionWaits = true ∧ running.adoptionWaits = false
    ∧ (let s := { contending with port := {} }
      s.soundWaits = false ∧ s.port.awaiting = none ∧ s.exc.board = some 0 ∧ s.inboxWaits = true ∧ s.exc.class3Last ≠ some .board)
    ∧ { contending.exc with class3Last := some .board }.class3Last = some .board
    ∧ (∀ step ∈ [({} : InboxProgress), ⟨some 31, 0⟩, ⟨some 0, 7⟩],
      let s := { running with exc := { running.exc with inboxQueue := [⟨record1, .one⟩], inboxStep := step } }
      s.mem.wf = true ∧ s.soundWaits = false ∧ s.port.awaiting = none ∧ s.exc.board = none ∧ s.exc.inboxQueue = [⟨record1, .one⟩])
    ∧ contending.lowerWaits = true ∧ contending.exc.part ≠ .idle ∧ contending.exc.scan = none ∧ contending.exc.part = .running
    ∧ { contending.exc with scanHeld := true, chuffHeld := true }.scanHeld = true
    ∧ (let s := { adopting 9 with exc := { (adopting 9).exc with board := some 0 } }
      s.lowerWaits = true ∧ s.adoptionWaits = true)
    ∧ { running with snd := { running.snd with current := some { req := request1 } } }.soundWaits = true
    ∧ running.exc.clearing = false :=
  ⟨⟨{ req := request1 }, by decide, rfl⟩, by decide⟩

theorem witness_BoardWrites : ∀ k ∈ [0, 1, 2, 3, 4, 5, 6, 7, 8, 9, 10, 11, 12, 13, 14, 16, 17, 20, 21, 24, 25, 38, 39, 40, 47, 48, 49, 52, 53, 56, 57, 255, 256],
    (boarding k).mem.wf = true ∧ (boarding k).soundWaits = false ∧ (boarding k).port.awaiting = none ∧ (boarding k).inboxWaits = false
    ∧ (boarding k).exc.board = some k := by decide

/-- The holder's word with a holder and without one, and a part with two motors. -/
theorem witness_BoardWrites_cases : running.rrx.holder = none ∧ held.rrx.holder = some ⟨291, 0⟩
    ∧ 2 ≤ { traction1 with motors := 2 }.motors ∧ ¬ 2 ≤ traction1.motors ∧ (20 : Nat) = 20 + (3 : Fin 8).val / 4
    ∧ (21 : Nat) = 20 + (4 : Fin 8).val / 4 := by decide

theorem witness_QuietAndHeldScans : State.reset.mem.wf = true ∧ State.reset.exc.scan = none ∧ State.reset.exc.part = .idle
    ∧ running.mem.wf = true ∧ running.exc.scan = none ∧ running.exc.part ≠ .idle ∧ running.nothingToTake
    ∧ halted.mem.wf = true ∧ halted.exc.scan = none ∧ halted.nothingToTake
    ∧ waiting.mem.wf = true ∧ (∃ w, waiting.exc.scan = some w ∧ w.outcome = none) ∧ waiting.exc.part ≠ .idle
    ∧ { running.exc with scanHeld := true }.scanHeld = true ∧ running.exc.scanHeld = false ∧ running.lowerWaits = false
    ∧ halted.lowerWaits = false ∧ waiting.lowerWaits = false :=
  ⟨by decide, by decide, by decide, by decide, by decide, by decide, by unfold State.nothingToTake; decide, by decide, by decide,
    by unfold State.nothingToTake; decide, by decide, ⟨_, rfl, rfl⟩, by decide⟩

/-- The highest value, above the clamp of 4095, posted IMMEDIATE. -/
def posted : State := put moving [(0x500, 1), (0x502, 0xFF), (0x503, 0xFF), (0x504, 2)]

/-- The post in it. -/
def post1 : Slot := ⟨1, 0, 65535, 2, 0, 0⟩

/-- A part latched in E_HELD or TRIPPED, with a level qualified on DRVFLT. -/
def latched (x : TractionState) (fault : Option Level) (s : State) : State :=
  { s with
    srg := { s.srg with traction := x, r := 0, brakeOrder := x == .eHeld },
    bfu := { s.bfu with trip := if x = .tripped then .stallA else .none, drvflt := fault } }

/-- A post, and its cells in the drive slot. -/
def slotCells (x : Slot) : List Host.Cell :=
  [(0x500, x.tally), (0x501, BitVec.ofNat 8 x.form)] ++ leCells 0x502 2 x.value
    ++ [(0x504, BitVec.ofNat 8 x.direction), (0x505, BitVec.ofNat 8 x.moment), (0x506, BitVec.ofNat 8 x.emergency)]

/-- The highest value and the lowest, IMMEDIATE in each latched state and AT_STANDSTILL in STANDING; a zero request clears the latch, and
trips DRIVER again with DRVFLT still active (R34, R59, R80). -/
theorem witness_ScanTakesSetpoint :
    (∀ s ∈ [moving, latched .eHeld none moving, latched .tripped none moving, latched .tripped (some .low) moving],
      ∀ x ∈ [post1, ⟨1, 0, 0, 2, 0, 0⟩],
      let s := put s (slotCells x)
      s.mem.wf = true ∧ s.exc.scan = none ∧ s.lowerWaits = false ∧ s.exc.part = .running ∧ s.mem.slotHolds x ∧ x.tally ≠ s.exc.lastTaken
      ∧ x.emergency = 0 ∧ x.moment = 0 ∧ x.form ≤ 1 ∧ x.direction ≤ 2 ∧ s.mem.readLe 0x04 2 = s.exc.cueTake.toNat)
    ∧ (let s := put running (slotCells ⟨1, 1, 200, 0, 1, 0⟩)
      s.mem.slotHolds ⟨1, 1, 200, 0, 1, 0⟩ ∧ s.srg.traction = .standing
      ∧ after .scanTimer s (fun t => t.drq.s == 700 && t.exc.slotState == .taken && t.exc.slotMoment == 1) = true)
    ∧ after .scanTimer (put (latched .eHeld none moving) (slotCells ⟨1, 0, 0, 2, 0, 0⟩)) (fun t =>
      t.srg.traction == .standing && t.srg.brakeOrder == false && t.exc.nlat == 2) = true
    ∧ after .scanTimer (put (latched .tripped (some .low) moving) (slotCells ⟨1, 0, 0, 2, 0, 0⟩)) (fun t =>
      t.srg.traction == .tripped && t.bfu.trip == .driver && t.exc.nlat == 0x82) = true
    ∧ after .scanTimer (put (latched .tripped none moving) (slotCells ⟨1, 0, 1, 2, 0, 0⟩)) (fun t =>
      t.srg.traction == .tripped && t.bfu.trip == .stallA && t.drq.s == 1) = true := by
  unfold Memory.slotHolds; decide +kernel

/-- An e-stop and an emergency of 2, posted while the part is STOPPING. -/
def stoppingWith (emergency : Byte) (moment : Byte) : State :=
  put { moving with exc := { moving.exc with part := .stopping } } [(0x500, 1), (0x505, moment), (0x506, emergency)]

theorem witness_ScanTakesEmergency :
    (∀ x ∈ [TractionState.standing, .moving, .turning, .eBrake, .eHeld, .tripped],
      let s := { stoppingWith 1 9 with srg := { moving.srg with traction := x, turnTimer := some 3 } }
      s.mem.wf = true ∧ s.exc.scan = none ∧ s.lowerWaits = false ∧ s.exc.part.driving = true ∧ s.mem.slotHolds ⟨1, 0, 0, 0, 9, 1⟩
      ∧ (1 : Byte) ≠ s.exc.lastTaken ∧ s.mem.readLe 0x04 2 = s.exc.cueTake.toNat
      ∧ after .scanTimer s (fun t => (t.srg.traction == if x = .eHeld ∨ x = .tripped then x else .eBrake)
        && t.srg.turnTimer.isNone == (x == .turning) && t.exc.nlat == 0x102) = true)
    ∧ (∀ x ∈ [(⟨1, 0, 0, 0, 0, 2⟩ : Slot), ⟨1, 0, 0, 0, 4, 0⟩, ⟨1, 2, 0, 0, 0, 0⟩, ⟨1, 1, 0, 3, 0, 0⟩],
      let s := put moving (slotCells x)
      s.mem.wf = true ∧ s.mem.slotHolds x ∧ s.exc.part = .running ∧ x.tally ≠ s.exc.lastTaken
      ∧ s.mem.readLe 0x04 2 = s.exc.cueTake.toNat) := by
  unfold Memory.slotHolds; decide +kernel

/-- HELD and AT_CHUFF in RUNNING, AT_STANDSTILL while moving, IMMEDIATE in STOPPING; and a post withdrawn while it was pending. -/
theorem witness_PostsStayPending :
    (∀ x ∈ [(PartState.running, (⟨1, 0, 9, 0, 3, 0⟩ : Slot)), (.running, ⟨1, 9, 0, 9, 2, 0⟩), (.running, ⟨1, 0, 9, 0, 1, 0⟩),
        (.stopping, ⟨1, 0, 9, 0, 0, 0⟩)],
      let s := put { moving with exc := { part := x.1 } } (slotCells x.2)
      s.mem.wf = true ∧ s.exc.scan = none ∧ s.lowerWaits = false ∧ s.exc.part.driving = true ∧ s.exc.part = x.1 ∧ s.mem.slotHolds x.2
      ∧ s.mem.readLe 0x04 2 = s.exc.cueTake.toNat ∧ x.2.tally ≠ s.exc.lastTaken ∧ x.2.emergency = 0 ∧ x.2.moment ≤ 3
      ∧ s.srg.traction ≠ .standing ∧ s.exc.slotState ≠ .pending)
    ∧ (let s := put { moving with exc := { part := .stopping, lastTaken := 1, slotState := .pending } } (slotCells ⟨1, 0, 9, 0, 3, 0⟩)
      s.mem.slotHolds ⟨1, 0, 9, 0, 3, 0⟩ ∧ (1 : Byte) = s.exc.lastTaken ∧ s.exc.slotState = .pending ∧ s.exc.part.driving = true
      ∧ after .scanTimer s (fun t => t.exc.slotState == .empty && t.mem.read 0x16 == 0 && t.exc.nlat == 0) = true) := by
  unfold Memory.slotHolds; decide

/-- A halted part whose append tally stands 65 records ahead, and a running one. -/
def overrun (p : PartState) : State := put { running with exc := { running.exc with part := p } } [(0x04, 65)]

theorem witness_StripOverrun : ∀ p ∈ [PartState.halted, .running],
    (overrun p).mem.wf = true ∧ (overrun p).exc.scan = none ∧ (overrun p).lowerWaits = false ∧ (overrun p).exc.part.takesCues = true
    ∧ 64 < ((overrun p).mem.readLe 0x04 2 + 65536 - (overrun p).exc.cueTake.toNat) % 65536 := by decide

theorem witness_StripOverrun_held : let s := { overrun .running with exc := { (overrun .running).exc with scanHeld := true } }
    s.exc.scanHeld = true ∧ s.mem.wf = true ∧ s.exc.scan = none ∧ s.lowerWaits = false ∧ s.exc.part.takesCues = true
    ∧ 64 < (s.mem.readLe 0x04 2 + 65536 - s.exc.cueTake.toNat) % 65536 := by decide

/-- A part with one MASTER_VOLUME cue at strip index 0. -/
def cued (p : PartState) (lo hi : Byte) : State :=
  put { running with exc := { running.exc with part := p } } [(0x04, 1), (0x800, 1), (0x801, 4), (0x806, lo), (0x807, hi)]

theorem witness_CueKinds_master : ∀ x ∈ [(PartState.halted, (0 : Byte), (0 : Byte)), (.running, 255, 0), (.running, 0, 1)],
    let s := cued x.1 x.2.1 x.2.2
    s.mem.wf = true ∧ s.exc.scan = none ∧ s.lowerWaits = false ∧ s.exc.part.takesCues = true
    ∧ (s.exc.part = .running → s.mem.read 0x500 = s.exc.lastTaken ∧ s.exc.slotState ≠ .pending)
    ∧ s.mem.readLe 0x04 2 = (s.exc.cueTake.toNat + 1) % 65536 ∧ s.mem.read 0x800 = 1 ∧ s.mem.read 0x801 = 4
    ∧ s.mem.readLe 0x806 2 = x.2.1.toNat + 256 * x.2.2.toNat := by decide

/-- The bytes of a POSTED cue record (1.5). -/
def cue (kind : Byte) (tag : Nat) (params : List Byte) : List Byte :=
  ([1, kind, 0, 0] ++ leBytes 2 tag ++ params ++ List.replicate 16 0).take 16

/-- A part whose held scan work finds one cue record, at a take tally. -/
def finding (s : State) (take : Half) (r : List Byte) : State :=
  put { s with exc := { s.exc with scanHeld := true, cueTake := take } }
    (leCells 0x04 2 (take.toNat + 1) ++ (List.range 16).map fun i => (0x800 + 16 * (take.toNat % 64) + i, r.getD i 0))

/-- Cues of every kind at the ends of their ranges, and the reason each is written back with in RUNNING (0: applied), none for a PLAY
that waits for its start (R17, R118, R120, R121, R122, R123, R140). -/
def cues : List (List Byte × Option Byte) :=
  [((cue 1 0 [127, 7, 255, 1, 0xFF, 3]).set 0 2, some 1), (cue 0 0 [], some 2), (cue 8 0 [], some 2),
   (cue 1 0x7FFF [127, 7, 255, 1, 0xFF, 3], none), (cue 1 0x8000 [127, 7, 255, 1, 0xFF, 3], some 8),
   (cue 1 0 [128, 7, 255, 1, 0xFF, 3], some 7), (cue 1 0 [127, 8, 255, 1, 0xFF, 3], some 7), (cue 1 0 [127, 7, 255, 2, 0xFF, 3], some 7),
   (cue 1 0 [127, 7, 255, 1, 0, 4], some 7), (cue 1 0 [127, 7, 255, 1, 0, 0], some 7), (cue 1 0 [0, 0, 0, 0, 1, 0], none),
   (cue 2 0 [], some 8), (cue 2 1 [], some 0), (cue 2 0x8010 [], some 0), (cue 2 0x8011 [], some 8),
   (cue 3 0 [], some 8), (cue 3 0x10 [], some 0), (cue 3 0x11 [], some 0), (cue 3 0x8011 [], some 8),
   (cue 4 0 [255, 0], some 0), (cue 4 0 [0, 1], some 7),
   (cue 5 0 [0, 0, 1], some 7), (cue 5 0 [1, 0, 1], some 0), (cue 5 0 [2, 0, 1], some 0), (cue 5 0 [3, 0, 1], some 0), (cue 5 0 [4, 0, 1], some 7),
   (cue 6 0 [0], some 4), (cue 6 0 [1], some 6), (cue 6 0 [10], some 4),
   (cue 7 0 [0, 0], some 0), (cue 7 0 [1, 0], some 0)]

/-- In RUNNING each cue is written back with its reason, and in HALTED the kinds 1 to 5 with INACTIVE (R17). -/
theorem test_scanWorkDeferred_cues : (∀ x ∈ cues, after .scanWorkDeferred (finding sounding 69 x.1) (fun t => match x.2 with
      | some reason => t.mem.read 0x852 == reason && t.mem.read 0x850 == (if reason = 0 then 2 else 3) && t.exc.cueTake == 70
      | none => t.exc.scan == some ⟨1, 0, none⟩ && t.snd.queue.length == 1) = true)
    ∧ ∀ kind ∈ [1, 2, 3, 4, 5], after .scanWorkDeferred (finding halted 69 (cue (BitVec.ofNat 8 kind) 0 [])) (fun t => t.mem.read 0x852 == 3) = true := by
  decide +kernel

theorem witness_CueKinds :
    (∀ p ∈ [PartState.running, .halted], ∀ x ∈ cues, ∀ take ∈ [69, 0xFFFF],
      (finding { sounding with exc := { part := p } } (BitVec.ofNat 16 take) x.1).CueReady x.1)
    ∧ sounding.tagsOk ∧ sounding.snd.queue.length < 32 ∧ 32 ≤ (List.replicate 32 request1).length
    ∧ (sounding.voice 2).active = true ∧ (sounding.voice 2).tag.toNat = 0x10 ∧ (sounding.voice 2).state = .looping
    ∧ (∀ v, (sounding.voice v).tag.toNat ≠ 0x11) ∧ (0xFFFF0001 : BitVec 32).toNat = 1 + 2 ^ 16 * 0xFFFF :=
  have h : ∀ p ∈ [PartState.running, .halted], ∀ x ∈ cues, ∀ take ∈ [69, 0xFFFF],
      let s := finding { sounding with exc := { part := p } } (BitVec.ofNat 16 take) x.1
      s.mem.wf = true ∧ s.exc.scanHeld = true ∧ s.exc.scan = none ∧ s.lowerWaits = false ∧ s.exc.part.takesCues = true
      ∧ (s.exc.part = .running → s.mem.read 0x500 = s.exc.lastTaken ∧ s.exc.slotState ≠ .pending)
      ∧ s.mem.readLe 0x04 2 = (s.exc.cueTake.toNat + 1) % 65536 ∧ x.1.length = 16
      ∧ ∀ i < 16, s.mem.read (0x800 + 16 * (s.exc.cueTake.toNat % 64) + i) = x.1.getD i 0 := by decide +kernel
  ⟨fun p hp x hx take ht => let ⟨a, b, c, d, e, f, g, i, j⟩ := h p hp x hx take ht; ⟨a, b, c, d, e, f, g, i, j⟩,
    ⟨by decide, by decide, by decide +kernel⟩, by decide⟩

/-- The cells of 16-bit values from an address on. -/
def halves (a : Nat) (values : List Nat) : List Host.Cell := values.zipIdx.flatMap fun x => leCells (a + 2 * x.2) 2 x.1

/-- The cells of one valid group of the configuration block, with one motor; FUNCTIONS and LIGHTS are valid empty. -/
def block1 (group : Nat) : List Host.Cell :=
  match group with
  | 1 => halves 0x1000 [1, 10, 40, 60, 64, 640, 256, 512, 16, 1023, 40, 100, 500, 1000, 1, 10, 0, 100, 2000, 0, 2100, 4, 0, 100, 3, 20]
  | 2 => halves 0x1100 [0, 1, 2, 3, 40, 50, 60, 70, 80, 90, 100]
  | 4 => [(0x1400, 77), (0x1401, 255), (0x1403, 255), (0x1404, 1)] ++ (List.range 16).map fun k => (0x1411 + 4 * k, 1)
  | 5 => halves 0x1800 [1, 2, 1, 4, 300, 100, 1, 2]
  | 6 => halves 0x1900 [1, 100, 150, 200, 250, 10, 300, 33, 8, 100, 3, 2]
    ++ (List.range 16).flatMap fun i => halves (0x1918 + 4 * i) [1000 - 10 * i, 20 * i]
  | 8 => halves 0x1B00 [42, 0, 0, 0, 500]
  | 9 => halves 0x1C00 [12000, 9000, 11000, 3, 300, 6000, 600, 128, 64, 64, 3000, 300, 1600]
  | _ => []

/-- A part with one valid group in its configuration block, whose held scan work finds a RELOAD cue of that group. -/
def reloading (s : State) (group : Nat) : State := put (finding s 5 (cue 6 0 [BitVec.ofNat 8 group])) (block1 group)

/-- Every group is valid; with nothing in the block TRACTION is refused; a moving part refuses CURVE; a hold-up timer runs; and in READY
without a puff the fan takes the new idle duty of 33 (R141). -/
theorem witness_Reloads :
    (∀ n ∈ List.range 11,
      let s := reloading smoking n
      s.mem.wf = true ∧ s.exc.scanHeld = true ∧ s.exc.scan = none ∧ s.lowerWaits = false ∧ s.exc.part.takesCues = true
      ∧ s.mem.read 0x500 = s.exc.lastTaken ∧ s.exc.slotState ≠ .pending ∧ s.mem.readLe 0x04 2 = 6
      ∧ ∀ i < 16, s.mem.read (0x850 + i) = (cue 6 0 [BitVec.ofNat 8 n]).getD i 0)
    ∧ (∀ n ∈ [1, 2, 3, 4, 5, 6, 7, 8, 9],
      (match validateGroup n ((reloading smoking n).groupBytes n) groups1 with | .valid _ => true | _ => false) = true)
    ∧ validateGroup 1 ((finding smoking 5 (cue 6 0 [1])).groupBytes 1) groups1 = .refused 0 .outOfRange
    ∧ smoking.srg.traction = .standing ∧ moving.srg.traction ≠ .standing ∧ smoking.bfu.drvflt = none ∧ smoking.sup.holdup = none
    ∧ 0 < (some 350 : Option Nat).getD 0 ∧ smoking.rrx.holder = none ∧ held.rrx.holder ≠ none
    ∧ after .scanWorkDeferred (reloading smoking 6) (fun t =>
      t.smk.state == .ready && t.smk.puff == none && t.smk.fan == 33 && t.mem.read 0x852 == 0) = true := by decide +kernel

/-- A new polarity that makes DRVFLT active trips DRIVER in RUNNING and not in HALTED (R84); a new map in which a set function binds MUTE and
SHUNT, and none SMOKE any more (R41); and a hold-up time of 0 that expires the hold-up timer (R180). -/
theorem test_scanWorkDeferred_reloads :
    (∀ x ∈ [(Level.low, PartState.running, TripReason.driver, 0x81), (.high, .running, .none, 1), (.low, .halted, .none, 1)],
      after .scanWorkDeferred (reloading { smoking with exc := { part := x.2.1 }, bfu := { smoking.bfu with drvflt := some x.1 } } 1) (fun t =>
        t.bfu.trip == x.2.2.1 && t.exc.nlat == BitVec.ofNat 15 x.2.2.2 && (t.srg.traction == .tripped) == (x.2.2.1 == .driver)) = true)
    ∧ after .scanWorkDeferred
      (put (reloading { smoking with drq := { smoking.drq with functions := 1, smokeEnable := true, origin := .speedUnits 9, s := 9 } } 3)
        [(0x1200, 2), (0x1201, 4), (0x1202, 2)]) (fun t =>
      t.drq.mute && t.drq.shunt && !t.drq.smokeEnable && !t.drq.momentumOff && t.drq.s == 4 && t.snd.cap == 0 && t.smk.state == .off) = true
    ∧ after .scanWorkDeferred
      (put (reloading { smoking with sup := { smoking.sup with state := .holdup, holdup := some 300 } } 9) [(0x1C08, 0), (0x1C09, 0)])
      (fun t => t.sup.state == .dark && t.sup.holdup == none && t.exc.nlat == 0x2001) = true := by decide +kernel

/-- A chuff set of one clip, the listed targets of a function, and a pair of bind entries with an empty one between, in groups that pass. -/
theorem witness_GroupValues :
    (∀ n ∈ [1, 2, 3, 4, 5, 6, 7, 8, 9],
      (match validateGroup n ((reloading smoking n).groupBytes n) groups1 with | .valid _ => true | _ => false) = true)
    ∧ (match validateGroup 3 ([4, 0x1F, 1, 0x1F, 2] ++ List.replicate 251 0) {} with
      | .valid g => g.map.getD 0 [] == [.soundKey 15, .smoke, .shunt]
      | _ => false) = true
    ∧ (match validateGroup 8 ([42, 0, 0, 0, 1, 0, 0, 0, 0xF4, 1] ++ [5, 0, 2, 0] ++ [0, 0, 9, 9] ++ [6, 0, 1, 0] ++ [0, 0, 0, 0]) {} with
      | .valid g => g.radio.binds == [(5, .stopOnly), (6, .functions)] && g.radio.groupReverse && g.radio.failsafe == 500
      | _ => false) = true := by decide +kernel

theorem witness_AtChuffTake :
    (∀ x ∈ [(PartState.running, post1), (.running, (⟨1, 9, 0, 9, 9, 1⟩ : Slot)), (.running, ⟨1, 0, 0, 0, 2, 2⟩), (.running, ⟨1, 2, 0, 0, 2, 0⟩),
        (.stopping, post1)],
      let s := put { moving with exc := { part := x.1, chuffHeld := true } } (slotCells x.2)
      s.mem.wf = true ∧ s.exc.chuffHeld = true ∧ s.exc.scan = none ∧ s.lowerWaits = false ∧ s.exc.part = x.1 ∧ s.mem.slotHolds x.2
      ∧ x.2.tally ≠ s.exc.lastTaken)
    ∧ post1.emergency = 0 ∧ post1.form ≤ 1 ∧ post1.direction ≤ 2 ∧ post1.moment ≤ 3
    ∧ { posted.exc with lastTaken := 1 }.lastTaken = post1.tally
    ∧ (latched .eHeld none moving).srg.traction = .eHeld ∧ (latched .tripped (some .low) moving).drvfltActive = true := by
  unfold Memory.slotHolds; decide

theorem witness_ThrottleCurve : groups1.curve.length = 11 ∧ (9 : Nat) < 10 ∧ (19 : Nat) < 20
    ∧ groups1.curve.getD 9 0 ≤ groups1.curve.getD 10 0 := by decide

/-- A slot whose throttle lies above 200. -/
theorem witness_ThrottleCurve_clamped : let x : Slot := ⟨1, 1, 201, 2, 3, 0⟩
    x.emergency = 0 ∧ x.form = 1 ∧ x.direction ≤ 2 ∧ x.moment ≤ 3 ∧ 200 < x.value := by decide

/-- A part with a function map: function 0 for smoke and key 3, function 1 for SHUNT, key 4 and key 3; and a voice of key 3. -/
def mapped : State :=
  { sounding with
    cfg := { groups1 with
      map := [[.smoke, .soundKey 3], [.shunt, .soundKey 4, .soundKey 15]],
      sound := { sound1 with keys := List.replicate 16 { clip := some 9, priority := 2, mode := .hold, volume := 80 } } },
    drq := { functions := 1, smokeEnable := true } }

theorem witness_FunctionOperations : mapped.tagsOk ∧ mapped.snd.queue.length ≤ 32
    ∧ (∀ n k, Target.soundKey k ∈ mapped.cfg.map.getD n [] → k ≤ 15)
    ∧ (mapped.functionOp .set 1).drq.functions = mapped.drq.functions
    ∧ (mapped.functionOp .toggle 3).drq.functions = 2 ∧ (mapped.functionOp .toggle 3).drq.shunt = true
    ∧ (mapped.functionOp .toggle 3).drq.smokeEnable = false ∧ (mapped.functionOp .toggle 3).snd.queue.map (·.tag) = [0x8004, 0x800F]
    ∧ (mapped.functionOp .clear 1).drq.mute = mapped.drq.mute ∧ mapped.snd.current = none ∧ waiting.snd.current.isSome = true := by
  refine ⟨⟨by decide, by decide, by decide +kernel⟩, by decide, ?_, by decide +kernel⟩
  rintro (_ | _ | n) k h
  · simp [mapped] at h; omega
  · simp [mapped] at h; omega
  · simp [mapped] at h

/-- A part that has received a frame, with the put tally at one value. -/
def received (putTally : Half) : State :=
  { running with
    exc := { running.exc with inboxPut := putTally, inboxQueue := [⟨record1, .one⟩] }, rrx := { running.rrx with buf1 := some frame1 } }

theorem witness_InboxRecorded : (received 31).mem.wf = true ∧ (received 31).exc.inboxQueue = [⟨record1, .one⟩]
    ∧ (received 31).exc.inboxStep = {} ∧ (received 31).soundWaits = false ∧ (received 31).port.awaiting = none
    ∧ (received 31).exc.board = none ∧ record1.payload.length ≤ 16 ∧ record1.length = record1.payload.length
    ∧ ((received 31).exc.inboxPut.toNat + 65536 - (received 31).mem.readLe 0x0A 2) % 65536 = 31 := by decide

theorem witness_InboxRecorded_full : (received 32).mem.wf = true ∧ (received 32).exc.inboxQueue = [⟨record1, .one⟩]
    ∧ (received 32).exc.inboxStep = {} ∧ (received 32).soundWaits = false ∧ (received 32).port.awaiting = none
    ∧ (received 32).exc.board = none
    ∧ ((received 32).exc.inboxPut.toNat + 65536 - (received 32).mem.readLe 0x0A 2) % 65536 = 32 := by decide

theorem witness_BoardWrites_begins : State.reset.exc.part = .idle ∧ running.exc.part ≠ .idle ∧ running.exc.board = none
    ∧ (boarding 256).exc.part ≠ .idle ∧ (boarding 256).exc.board ≠ none ∧ { running.exc with boardHeld := true }.boardHeld = true := by
  decide

theorem witness_TickRampsMoving : moving.exc.scan = none ∧ moving.exc.part.driving = true ∧ moving.sup.state ≠ .dark
    ∧ moving.srg.regTimer = true ∧ moving.srg.tick = none ∧ moving.srg.traction = .moving ∧ moving.drq.dir = moving.srg.bridgeDir
    ∧ moving.drq.s = moving.srg.r ∧ posted.srg.r < { posted.drq with s := 1201 }.s ∧ { posted.drq with s := 1199 }.s < posted.srg.r
    ∧ moving.cfg.traction.present .a = true := by decide

/-- A part whose TURNING waits at R = 0 for REVERSE. -/
def turned (vl : Nat) (mark : Bool) (s : Nat) : State :=
  { moving with
    drq := { moving.drq with dir := .reverse, s := s },
    srg := { moving.srg with traction := .turning, r := 0, vl := vl, turnMark := mark } }

/-- Standing with S at both sides of 0, in DARK, and asked to turn; moving at R = 0 asked to turn; turning asked to turn back. -/
theorem witness_TickSettles :
    (∀ s ∈ [running, { running with drq := { running.drq with s := 1, dir := .reverse } }, { turned 0 false 0 with srg := moving.srg },
        { turned 0 false 0 with srg := { moving.srg with r := 0 } }, { turned 9 true 1 with drq := moving.drq }],
      s.exc.scan = none ∧ s.exc.part = .running ∧ s.srg.regTimer = true ∧ s.srg.tick = none)
    ∧ running.srg.traction = .standing ∧ running.srg.r = 0 ∧ running.drq.s = 0 ∧ running.sup.state ≠ .dark
    ∧ { running.sup with state := .dark }.state = .dark
    ∧ { moving.srg with r := 0 }.r = 0 ∧ moving.srg.traction = .moving ∧ (turned 0 false 0).drq.dir ≠ moving.srg.bridgeDir
    ∧ (turned 9 true 1).srg.traction = .turning ∧ moving.drq.dir = (turned 9 true 1).srg.bridgeDir
    ∧ after .regulationTimer { turned 9 true 1 with drq := moving.drq } (fun t =>
      t.srg.traction == .moving && t.srg.r == 40 && t.srg.turnMark == false) = true := by decide +kernel

/-- A part in SLIPPING with a duty above a hold-up Dmax that a RELOAD of POWER has lowered. -/
def slipping (s : State) : State :=
  { s with
    cfg := { s.cfg with power := { power1 with holdDmax := 300 } }, sup := { s.sup with state := .holdup },
    srg := { s.srg with motors := ⟨{ d := 400 }, { d := 299 }⟩ },
    bfu := { s.bfu with slip := .slipping, faster := some .a, chans := ⟨{ pos := some 0, mode := .drive, duty := 400 }, { duty := 299 }⟩ } }

/-- The turn begins, goes on, and reaches R = 0, where SLIPPING ends and the duty is cut at once (R51, R83); it waits above the threshold;
and it flips at the threshold and at the mark. -/
theorem witness_TickTurns :
    (∀ s ∈ [{ moving with drq := { moving.drq with dir := .reverse } }, { turned 41 false 1 with srg := { (turned 41 false 1).srg with r := 61 } },
        slipping { turned 41 false 1 with srg := { (turned 41 false 1).srg with r := 60 } }, turned 40 false 1, turned 41 true 0, turned 41 false 0,
        { turned 40 false 0 with exc := { part := .stopping } }],
      s.exc.scan = none ∧ s.exc.part.driving = true ∧ s.sup.state ≠ .dark ∧ s.srg.regTimer = true ∧ s.srg.tick = none
      ∧ s.drq.dir ≠ s.srg.bridgeDir)
    ∧ moving.srg.traction = .moving ∧ 0 < moving.srg.r
    ∧ (turned 40 false 1).srg.traction = .turning ∧ (turned 40 false 1).srg.r = 0
    ∧ (turned 40 false 1).srg.vl ≤ (turned 40 false 1).cfg.traction.standstill ∧ (turned 41 true 0).srg.turnMark = true
    ∧ (turned 41 false 0).cfg.traction.standstill < (turned 41 false 0).srg.vl ∧ (turned 41 false 0).srg.turnMark = false
    ∧ after .regulationTimer (slipping { turned 41 false 1 with srg := { (turned 41 false 1).srg with r := 60 } }) (fun t =>
      t.srg.r == 0 && t.bfu.slip == .normal && t.srg.motors.a.d == 300 && t.srg.motors.b.d == 299 && (t.chan .a).duty == 300) = true := by
  decide +kernel

/-- A part that brakes from R. -/
def braking (p : PartState) (r : Nat) : State :=
  { moving with exc := { moving.exc with part := p }, srg := { moving.srg with traction := .eBrake, r := r } }

theorem witness_TickBrakes :
    (∀ s ∈ [braking .running 65, braking .running 64, braking .stopping 0],
      s.exc.scan = none ∧ s.exc.part.driving = true ∧ s.sup.state ≠ .dark ∧ s.srg.regTimer = true ∧ s.srg.tick = none
      ∧ s.srg.traction = .eBrake)
    ∧ 0 < (braking .running 65).cfg.traction.emergency
    ∧ (braking .running 65).cfg.traction.emergency < (braking .running 65).srg.r
    ∧ (braking .running 64).srg.r ≤ (braking .running 64).cfg.traction.emergency ∧ (braking .running 64).exc.part = .running
    ∧ (braking .stopping 0).srg.r ≤ (braking .stopping 0).cfg.traction.emergency ∧ (braking .stopping 0).exc.part = .stopping := by decide

theorem witness_BridgeAndTurnTimers : { moving.bfu with window := some ⟨.settling, none⟩ }.window = some ⟨.settling, none⟩
    ∧ moving.bfu.window = none ∧ { moving.srg with turnTimer := some 0 }.turnTimer ≠ none ∧ moving.srg.turnTimer = none
    ∧ converting.bfu.window = some ⟨.converting, none⟩ ∧ WindowPhase.converting ≠ .settling
    ∧ (moving.chan .a).leg1.delayed = none ∧ ({ delayed := some .high } : Leg).low = false ∧ ({ delayed := some .low } : Leg).high = false
    ∧ ({ delayed := some .high, low := true } : Leg).low = true ∧ ({ delayed := some .low, high := true } : Leg).high = true := by
  decide

theorem witness_CompletionEstimates : converting.exc.scan = none ∧ converting.exc.part = .running
    ∧ converting.srg.tick = some ⟨traction1, .forward, false⟩ ∧ converting.bfu.window = some ⟨.converting, none⟩
    ∧ traction1 = converting.cfg.traction
    ∧ (∀ m, converting.cfg.traction.present m = true → (converting.chan m).cbcMark = true →
        (converting.chan m).persist + 1 < converting.cfg.traction.persist)
    ∧ 0 < converting.cfg.traction.persist ∧ 1 ≤ converting.cfg.traction.motors :=
  ⟨rfl, rfl, rfl, rfl, rfl, by intro m; cases m <;> decide, by decide, by decide⟩

/-- A completion that finds MOVING at R = 0 and stands. -/
def coasting : State :=
  { converting with srg := { converting.srg with r := 0, motors := ⟨{ vf := 40 }, {}⟩ } }

/-- Its hypotheses, and the condition of its last clause, at the threshold. -/
theorem witness_CompletionEstimates_standing : coasting.exc.scan = none ∧ coasting.exc.part = .running ∧ coasting.srg.traction = .moving
    ∧ coasting.srg.r = 0 ∧ coasting.srg.tick = converting.srg.tick ∧ coasting.bfu.window = converting.bfu.window
    ∧ after (.tickCompletion (emf 16) (emf 0)) coasting (fun t => decide (t.srg.vl ≤ 40) && t.srg.traction == .standing) = true := by
  decide +kernel

/-- In STOPPING the same completion enters HALTED with the new speed kept (R12, R62), the chuff clock at its values of R95; at 41 it does not. -/
theorem witness_CompletionEstimates_stopping :
    let s := { coasting with
      exc := { coasting.exc with part := .stopping }, chk := { coasting.chk with level := some .high, lostTimer := some 9, acc := 5 } }
    s.exc.part.driving = true ∧ s.stoppingOk ∧ s.mem.wf = true ∧ s.srg.traction = .moving ∧ s.srg.r = 0
    ∧ after (.tickCompletion (emf 16) (emf 0)) s (fun t => t.exc.part == .halted && t.srg.traction == .standing && t.srg.vl == 40
      && t.srg.motors.a.vf == 40 && t.srg.regTimer == false && t.bfu.window == none && t.mem.read 0x10 == 4 && t.chk.level == none
      && t.chk.lostTimer == none && t.chk.acc == 65535 && t.exc.nlat == 0x4000) = true
    ∧ after (.tickCompletion (emf 30) (emf 0)) s (fun t => t.exc.part == .stopping && t.srg.traction == .moving && t.srg.vl == 48) = true :=
  ⟨rfl, fun _ => by decide, by decide, rfl, rfl, by decide +kernel, by decide +kernel⟩

/-- A completion that rests: in STANDING, E_HELD and TRIPPED, and in TURNING at R = 0 with the tick that brought R to 0 and without. -/
def resting (x : TractionState) (zero : Bool) : State :=
  { converting with
    srg := { converting.srg with traction := x, r := 0, turnTimer := some 7, turnMark := true, tick := some ⟨traction1, .forward, zero⟩ },
    bfu := { converting.bfu with trip := if x = .tripped then .shortA else .none } }

theorem witness_CompletionRests :
    (∀ x ∈ [(TractionState.standing, false), (.eHeld, false), (.tripped, false), (.turning, true), (.turning, false)],
      let s := resting x.1 x.2
      s.exc.scan = none ∧ s.exc.part = .running ∧ s.srg.tick = some ⟨s.cfg.traction, .forward, x.2⟩
      ∧ s.bfu.window = some ⟨.converting, none⟩ ∧ (s.chan .a).cbcMark = false ∧ (s.chan .b).cbcMark = false
      ∧ 0 < s.cfg.traction.persist ∧ s.srg.traction = x.1 ∧ s.srg.r = 0)
    ∧ after (.tickCompletion (emf 9) (emf 0)) (resting .turning true) (fun t =>
      t.srg.turnTimer == some 500 && t.srg.turnMark == false && t.srg.motors.a.d == 0 && t.srg.labour == 4) = true
    ∧ after (.tickCompletion (emf 9) (emf 0)) (resting .turning false) (fun t =>
      t.srg.turnTimer == some 7 && t.srg.turnMark && t.srg.motors.a.i == 0) = true
    ∧ (let s := { resting .turning true with exc := { running.exc with part := .stopping } }
      s.exc.part.driving = true ∧ s.srg.traction.ends = false ∧ s.sup.state ≠ .dark
      ∧ after (.tickCompletion (emf 9) (emf 0)) s (fun t =>
        t.exc.part == .stopping && t.srg.turnTimer == some 500 && t.srg.turnMark == false && t.srg.motors.a.d == 0) = true) := by decide +kernel

/-- At a completion at rest the lost timer starts at the moving threshold of 100 and stops below it (R90); the cam stands in STANDING, and in
E_HELD it advances by Vl times Kcam over 64, its wrap being a chuff while the sensor is lost in AUTO (R91). -/
theorem test_tickCompletion_clock :
    let s := fun (x : TractionState) (source : SourceState) (timer : Option Nat) => { resting x false with
      cfg := { groups1 with chuff := { chuff1 with mode := .auto } }, srg := { (resting x false).srg with motors := ⟨{ vf := 100 }, {}⟩ },
      chk := { source := source, lostTimer := timer, acc := 65136, first := false, interval := 77, next := 3 } }
    after (.tickCompletion (emf 40) (emf 0)) (s .eHeld .sensorLive none) (fun t =>
      t.srg.vl == 100 && t.chk.lostTimer == some 500 && t.chk.acc == 0 && t.chk.count == 0) = true
    ∧ after (.tickCompletion (emf 0) (emf 0)) (s .tripped .sensorLive (some 9)) (fun t =>
      t.srg.vl == 75 && t.chk.lostTimer == none && t.chk.acc == 65436) = true
    ∧ after (.tickCompletion (emf 40) (emf 0)) (s .standing .sensorLive (some 9)) (fun t =>
      t.chk.lostTimer == some 9 && t.chk.acc == 65136) = true
    ∧ after (.tickCompletion (emf 40) (emf 0)) (s .eHeld .sensorLost none) (fun t =>
      t.chk.lostTimer == none && t.chk.acc == 0 && t.chk.count == 1 && t.chk.lastChuff == 77 && t.chk.next == 0) = true := by decide +kernel

theorem witness_CompletionRegulates : converting.exc.scan = none ∧ converting.exc.part = .running
    ∧ converting.srg.tick = some ⟨traction1, .forward, false⟩ ∧ converting.bfu.window = some ⟨.converting, none⟩
    ∧ traction1 = converting.cfg.traction ∧ converting.cfg.traction.motors = 1 ∧ (converting.chan .a).cbcMark = false
    ∧ 0 < converting.cfg.traction.persist ∧ 0 < converting.srg.r ∧ converting.srg.traction = .moving
    ∧ (braking .running 0).srg.traction = .eBrake ∧ (braking .running 0).srg.r = 0 := by decide

/-- MOVING at R = 0 with Vl above the standstill threshold of 40 is regulated toward 0, and at 40 it stands (R49, R50). -/
theorem witness_CompletionRegulates_rest : ∀ p ∈ [PartState.running, .stopping],
    let rest := fun (vf : Nat) => { converting with
      exc := { converting.exc with part := p },
      srg := { converting.srg with r := 0, motors := ⟨{ vf := vf, i := 20000, d := 7 }, {}⟩ } }
    after (.tickCompletion (emf 17) (emf 0)) (rest 41) (fun t => t.srg.vl == 41 && t.srg.traction == .moving && t.srg.motors.a.i == 19344
      && t.srg.motors.a.d == 0 && t.srg.motors.a.sat == .minus) = true
    ∧ after (.tickCompletion (emf 16) (emf 0)) (rest 40) (fun t => t.srg.vl == 40 && t.srg.traction == .standing) = true
    ∧ (rest 41).srg.traction = .moving ∧ (rest 41).sup.state ≠ .dark := by decide +kernel

/-- Two motors in a tick, the slip state with its run count, and the cam accumulator in source mode VIRTUAL. -/
def pairing (slip : SlipState) (run acc : Nat) : State :=
  let c : Traction := { traction1 with motors := 2, slipThresh := 100, slipTicks := 3, slipCut := 20 }
  { converting with
    cfg := { groups1 with traction := c, chuff := { chuff1 with mode := .virtual } },
    srg := { converting.srg with tick := some ⟨c, .forward, false⟩, motors := ⟨{ vf := 1000 }, { vf := 1000 }⟩ },
    bfu := { converting.bfu with slip := slip, slipRun := run },
    chk := { converting.chk with source := .virtual, acc := acc } }

/-- Two motors: the third tick with a gap over the threshold makes SLIPPING with motor A the faster, an earlier one only counts; the
third with a gap of half the threshold or less ends it; and a cam that wraps is a chuff. -/
theorem witness_CompletionRegulates_two :
    (∀ x ∈ [(SlipState.normal, 2, 0), (.normal, 0, 65535), (.slipping, 2, 0), (.slipping, 1, 0)],
      let s := pairing x.1 x.2.1 x.2.2
      s.exc.scan = none ∧ s.exc.part = .running ∧ s.srg.tick = some ⟨s.cfg.traction, .forward, false⟩
      ∧ s.bfu.window = some ⟨.converting, none⟩ ∧ s.cfg.traction.motors = 2 ∧ (s.chan .a).cbcMark = false ∧ (s.chan .b).cbcMark = false
      ∧ 0 < s.cfg.traction.persist ∧ 0 < s.srg.r ∧ s.srg.traction = .moving ∧ 0 < s.cfg.traction.slipThresh)
    ∧ after (.tickCompletion (emf 380) (emf 100)) (pairing .normal 2 0) (fun t =>
      t.bfu.slip == .slipping && t.bfu.faster == some .a && t.exc.nlat == 0x400) = true
    ∧ after (.tickCompletion (emf 380) (emf 100)) (pairing .normal 0 65535) (fun t =>
      t.bfu.slip == .normal && t.bfu.slipRun == 1 && t.chk.count == 1) = true
    ∧ after (.tickCompletion (emf 400) (emf 400)) (pairing .slipping 2 0) (fun t =>
      t.bfu.slip == .normal && t.bfu.faster == none && t.chk.count == 0) = true
    ∧ after (.tickCompletion (emf 400) (emf 400)) (pairing .slipping 1 0) (fun t =>
      t.bfu.slip == .slipping && t.bfu.slipRun == 2) = true := by decide +kernel

theorem witness_CompletionFilters : ∀ p ∈ [PartState.running, .stopping],
    let s := { converting with exc := { converting.exc with part := p } }
    s.exc.scan = none ∧ s.srg.tick = some ⟨traction1, .forward, false⟩ ∧ s.bfu.window = some ⟨.converting, none⟩
    ∧ traction1 = s.cfg.traction ∧ s.exc.part = p ∧ 0 < s.cfg.traction.persist ∧ (s.chan .a).cbcMark = false
    ∧ (s.chan .b).cbcMark = false ∧ 1 ≤ s.cfg.traction.motors := by decide

theorem witness_PeriodStarts :
    (∀ s ∈ [moving, running, halted, { moving with srg := { moving.srg with traction := .eHeld, brakeOrder := true } },
        { moving with srg := { moving.srg with traction := .eHeld, r := 0 } },
        { moving with srg := { moving.srg with traction := .turning, r := 0 } },
        { moving with srg := { moving.srg with traction := .turning, r := 1 } }],
      s.bfu.window = none ∧ (s.chan .a).pos ≠ none)
    ∧ moving.cfg.traction.present .a = true ∧ moving.exc.part.driving = true ∧ moving.bfu.trip = .none
    ∧ moving.cfg.traction.present .b = false ∧ halted.exc.part.driving = false
    ∧ converting.bfu.window = some ⟨.converting, none⟩ ∧ (converting.chan .a).pos ≠ none ∧ WindowPhase.converting ≠ .ending
    ∧ { converting.bfu with window := some ⟨.ending, some .reverse⟩ }.window = some ⟨.ending, some .reverse⟩
    ∧ ({} : Leg).deadHigh = 0 ∧ ({} : Leg).deadLow = 0 ∧ ({} : Leg).delayed = none ∧ (running.chan .a).mode = .off
    ∧ (running.chan .a).conducts = false ∧ { traction1 with deadTime := 0 }.deadTime = 0 := by decide

/-- The moving part at one position of a 20 kHz period of 1,000 steps, with an off-time style. -/
def pulsing (style : OffStyle) (ch : Channel) : State :=
  { moving with
    cfg := { groups1 with traction := { traction1 with offStyle := style } },
    bfu := { moving.bfu with chans := ⟨{ ch with mode := .drive, duty := 400 }, {}⟩ } }

/-- A duty of 400 conducts from 305 to 695 of 1,000 steps, FORWARD through leg 1 and REVERSE through leg 2; a low switch that turned off
within the dead time of 10 steps makes its turn-on wait; in DRIVE_BRAKE both low switches conduct after the on interval, the driving
leg's no sooner than the dead time, and that one turns off at 295 (R69, R70). -/
theorem witness_PeriodStarts_between :
    let next := fun (s : State) (p : Channel → Bool) => match step s with
      | .next t => p (t.chan .a)
      | _ => false
    let only := fun (a b c d : Bool) (x : Channel) => x.leg1.high == a && x.leg1.low == b && x.leg2.high == c && x.leg2.low == d
    let on : Channel := { phase := .on, leg1 := { high := true }, leg2 := { low := true } }
    next (pulsing .coast { pos := some 303 }) (only false false false false) = true
    ∧ next (pulsing .coast { pos := some 304 }) (only true false false true) = true
    ∧ next (pulsing .coast { pos := some 304, dir := .reverse }) (only false true true false) = true
    ∧ next (pulsing .coast { pos := some 304, leg1 := { deadHigh := 2 } }) (fun x => only false false false true x && x.leg1.delayed == some .high) = true
    ∧ next (pulsing .coast { on with pos := some 694 }) (only true false false true) = true
    ∧ next (pulsing .coast { on with pos := some 695 }) (only false false false false) = true
    ∧ next (pulsing .brake { on with pos := some 695 }) (fun x => only false false false true x && x.leg1.delayed == some .low) = true
    ∧ next (pulsing .brake { pos := some 293 }) (only false true false true) = true
    ∧ next (pulsing .brake { pos := some 294, leg1 := { low := true } }) (fun x => only false false false true x && x.leg1.deadHigh == 10) = true
    ∧ (pulsing .coast { pos := some 998 }).pending = [] ∧ 998 + 1 < periodTicks traction1 := by decide +kernel

theorem witness_CurrentEvents : (running.chan .a).mode ≠ .drive ∧ (moving.chan .a).mode = .drive ∧ (moving.chan .a).overlap = false
    ∧ (moving.chan .a).periodSample = none ∧ (moving.chan .a).pos = some 0 ∧ { moving.chan .a with phase := .on }.phase = .on
    ∧ (moving.chan .a).phase = .before ∧ 0 < (moving.chan .a).duty ∧ 2 * 499 < periodTicks traction1
    ∧ ({ phase := .after } : Channel).phase = .after ∧ ({ phase := .limited } : Channel).phase = .limited ∧ ({} : Channel).duty = 0 := by decide

/-- A part one of whose switches conducts, with the CBC mark at its third completion in a row. -/
def conducting : State :=
  { converting with bfu := { converting.bfu with chans :=
      ⟨{ (converting.chan .a) with leg1 := { high := true }, cbcMark := true, persist := 3 }, converting.chan .b⟩ } }

theorem witness_Trips : (∀ p ∈ [PartState.running, .stopping], p.driving = true) ∧ conducting.exc.scan = none
    ∧ (conducting.chan .a).conducts = true ∧ conducting.mem.wf = true
    ∧ conducting.bfu.trip = .none ∧ Level.low = conducting.cfg.traction.polarity ∧ Level.high ≠ conducting.cfg.traction.polarity
    ∧ { conducting.bfu with trip := .driver }.trip ≠ .none
    ∧ conducting.srg.tick = some ⟨traction1, .forward, false⟩ ∧ conducting.bfu.window = some ⟨.converting, none⟩
    ∧ 0 < conducting.cfg.traction.persist ∧ conducting.cfg.traction.present .a = true ∧ (conducting.chan .a).cbcMark = true
    ∧ conducting.cfg.traction.persist ≤ (conducting.chan .a).persist + 1 := by decide

/-- Two motors, K = 4: the marked completion after a count of 3 trips, the one after a count of 2 does not; both together trip STALL_A; in
STOPPING the part is HALTED with the reason kept (R76, R79). -/
theorem witness_Trips_stalls :
    let stalling := fun (p : PartState) (a b : Nat) => { conducting with
      exc := { conducting.exc with part := p }, cfg := { groups1 with traction := { traction1 with motors := 2 } },
      bfu := { conducting.bfu with chans := ⟨{ cbcMark := true, persist := a }, { cbcMark := true, persist := b }⟩ } }
    (∀ x ∈ [(PartState.running, 3, 2, TripReason.stallA, PartState.running), (.running, 2, 3, .stallB, .running),
        (.running, 3, 3, .stallA, .running), (.running, 2, 2, .none, .running), (.stopping, 2, 3, .stallB, .halted),
        (.stopping, 3, 3, .stallA, .halted)],
      after (.tickCompletion (emf 0) (emf 0)) (stalling x.1 x.2.1 x.2.2.1) (fun t => t.bfu.trip == x.2.2.2.1 && t.exc.part == x.2.2.2.2) = true)
    ∧ after (.shortDetected .a) { conducting with exc := { conducting.exc with part := .stopping } } (fun t =>
      t.bfu.trip == .shortA && t.exc.part == .halted && t.srg.traction == .tripped && t.exc.nlat == 0x4080) = true
    ∧ after (.drvfltQualified .low) { conducting with exc := { conducting.exc with part := .stopping } } (fun t =>
      t.bfu.trip == .driver && t.exc.part == .halted) = true := by decide +kernel

/-- A part whose qualifier holds low, with a run of equal samples. -/
def sensing (run : Nat) : State :=
  { moving with chk := { moving.chk with level := some .low, run := run, lostTimer := some 500, capture := some 0 } }

theorem witness_SensorEvents : halted.exc.part.driving = false ∧ (sensing 0).exc.part.driving = true ∧ (sensing 0).chk.level = some .low
    ∧ Level.low ≠ .high ∧ (sensing 1).chk.run + 1 < (sensing 1).cfg.chuff.qualifier
    ∧ (sensing 2).cfg.chuff.qualifier ≤ (sensing 2).chk.run + 1 ∧ (sensing 2).cfg.chuff.edge = .rising
    ∧ (sensing 2).cfg.chuff.prescale ≤ (sensing 2).chk.prescale + 1 ∧ (sensing 2).chk.source = .sensorLive
    ∧ (sensing 2).chk.lostTimer ≠ none ∧ running.chk.level = none ∧ { running.chk with previous := some .low }.previous = some .low
    ∧ running.chk.previous ≠ some .low ∧ running.chk.lostTimer = none := by decide

/-- K = 3: the third equal sample in a row qualifies the first level without an edge, and one after another level begins the run again
(R86); by edge selection, prescale and source state a qualified edge chuffs or not: with a lost time of 500 ms the sensor is live again at
a period of 499,950 µs and not at 500,000 µs, and in VIRTUAL it is captured only (R87 to R89). -/
theorem witness_SensorEvents_edges :
    let first := fun (previous : Option Level) (run : Nat) => { moving with chk := { moving.chk with previous := previous, run := run } }
    after (.axsSample .low) (first (some .low) 2) (fun t => t.chk.level == some .low && t.chk.run == 0 && t.chk.count == 0) = true
    ∧ after (.axsSample .low) (first (some .low) 1) (fun t => t.chk.level == none && t.chk.run == 2) = true
    ∧ after (.axsSample .low) (first (some .high) 2) (fun t => t.chk.level == none && t.chk.run == 1) = true
    ∧ ∀ x ∈ [(EdgeSelect.rising, Level.high, 1, SourceState.sensorLive, 0, 1), (.falling, .high, 1, .sensorLive, 0, 0),
        (.falling, .low, 1, .sensorLive, 0, 1), (.rising, .low, 1, .sensorLive, 0, 0), (.both, .high, 1, .sensorLive, 0, 1),
        (.both, .low, 1, .sensorLive, 0, 1), (.both, .low, 2, .sensorLive, 0, 0), (.both, .low, 1, .sensorLost, 499900, 1),
        (.both, .low, 1, .sensorLost, 499950, 0), (.both, .low, 1, .virtual, 0, 0)],
      after (.axsSample x.2.1)
        { sensing 2 with
          cfg := { groups1 with chuff := { chuff1 with edge := x.1, prescale := x.2.2.1 } },
          chk := { (sensing 2).chk with
            level := some (if x.2.1 = .high then .low else .high), source := x.2.2.2.1, capture := some x.2.2.2.2.1 } }
        (fun t => t.chk.level == some x.2.1 && t.chk.count == BitVec.ofNat 32 x.2.2.2.2.2) = true := by decide +kernel

theorem witness_OutputSamples : sounding.exc.part ≠ .idle ∧ (sounding.voice 2).state = .looping ∧ (running.voice 2).state = .free
    ∧ (sounding.voice 2).copy.loopStart < (sounding.voice 2).copy.loopEnd
    ∧ { sounding.voice 2 with state := .playing, pos := 511615 }.pos + 384 < 256 * (sounding.voice 2).copy.length
    ∧ 256 * (sounding.voice 2).copy.length ≤ { sounding.voice 2 with state := .released, pos := 511616 }.pos + 384
    ∧ (sounding.voice 2).tag ≠ 0 ∧ sounding.snd.modOn = true ∧ -32768 ≤ sounding.snd.modIn ∧ sounding.snd.modIn ≤ 32767
    ∧ State.reset.snd.modOn = false ∧ sounding.exc.part.driving = true ∧ halted.exc.part.driving = false
    ∧ (sounding.snd.order.Nodup ∧ ∀ v, v ∈ sounding.snd.order ↔ (v ∈ poolVoices ∧ (sounding.voice v).active = true)) := by decide

/-- 6.9: three voices give 6,510 together, which the volume 200 makes 5,085; voices 3 and 6 end at that expiry, in that order, and the
squeal, whose voice 6 was, is SPENT (R110 to R112, R130). -/
theorem test_outputSampleTimer_sum :
    let v := fun (start pos : Nat) (tag : Half) (gain : Nat) => ({ voice1 with
      state := .playing, pos := pos, tag := tag, copy := { voice1.copy with start := start, gain := gain } } : Voice)
    after .outputSampleTimer
      (put { running with snd := { running.snd with
          voices := ⟨v 0x4000 0 0 255, {}, {}, v 0x5000 511999 0x7F 100, {}, {}, v 0x6000 511999 0x8010 10, {}⟩, order := [6, 3],
          endCount := 7, squeal := .sounding } }
        [(0x4000, 22), (0x57CF, 10), (0x67CF, 0xF6)])
      (fun t => t.snd.out == 5085 && (t.voice 0).pos == 384 && !(t.voice 3).active && !(t.voice 6).active && t.snd.order == []
        && t.snd.endCount == 9 && t.snd.endList.e7 == ⟨0x7F, .playedOut, 3⟩ && t.snd.endList.e0 == ⟨0x8010, .playedOut, 6⟩
        && t.snd.squeal == .spent && t.exc.nlat == 0x10) = true := by decide +kernel

/-- A part with one waiting start. -/
def queued (r : StartReq) : State := { running with snd := { running.snd with queue := [r] } }

theorem witness_StartsBeginAndDecide : (queued request1).Answers request1.asker ∧ waiting.Answers .playCue
    ∧ (queued request1).snd.current = none ∧ (queued request1).snd.queue = [request1]
    ∧ (1 ≤ request1.pitch ∧ request1.pitch ≤ 1023 ∧ request1.volume ≤ 255 ∧ request1.priority ≤ 7 ∧ request1.clip ≤ 127)
    ∧ ¬ (1 ≤ { request1 with pitch := 0 }.pitch) ∧ (queued request1).exc.part ≠ .idle ∧ (queued request1).exc.part ≠ .halted
    ∧ (queued request1).sup.state ≠ .dark ∧ { queued request1 with exc := halted.exc }.exc.part = .halted :=
  ⟨⟨(by intro w h; cases h), by intro h; cases h⟩,
    ⟨(by intro w h; cases h; rfl), fun _ => ⟨by decide, ⟨1, rfl⟩, by decide, by decide, by decide⟩⟩, by decide⟩

/-- A part with a start whose descriptor has been read. -/
def deciding (r : StartReq) (ws : List Word) : State := { running with snd := { running.snd with current := some { req := r, words := ws } } }

/-- The second part of StartsBeginAndDecide, of a POOL and of a CHUFF start. -/
theorem witness_StartsBeginAndDecide_decided : ∀ r ∈ [request1, { request1 with cls := .chuff, asker := .chuff }],
    let s := deciding r words1
    s.exc.scan = none ∧ words1.length = 4 ∧ ({ req := r, words := words1 } : StartWork).doomed = false ∧ s.exc.part.driving = true
    ∧ s.sup.state ≠ .dark ∧ r.asker ≠ .playCue ∧ r.asker ≠ .squeal
    ∧ (s.voice 0).tag = 0 ∧ (s.voice 1).tag = 0 ∧ (Clip.ofWords words1).valid = true ∧ (Clip.ofWords [0x3000, 0, 0, 0]).valid = false
    ∧ r.tag = 0 ∧ (2 : Fin 8) ∈ poolVoices ∧ (s.voice 2).active = false ∧ (2 : Fin 8) ∉ s.snd.order
    ∧ (∀ u, u ∈ poolVoices → u < 2 → (s.voice u).active = true) := by decide

/-- A part whose pool is full, voices 3 and 5 sharing the lowest priority (6.9). -/
def full (priority : Nat) (r : StartReq) : State :=
  let v := fun (p : Nat) => ({ voice1 with priority := p, tag := 0 } : Voice)
  { waiting with snd := { waiting.snd with
      voices := ⟨{}, {}, v 3, { v priority with tag := 0x10 }, v 6, v 1, v 4, v 2⟩, order := [2, 3, 4, 5, 6, 7],
      current := some { req := r, words := words1 } } }

/-- The last clause of StartsBeginAndDecide: no voice is free and none has a lower priority. -/
theorem witness_StartsBeginAndDecide_none :
    (full 1 { request1 with priority := 1 }).snd.current = some { req := { request1 with priority := 1 }, words := words1 }
    ∧ (full 1 { request1 with priority := 1 }).exc.part = .running
    ∧ (∀ v, v ∈ poolVoices → ((full 1 { request1 with priority := 1 }).voice v).active = true)
    ∧ (∀ v, v ∈ (full 1 { request1 with priority := 1 }).snd.order → 1 ≤ ((full 1 { request1 with priority := 1 }).voice v).priority) := by decide

/-- The tagged clauses of StartsBeginAndDecide: a start with tag 0x10, which voice 3 carries, and one with tag 0x20, which none does. -/
theorem witness_StartsBeginAndDecide_tagged :
    (full 1 { request1 with tag := 0x10 }).orderOk ∧ (full 1 { request1 with tag := 0x10 }).tagsOk
    ∧ ((full 1 { request1 with tag := 0x10 }).voice 3).tag = 0x10 ∧ (3 : Fin 8) ∈ poolVoices
    ∧ ((full 1 { request1 with tag := 0x10 }).voice 3).active = true
    ∧ (deciding { request1 with tag := 0x20 } words1).orderOk
    ∧ (∀ v, ((deciding { request1 with tag := 0x20 } words1).voice v).tag ≠ 0x20) :=
  ⟨by unfold State.orderOk; decide, by unfold State.tagsOk; decide, by decide, by decide, by decide, by unfold State.orderOk; decide,
    by decide⟩

/-- A tagged start restarts its voice in place, its old start CUT (R103), and takes a free voice where none carries its tag (R104). -/
theorem test_startDecided_tagged :
    after .startDecided (full 1 { request1 with tag := 0x10, priority := 2 }) (fun t => (t.voice 3).priority == 2 && (t.voice 3).tag == 0x10
      && t.snd.order == [2, 4, 5, 6, 7, 3] && t.snd.endCount == 1 && t.snd.endList.e0 == ⟨0x10, .cut, 3⟩ && t.exc.nlat == 0x10) = true
    ∧ after .startDecided (deciding { request1 with tag := 0x20 } words1) (fun t =>
      (t.voice 2).tag == 0x20 && t.snd.order == [2] && t.snd.endCount == 0) = true := by decide +kernel

/-- The outcome of a start is written back to the PLAY cue that waits for it: made, INACTIVE, BAD_PARAM, BAD_CLIP and NO_VOICE (R119); a
refusal makes a SOUNDING squeal SILENT (R130). -/
theorem test_startDecided_handed :
    let r : StartReq := { request1 with asker := .playCue, priority := 1 }
    let w : StartWork := { req := r, words := words1 }
    let on := fun (w : Option StartWork) (q : List StartReq) => { waiting with snd := { waiting.snd with current := w, queue := q } }
    (∀ x ∈ [(on (some w) [], Instr.startDecided, 2, 0), (on (some { w with doomed := true }) [], .startDecided, 3, 3),
        (on none [{ r with pitch := 0 }], .startBegin, 3, 7), (on (some { w with words := [0x3000, 0, 0, 0] }) [], .startDecided, 3, 10),
        (full 1 r, .startDecided, 3, 9),
        ({ on none [r] with sup := { waiting.sup with state := .dark } }, .startBegin, 3, 3)],
      after x.2.1 x.1 (fun t => t.mem.read 0x800 == BitVec.ofNat 8 x.2.2.1 && t.mem.read 0x801 == 1
        && t.mem.read 0x802 == BitVec.ofNat 8 x.2.2.2 && t.mem.readLe 0x06 2 == 1 && t.exc.cueTake == 1 && t.exc.scan == none
        && t.exc.nlat == (if x.2.2.2 = 0 then 0 else 4)) = true)
    ∧ after .startDecided
      { squealing with snd := { squealing.snd with
          squeal := .sounding, current := some { w with req := { r with asker := .squeal }, doomed := true } } }
      (fun t => t.snd.squeal == .silent && t.exc.nlat == 0) = true := by decide +kernel

theorem witness_PoolSteals :
    let r : StartReq := { request1 with asker := .playCue, priority := 2 }
    let s := full 1 r
    s.mem.wf = true ∧ s.exc.scan = some ⟨1, 0, none⟩ ∧ s.snd.current = some { req := r, words := words1 } ∧ words1.length = 4
    ∧ s.exc.part = .running ∧ s.sup.state ≠ .dark ∧ r.cls = .pool ∧ r.tag = 0
    ∧ (Clip.ofWords words1).valid = true ∧ (∀ u, u ∈ poolVoices → (s.voice u).active = true)
    ∧ (s.snd.order.Nodup ∧ ∀ v, v ∈ s.snd.order ↔ (v ∈ poolVoices ∧ (s.voice v).active = true))
    ∧ s.snd.order = [2] ++ 3 :: [4, 5, 6, 7] ∧ (s.voice 3).priority < r.priority
    ∧ (∀ u, u ∈ [(2 : Fin 8)] → (s.voice 3).priority < (s.voice u).priority)
    ∧ (∀ u, u ∈ [(4 : Fin 8), 5, 6, 7] → (s.voice 3).priority ≤ (s.voice u).priority) ∧ (s.voice 3).tag ≠ 0
    ∧ s.port.awaiting = none ∧ s.exc.board = none ∧ s.inboxWaits = false := by decide

/-- PoolSteals of a PLAY cue and of a key, the second with a tag that no voice carries. -/
theorem witness_PoolSteals_tagged :
    (full 1 { request1 with asker := .playCue, priority := 2 }).Answers .playCue
    ∧ (full 1 { request1 with tag := 0x20 }).Answers .key ∧ (∀ u, ((full 1 { request1 with tag := 0x20 }).voice u).tag ≠ 0x20)
    ∧ after .startDecided (full 1 { request1 with tag := 0x20 }) (fun t => t.snd.order == [2, 4, 5, 6, 7, 3]
      && t.snd.endList.e0 == ⟨0x10, .stolen, 3⟩ && (t.voice 3).tag == 0x20) = true :=
  ⟨⟨(by intro w h; cases h; rfl), fun _ => ⟨by decide, ⟨1, rfl⟩, by decide, by decide, by decide⟩⟩,
    ⟨(by intro w h; cases h; rfl), by intro h; cases h⟩, by decide, by decide +kernel⟩

/-- A part whose squeal sounds on voice 2 in a state that no longer squeals. -/
def squealed : State :=
  { (running.setVoice 2 { voice1 with tag := 0x8010 }) with
    snd := { (running.setVoice 2 { voice1 with tag := 0x8010 }).snd with squeal := .sounding, squealDue := true } }

theorem witness_SquealChecks : halted.exc.part.driving = false ∧ moving.snd.squealDue = false
    ∧ squealing.exc.part.driving = true ∧ squealing.snd.squealDue = true
    ∧ squealing.snd.squeal = .silent ∧ squealed.exc.part.driving = true ∧ squealed.snd.squealDue = true
    ∧ (squealing.cfg.sound.sqClip ≠ none ∧ squealing.srg.traction = .moving ∧ squealing.srg.labour ≤ 2
      ∧ squealing.cfg.sound.sqLow ≤ squealing.srg.vl ∧ squealing.srg.vl ≤ squealing.cfg.sound.sqHigh)
    ∧ squealing.snd.queue.length < 32 ∧ 32 ≤ (List.replicate 32 request1).length
    ∧ squealed.snd.squeal = .sounding ∧ squealed.srg.traction = .standing ∧ squealed.tagsOk
    ∧ (running.setSqueal .spent).snd.squeal = .spent :=
  ⟨by decide, by decide, by decide, by decide, by decide, by decide, by decide, by decide, by decide, by decide, by decide, by decide,
    by unfold State.tagsOk; decide, by decide⟩

/-- The release of a squeal marks the waiting start and the start in progress of tag 0x8010 and no other (R108), and a full start queue
refuses the squeal at once (R101). -/
theorem test_squealCheck_release :
    after .squealCheck
      { squealed with snd := { squealed.snd with
          queue := [{ request1 with tag := 3 }, { request1 with tag := 0x8010 }],
          current := some { req := { request1 with tag := 0x8010 } } } }
      (fun t => t.snd.squeal == .silent && t.snd.queue.map (·.mark) == [false, true] && (t.voice 2).state == .released
        && t.snd.current.map (·.req.mark) == some true) = true
    ∧ after .squealCheck { squealing with snd := { squealing.snd with queue := List.replicate 32 request1 } } (fun t =>
      t.snd.squeal == .silent && t.snd.queue.length == 32) = true := by decide +kernel

/-- Each row of R136, by what it is reached with, and the outputs at the change into it from READY with a puff. -/
theorem witness_SmokeEvents_ranks :
    (∀ x ∈ [({ puffing.smk with fault := true, fluid := 0, hot := true }, PartState.running, Supply.normal, false, SmokeState.sensorFault,
          SmokeTarget.none, 0),
        ({ puffing.smk with fluid := 0 }, .halted, .lean, false, .off, .none, 0), ({ puffing.smk with fluid := 0 }, .running, .lean, false, .shed, .none, 0),
        (puffing.smk, .stopping, .holdup, false, .shed, .none, 0), ({ puffing.smk with fluid := 0, hot := true }, .running, .normal, false, .dry, .none, 0),
        ({ puffing.smk with hot := true }, .running, .normal, false, .hot, .none, 0),
        ({ puffing.smk with enable := false }, .running, .normal, false, .off, .none, 0),
        ({ puffing.smk with enable := false }, .running, .normal, true, .warming, .warm, 0), (puffing.smk, .running, .normal, false, .ready, .set, 255),
        ({ puffing.smk with temp := 199 }, .running, .normal, true, .warming, .set, 0)],
      let s := { puffing with
        smk := x.1, exc := { puffing.exc with part := x.2.1 }, sup := { puffing.sup with state := x.2.2.1 },
        cfg := { groups1 with smoke := { smoke1 with keepWarm := x.2.2.2.1 } } }
      s.evalSmoke.smk.state = x.2.2.2.2.1 ∧ s.evalSmoke.smk.target = x.2.2.2.2.2.1 ∧ s.evalSmoke.smk.fan = x.2.2.2.2.2.2
        ∧ (s.evalSmoke.smk.puff = none ↔ x.2.2.2.2.1 ≠ .ready))
    ∧ (let s := { smoking with smk := { smoking.smk with state := .warming, heater := 200 } }
      s.evalSmoke.smk.state = .ready ∧ s.evalSmoke.smk.heater = 0 ∧ s.evalSmoke.smk.fan = 40)
    ∧ (let s := { smoking with smk := { smoking.smk with state := .warming, target := .warm, temp := 100, heater := 90 } }
      s.evalSmoke.smk.state = .warming ∧ s.evalSmoke.smk.target = .set ∧ s.evalSmoke.smk.heater = 0) := by decide

/-- The hot latch is set at 260 °C and cleared at 230, not at 231 (R135); the heater's demand in WARMING, held to the allowance (R138); and
the last unit of fluid (R139). The codes are those of the table from 800 at 25 °C to 100 at 300. -/
theorem witness_SmokeEvents_timer :
    temperatureOf 201 smoke1.points = some 260 ∧ temperatureOf 204 smoke1.points = some 259 ∧ temperatureOf 276 smoke1.points = some 230
    ∧ temperatureOf 275 smoke1.points = some 231 ∧ temperatureOf 357 smoke1.points = some 199 ∧ temperatureOf 99 smoke1.points = none
    ∧ temperatureOf 100 smoke1.points = some 300 ∧ temperatureOf 800 smoke1.points = some 25
    ∧ (smoke1.points.map Prod.fst).Pairwise (fun a b => b < a)
    ∧ ∀ x ∈ [(false, 600, 204, SmokeState.ready, false, 0, 599, 0), (false, 600, 201, .hot, true, 0, 600, 0x1000), (true, 600, 275, .hot, true, 0, 600, 0),
        (true, 600, 276, .ready, false, 0, 599, 0), (false, 600, 357, .warming, false, 105, 600, 0), (false, 600, 800, .warming, false, 135, 600, 0),
        (false, 1, 308, .dry, false, 0, 0, 0x1000), (true, 600, 801, .sensorFault, true, 0, 600, 0x1000)],
      after (.smokeTimer (BitVec.ofNat 10 x.2.2.1)) { smoking with smk := { smoking.smk with hot := x.1, fluid := x.2.1 } } (fun t =>
        t.smk.state == x.2.2.2.1 && t.smk.hot == x.2.2.2.2.1 && t.smk.heater == x.2.2.2.2.2.1 && t.smk.fluid == x.2.2.2.2.2.2.1
        && t.exc.nlat == BitVec.ofNat 15 x.2.2.2.2.2.2.2) = true := by decide +kernel

theorem witness_SmokeEvents : smoking.smk.timer = true ∧ smoking.exc.part.driving = true ∧ halted.haltedLike = true
    ∧ State.reset.exc.part = .idle ∧ (adopting 1).exc.part = .adopting ∧ (adopting 1).haltedLike = false
    ∧ { smoking.smk with timer := false }.timer = false ∧ 2 ≤ smoking.smk.fluid
    ∧ puffing.smk.puff = some ⟨0, 30, 112, 195, false⟩ ∧ (30 : Nat) < 112
    ∧ puffing.smk.puff ≠ none ∧ smoking.smk.puff = none := by decide

/-- A part with one output of every effect, the last one bound to a function that is off. -/
def effects : State :=
  { lit with cfg := { lit.cfg with lights := { lit.cfg.lights with
      e0 := { effect := .blink 4 2, level := 100 }, e1 := { effect := .alternate 2 4, level := 90 },
      e2 := { effect := .alternate 1 4, level := 80 }, e3 := { effect := .fade 5 3, level := 70 },
      e4 := { effect := .fade 0 3, level := 60, dim := some 1, dimLevel := 128 }, e5 := { binding := some 0, effect := .steady, level := 50 } } } }

theorem witness_LampEffects : halted.lgt.timer = true ∧ { running.lgt with timer := false }.timer = false
    ∧ effects.lgt.timer = true ∧ effects.cfg.lights.e0.effect = .blink 4 2 ∧ effects.cfg.lights.e1.effect = .alternate 2 4
    ∧ effects.cfg.lights.e2.effect = .alternate 1 4 ∧ effects.cfg.lights.e3.effect = .fade 5 3 ∧ effects.cfg.lights.e4.effect = .fade 0 3
    ∧ effects.cfg.lights.e5.effect = .steady ∧ effects.cfg.lights.e6.effect = .flicker 60
    ∧ effects.cfg.lights.e7.effect = .chuffFlash 20 3 ∧ effects.drq.functions.getLsbD 0 = false ∧ effects.drq.functions.getLsbD 1 = true
    ∧ ({ level := 254 } : Lamp).level < 255 ∧ 255 ≤ ({ level := 255 } : Lamp).level ∧ ({ phase := 1 } : Lamp).phase < 4 / 2
    ∧ 4 / 2 ≤ ({ phase := 2 } : Lamp).phase ∧ ({ fade := 70 } : Lamp).fade ≤ 70 ∧ 10 < ({ flash := 11 } : Lamp).flash
    ∧ after .effectTimer effects (fun t =>
      t.lgt.lamps.e0.level == 100 && t.lgt.lamps.e1.level == 90 && t.lgt.lamps.e2.level == 0 && t.lgt.lamps.e3.level == 5
      && t.lgt.lamps.e4.level == 30 && t.lgt.lamps.e5.level == 0) = true := by decide +kernel

/-- Every output active or none, with phase 3, fade value 70 and flash remaining 20. -/
def phased (active : Bool) : State :=
  { effects with
    drq := { effects.drq with functions := if active then 3 else 0 },
    lgt := { effects.lgt with lamps := Octet.rep { phase := 3, fade := 70, flash := 20 } } }

/-- The phases of the BLINK and ALTERNATE outputs advance modulo their period of 4, active or not; every other output keeps its phase, a
BLINK output its fade value, and a FADE output its flash remaining (R151). -/
theorem test_effectTimer_phase : ∀ b ∈ [true, false],
    after .effectTimer (phased b) (fun t =>
      t.lgt.lamps.e0.phase == 0 && t.lgt.lamps.e1.phase == 0 && t.lgt.lamps.e2.phase == 0 && t.lgt.lamps.e3.phase == 3
      && t.lgt.lamps.e6.phase == 3 && t.lgt.lamps.e7.phase == 3 && t.lgt.lamps.e0.fade == 70 && t.lgt.lamps.e3.flash == 20
      && t.lgt.lamps.e7.flash == 10) = true := by decide +kernel

/-- A FADE output with rise 5 and fall 3 at level 70: toward its level from below and above while active, and toward 0 while not, never past
its target; and at once with steps of 0 (R153). -/
theorem test_effectTimer_fade : ∀ x ∈ [(true, 5, 3, 10, 15), (true, 5, 3, 68, 70), (true, 5, 3, 75, 72), (true, 5, 3, 72, 70), (true, 5, 3, 70, 70),
      (false, 5, 3, 10, 7), (false, 5, 3, 2, 0), (false, 5, 0, 10, 0), (true, 0, 3, 10, 70), (true, 5, 0, 90, 70), (false, 5, 3, 0, 0)],
    after .effectTimer
      { effects with
        cfg := { effects.cfg with lights := effects.cfg.lights.set 3 {
          binding := some (if x.1 then 1 else 0), effect := .fade x.2.1 x.2.2.1, level := 70 } },
        lgt := { effects.lgt with lamps := effects.lgt.lamps.set 3 { fade := x.2.2.2.1 } } }
      (fun t => t.lgt.lamps.e3.fade == x.2.2.2.2 && t.lgt.lamps.e3.level == x.2.2.2.2) = true := by decide +kernel

/-- A part with both buffers busy. -/
def crowded : State := { running with rrx := { running.rrx with buf1 := some [], buf2 := some [] } }

theorem witness_LinkEvents : State.reset.rrx.link = false ∧ running.exc.scan = none ∧ running.rrx.link = true ∧ running.rrx.frame = none
    ∧ running.rrx.buf1 = none ∧ running.rrx.lastEnd = none ∧ { running.rrx with lastEnd := some 51 }.lastEnd = some 51 ∧ 100 < 51 + 50
    ∧ 51 + 50 ≤ 101 ∧ { running.rrx with buf1 := some [] }.buf1 ≠ none ∧ { running.rrx with buf1 := some [] }.buf2 = none
    ∧ crowded.rrx.buf1 ≠ none ∧ crowded.rrx.buf2 ≠ none ∧ { running.rrx with frame := some .overrun }.frame = some .overrun
    ∧ running.exc.part = .running ∧ hearing.rrx.frame = some (.stored .one) ∧ linkCheck 0 [] = some .runt
    ∧ (adopting 1).exc.part = .adopting ∧ held.rrx.failsafe ≠ none := by decide

theorem witness_FrameKinds_throttle :
    let f := Frame.parse frame1
    hearing.exc.scan = none ∧ hearing.exc.part = .running ∧ hearing.rrx.frame = some (.stored .one) ∧ linkCheck 96 frame1 = none
    ∧ f.kind = 1 ∧ f.payload = [100, 0] ∧ (0 : Byte).toNat ≤ 2 ∧ 1 ≤ f.sender.toNat ∧ f.sender.toNat ≤ 65534
    ∧ 1 ≤ hearing.cfg.radio.unit ∧ f.target.toNat = hearing.cfg.radio.unit ∧ hearing.cfg.radio.group = 0 ∧ hearing.cfg.radio.binds = []
    ∧ hearing.cfg.radio.hostLead = false ∧ hearing.rrx.holder = none ∧ findEntry hearing.rrx.table f.sender = none
    ∧ freeEntry hearing.rrx.table = some 0 ∧ hearing.srg.traction ≠ .eHeld ∧ hearing.srg.traction ≠ .tripped := by decide +kernel

/-- A frame of one kind from a sender, with its length, its check, and the signal strength behind them (R158). -/
def frameOf (sender : Nat) (seq : Byte) (target : Nat) (kind : Byte) (payload : List Byte) : List Byte :=
  let body := [BitVec.ofNat 8 (payload.length + 9), BitVec.ofNat 8 (sender / 256), BitVec.ofNat 8 sender, seq,
    BitVec.ofNat 8 (target / 256), BitVec.ofNat 8 target, kind] ++ payload
  body ++ [(crc16 body >>> 8).setWidth 8, (crc16 body).setWidth 8, 60]

/-- The verdict that the last frame in the inbox writer's queue has. -/
def verdictIs (v : FrameVerdict) (t : State) : Bool := t.exc.inboxQueue.getLast?.map (·.record.verdict) == some v

/-- A part at 1000 ms with a frame in buffer 2, bound to 291 with function rights and to 5 with drive rights, in group 3. -/
def bound1 : State :=
  { sounding with
    exc := { running.exc with ms := 1000 },
    cfg := { groups1 with radio := { unit := 42, group := 3, groupReverse := true, failsafe := 500, binds := [(291, .functions), (5, .drive)] } },
    rrx := { running.rrx with frame := some (.stored .two), buf2 := some [], table := (Octet.rep none).set 4 (some ⟨291, 7, 701⟩) } }

/-- The frames of the cases of FrameKinds, with the verdict each gets in RUNNING: none for one that is dropped (299 ms after the last of
its number, addressed to another, or from sender 0). -/
def frames1 : List (List Byte × Option FrameVerdict) :=
  [(frameOf 291 7 42 3 [], none), (frameOf 291 8 43 3 [], none), (frameOf 0 8 42 3 [], none), (frameOf 65535 8 42 3 [], none),
   (frameOf 65534 8 42 3 [], some .acted), (frameOf 5 8 0 1 [100, 0], some .notForBroadcast), (frameOf 5 8 0 3 [], some .acted),
   (frameOf 5 8 42 0 [], some .unknownKind), (frameOf 5 8 42 6 [], some .unknownKind), (frameOf 5 8 42 15 [], some .unknownKind),
   (frameOf 5 8 42 32 [], some .unknownKind), (frameOf 5 8 42 1 [100, 3], some .badPayload), (frameOf 5 8 42 2 [4, 0, 0, 0, 1], some .badPayload),
   (frameOf 5 8 42 5 [16, 0], some .badPayload), (frameOf 6 8 42 1 [100, 0], some .notBound), (frameOf 291 8 42 1 [100, 0], some .noRight),
   (frameOf 5 8 4098 1 [255, 0], some .acted), (frameOf 291 8 42 2 [3, 0x80, 0, 0, 1], some .acted), (frameOf 5 8 42 4 [], some .notHolder),
   (frameOf 291 8 42 5 [15, 0], some .acted), (frameOf 291 8 42 5 [15, 1], some .acted), (frameOf 291 8 0 16 [], some .forHost),
   (frameOf 291 8 42 31 (List.replicate 16 9), some .forHost)]

theorem witness_FrameKinds :
    (∀ x ∈ frames1, linkCheck (8 * x.1.length) x.1 = none
      ∧ after (.frameArrival 900 (8 * x.1.length) x.1) bound1 (fun t => match x.2 with
        | some v => verdictIs v t
        | none => t.exc.inboxQueue == [] && t.rrx.buf2 == none) = true)
    ∧ bound1.exc.scan = none ∧ bound1.rrx.frame = some (.stored .two) ∧ bound1.exc.part = .running
    ∧ findEntry bound1.rrx.table 291 = some 4 ∧ (1000 - 701 < 300 ∧ 300 ≤ 1000 - 700) ∧ findEntry bound1.rrx.table 5 = none
    ∧ freeEntry bound1.rrx.table = some 0 ∧ freeEntry (Octet.rep (some ⟨9, 1, 600⟩)) = none
    ∧ oldestEntry ((Octet.rep (some ⟨9, 1, 600⟩)).set 3 (some ⟨9, 1, 500⟩)) 1000 = 3
    ∧ (let s := { bound1 with exc := { bound1.exc with part := .stopping } }
      after (.frameArrival 900 96 (frameOf 5 8 42 1 [100, 0])) s (verdictIs .inactive) = true
      ∧ after (.frameArrival 900 80 (frameOf 5 8 42 3 [])) s (verdictIs .acted) = true)
    ∧ (let s := { bound1 with cfg := { bound1.cfg with radio := { bound1.cfg.radio with hostLead := true } } }
      after (.frameArrival 900 96 (frameOf 5 8 42 1 [100, 0])) s (verdictIs .hostGated) = true)
    ∧ (let s := { bound1 with rrx := { bound1.rrx with holder := some ⟨5, 0⟩ } }
      after (.frameArrival 900 96 (frameOf 5 8 42 1 [100, 2])) s (fun t => verdictIs .acted t && t.drq.dir == .forward) = true
      ∧ after (.frameArrival 900 80 (frameOf 5 8 42 4 [])) s (fun t => verdictIs .acted t && t.rrx.holder == none) = true)
    ∧ (∀ x ∈ [TractionState.eHeld, .tripped],
      after (.frameArrival 900 96 (frameOf 5 8 42 1 [0, 2])) (latched x none bound1) (fun t =>
        verdictIs .acted t && t.srg.traction == .standing && t.bfu.trip == .none && t.drq.source == .radio) = true)
    ∧ bound1.srg.traction ≠ .eHeld ∧ bound1.srg.traction ≠ .tripped ∧ (bound1.key 15).clip = none ∧ (mapped.key 15).clip = some 9
    ∧ (mapped.key 15).mode = .hold ∧ bound1.snd.queue.length < 32 := by decide +kernel

theorem witness_LinkEvents_checks : frame1.head? = some 11 ∧ (9 : Nat) % 8 ≠ 0 ∧ (264 : Nat) % 8 = 0 ∧ (256 : Nat) ≠ 8 * (11 + 1)
    ∧ (96 : Nat) = 8 * (11 + 1)
    ∧ 256 * (frame1.getD 9 0).toNat + (frame1.getD 10 0).toNat = (crc16 (frame1.take 9)).toNat := by decide +kernel

theorem witness_SupplySamples : moving.restOk ∧ moving.exc.scan = none ∧ State.reset.configured = false
    ∧ moving.configured = true ∧ moving.sup.state = .normal ∧ 2 ≤ moving.cfg.power.qualifier
    ∧ moving.cfg.power.vOff < moving.cfg.power.vLean ∧ moving.cfg.power.vLean ≤ 12000 ∧ 11999 < moving.cfg.power.vLean
    ∧ moving.cfg.power.vOff ≤ 9000 ∧ 8999 < moving.cfg.power.vOff ∧ 0 < moving.cfg.power.holdTime ∧ moving.cfg.power.vhMin ≤ 6000
    ∧ 5999 < moving.cfg.power.vhMin ∧ moving.exc.part ≠ .stopping ∧ State.reset.restOk :=
  ⟨by unfold State.restOk; decide, by decide, by decide, by decide, by decide, by decide, by decide, by decide, by decide, by decide,
    by decide, by decide, by decide, by decide, by decide, by unfold State.restOk; decide⟩

/-- A part in one supply state, with the run counts of the other two samples it needs. -/
def supplied (state : Supply) (runs : Nat) : State :=
  { moving with
    srg := if state = .dark then { moving.srg with traction := .standing, r := 0 } else moving.srg,
    sup := { moving.sup with
      state := state, lean := runs, recover := runs, loss := runs, ret := runs, holdup := if state = .holdup then some 9 else none } }

/-- The sample rows of LEAN, HOLDUP and DARK at their bounds: VLEAN + 500 for a third time, 499 above it, VOFF, below VOFF for a second
time, the lowest storage, and VON for a third and for a second time (11.2). -/
theorem witness_SupplySamples_states :
    (∀ x ∈ [(Supply.lean, 2, 12500, 14000, Supply.normal), (.lean, 2, 12499, 14000, .lean), (.lean, 1, 12500, 14000, .lean),
        (.lean, 1, 9000, 14000, .lean), (.lean, 1, 8999, 6000, .holdup), (.lean, 1, 8999, 5999, .dark), (.lean, 0, 8999, 6000, .lean),
        (.normal, 2, 11999, 14000, .lean), (.normal, 1, 8999, 6000, .holdup), (.normal, 1, 8999, 5999, .dark),
        (.holdup, 0, 11000, 5999, .dark), (.holdup, 2, 11000, 6000, .normal), (.holdup, 1, 11000, 6000, .holdup),
        (.holdup, 2, 10999, 6000, .holdup), (.dark, 2, 11000, 0, .normal), (.dark, 1, 11000, 0, .dark), (.dark, 2, 10999, 0, .dark)],
      let s := supplied x.1 x.2.1
      s.exc.scan = none ∧ s.configured = true ∧ s.sup.state = x.1 ∧ (s.srg.traction = .standing → s.srg.r = 0)
      ∧ s.srg.traction ≠ .eHeld ∧ s.srg.traction ≠ .tripped
      ∧ after (.supplyTimer x.2.2.1 x.2.2.2.1) s (fun t => t.sup.state == x.2.2.2.2) = true) := by decide +kernel

/-- A change to HOLDUP cuts the duty of 1023 to 600, and to 300 on the faster motor while slipping; one to LEAN leaves it. The smoke unit is
SHED, and in STOPPING a part whose traction stands, or whose supply goes DARK, is HALTED. -/
theorem witness_SupplySamples_effects :
    (∀ x ∈ [(8999, 6000, SlipState.normal, Supply.holdup, 600), (8999, 6000, .slipping, .holdup, 600 * (100 - 50) / 100),
        (11999, 14000, .normal, .lean, 1023)],
      let s := supplied .normal (if x.2.2.2.1 = .lean then 2 else 1)
      after (.supplyTimer x.1 x.2.1)
        { s with
          cfg := { groups1 with traction := { traction1 with slipCut := 50 } }, smk := puffing.smk,
          srg := { s.srg with motors := ⟨{ d := 1023 }, {}⟩ },
          bfu := { s.bfu with slip := x.2.2.1, faster := some .a, chans := ⟨{ pos := some 0, mode := .drive, duty := 1023 }, {}⟩ } }
        (fun t => t.sup.state == x.2.2.2.1 && t.srg.motors.a.d == x.2.2.2.2 && (t.chan .a).duty == x.2.2.2.2
          && t.smk.state == .shed && t.smk.fan == 0 && t.smk.puff == none && t.exc.nlat == 0x2000) = true)
    ∧ (∀ x ∈ [(8999, 6000, TractionState.standing), (8999, 5999, .moving)],
      let s := supplied .normal 1
      after (.supplyTimer x.1 x.2.1)
        { s with exc := { s.exc with part := .stopping }, srg := { s.srg with traction := x.2.2, r := if x.2.2 = .standing then 0 else s.srg.r } }
        (fun t => t.exc.part == .halted && t.mem.read 0x10 == 4) = true) := by decide +kernel

/-- The background clip is asked for at NORMAL and LEAN, not at HOLDUP, nor while voice 1 is active (R127). -/
theorem witness_SupplySamples_background : ∀ x ∈ [(Supply.lean, 2, 12500, false, 1), (.normal, 2, 11999, false, 1), (.dark, 2, 11000, false, 1),
      (.normal, 1, 8999, false, 0), (.lean, 2, 12500, true, 0)],
    let s := supplied x.1 x.2.1
    after (.supplyTimer x.2.2.1 14000) (if x.2.2.2.1 then s.setVoice 1 { voice1 with tag := 0 } else s) (fun t =>
      t.sup.state != s.sup.state && t.snd.queue.length == x.2.2.2.2) = true := by decide +kernel

theorem witness_HoldupAndShare : bridging.exc.scan = none ∧ bridging.sup.holdup = some 0 ∧ bridging.exc.part ≠ .stopping
    ∧ moving.sup.holdup = none ∧ bridging.sup.share = true ∧ State.reset.sup.share = false ∧ bridging.mem.wf = true := by decide

/-- The expiry in each part state: STOPPING enters HALTED, the others stay; E_BRAKE stands, E_HELD and TRIPPED are kept (R12, R61), and a
voice's end record is made (R115). -/
theorem witness_HoldupAndShare_states :
    ∀ x ∈ [(PartState.running, TractionState.eBrake, PartState.running, TractionState.standing), (.running, .eHeld, .running, .eHeld),
        (.running, .tripped, .running, .tripped), (.stopping, .turning, .halted, .standing), (.halted, .standing, .halted, .standing),
        (.halted, .eHeld, .halted, .eHeld), (.adopting, .standing, .adopting, .standing), (.idle, .standing, .idle, .standing)],
      let b := { bridging with snd := sounding.snd, lgt := { lit.lgt with lamps := Octet.rep { level := 88, program := 200 } } }
      let s := { b with
        exc := { b.exc with part := x.1 },
        srg := { b.srg with traction := x.2.1, r := if x.2.1.ends then 0 else 64, turnTimer := if x.2.1 = .turning then some 9 else none } }
      s.exc.scan = none ∧ s.sup.holdup = some 0 ∧ s.mem.wf = true
      ∧ after .holdupTimerExpiry s (fun t => t.exc.part == x.2.2.1 && t.srg.traction == x.2.2.2 && t.srg.r == 0 && t.srg.turnTimer == none
        && t.sup.state == .dark && t.lgt.cap == 0 && t.lgt.lamps.e0.level == 0 && t.snd.cap == 0 && !(t.voice 2).active
        && t.exc.nlat.getLsbD 13 && t.snd.endCount == (if (sounding.voice 2).tag = 0 then 0 else 1)) = true := by decide +kernel

end Sys2Proof.Tests
end

section
/-!
PROOF. A scan of an overrun cue strip (R18). What the scan does before it comes to the strip (the millisecond count of R14, the drive
slot of R15 and R16) leaves both cue tallies and every cue record alone; the strip is then abandoned.
-/
namespace Sys2Proof.Machine

/-- What a scan's work ahead of the cue strip keeps (R14 to R16): of exchange memory it writes the millisecond count, the last taken
tally and the slot state alone, and it leaves the part state, the take tally, function state, SND, SMK and the configuration. -/
structure StripKept (s t : State) : Prop where
  part      : t.exc.part = s.exc.part
  scan      : t.exc.scan = s.exc.scan
  cueTake   : t.exc.cueTake = s.exc.cueTake
  snd       : t.snd = s.snd
  functions : t.drq.functions = s.drq.functions
  cfg       : t.cfg = s.cfg
  smk       : t.smk = s.smk
  wf        : t.mem.wf = true
  read      : ∀ a, ¬ (0x0C ≤ a ∧ a ≤ 0x0F) → a ≠ 0x15 → a ≠ 0x16 → t.mem.read a = s.mem.read a

theorem StripKept.refl {s : State} (hw : s.mem.wf = true) : StripKept s s :=
  ⟨rfl, rfl, rfl, rfl, rfl, rfl, rfl, hw, fun _ _ _ _ => rfl⟩

theorem StripKept.trans {s t u : State} (h : StripKept s t) (h' : StripKept t u) : StripKept s u where
  part := h'.part.trans h.part
  scan := h'.scan.trans h.scan
  cueTake := h'.cueTake.trans h.cueTake
  snd := h'.snd.trans h.snd
  functions := h'.functions.trans h.functions
  cfg := h'.cfg.trans h.cfg
  smk := h'.smk.trans h.smk
  wf := h'.wf
  read a hms h15 h16 := (h'.read a hms h15 h16).trans (h.read a hms h15 h16)

/-- The append tally's field is none of the bytes written ahead of the strip. -/
theorem StripKept.readAppend {s t : State} (h : StripKept s t) : t.mem.readLe 0x04 2 = s.mem.readLe 0x04 2 :=
  Memory.readLe_congr fun b _ _ => h.read b (by omega) (by omega) (by omega)

/-! ### The steps ahead of the strip -/

theorem State.advanceMs_stripKept {s : State} (hw : s.mem.wf = true) : StripKept s s.advanceMs where
  part := rfl
  scan := rfl
  cueTake := rfl
  snd := rfl
  functions := rfl
  cfg := rfl
  smk := rfl
  wf := State.advanceMs_wf hw
  read a hms _ _ := by rw [State.advanceMs_read hw, if_neg hms]

theorem State.holdScan_stripKept {s : State} (held : Bool) (hw : s.mem.wf = true) : StripKept s (s.holdScan held) :=
  ⟨rfl, rfl, rfl, rfl, rfl, rfl, rfl, hw, fun _ _ _ _ => rfl⟩

theorem State.setSlotState_stripKept {s : State} (x : SlotState) (hw : s.mem.wf = true) : StripKept s (s.setSlotState x) where
  part := rfl
  scan := rfl
  cueTake := rfl
  snd := rfl
  functions := rfl
  cfg := rfl
  smk := rfl
  wf := State.wf_writeField (by decide) hw
  read a _ _ h16 := by
    show (s.mem.writeCells (leCells 0x16 1 _)).read a = _
    rw [Memory.read_writeField (by decide) hw, if_neg (by omega)]

theorem State.markPending_stripKept {s : State} (hw : s.mem.wf = true) : StripKept s s.markPending := by
  unfold State.markPending
  split
  · exact StripKept.refl hw
  · exact State.setSlotState_stripKept _ hw

theorem State.judgeSlot_stripKept {s : State} (x : Slot) (hp : s.exc.part ≠ .stopping) (hw : s.mem.wf = true) :
    StripKept s (s.judgeSlot x).1 := by
  obtain ⟨hd, hf⟩ := State.judgeSlot_spec x hp
  obtain ⟨-, -, hsnd, hsmk, -, -, -, hmem, hcfg, hexc⟩ := hd.fields
  exact ⟨by rw [hexc], by rw [hexc], by rw [hexc], hsnd, hf, hcfg, hsmk, by rw [hmem]; exact hw, fun _ _ _ _ => by rw [hmem]⟩

theorem State.endTake_stripKept {s : State} (t : Byte) (x : SlotState) (hw : s.mem.wf = true) :
    StripKept s (((s.setLastTaken t).setSlotState x).latch .slotTaken) := by
  obtain ⟨-, hwf, hread⟩ := State.endTake_spec t x hw
  exact ⟨rfl, rfl, rfl, rfl, rfl, rfl, rfl, hwf, fun a _ h15 h16 => by rw [hread, if_neg h15, if_neg h16]⟩

theorem State.takeSlot_stripKept {s : State} (hp : s.exc.part ≠ .stopping) (hw : s.mem.wf = true) : StripKept s s.takeSlot :=
  have hj := State.judgeSlot_stripKept s.mem.readSlot hp hw
  hj.trans (State.endTake_stripKept _ _ hj.wf)

/-- Whatever the scan makes of the drive slot outside STOPPING, the strip is as it was (R15, R16). -/
theorem State.examineSlot_stripKept {s : State} (hp : s.exc.part ≠ .stopping) (hw : s.mem.wf = true) :
    StripKept s s.examineSlot := by
  have posted (m e : Byte) : StripKept s
      { s.markPending with exc := { s.markPending.exc with slotMoment := m, slotEmergency := e } } :=
    have hm := State.markPending_stripKept hw
    hm.trans ⟨rfl, rfl, rfl, rfl, rfl, rfl, rfl, hm.wf, fun _ _ _ _ => rfl⟩
  unfold State.examineSlot
  dsimp only
  split
  · split
    · have h := posted (BitVec.ofNat 8 s.mem.readSlot.moment) (BitVec.ofNat 8 s.mem.readSlot.emergency)
      exact h.trans (State.takeSlot_stripKept (by rw [h.part]; exact hp) h.wf)
    · exact posted _ _
  · split
    · exact State.setSlotState_stripKept _ hw
    · exact StripKept.refl hw

/-! ### The strip abandoned -/

/-- More than 64 records stand between the take tally and the append tally as read (R18). -/
def State.stripOver (s : State) : Prop :=
  64 < (s.mem.readLe 0x04 2 + 65536 - s.exc.cueTake.toNat) % 65536

theorem StripKept.stripOver {s t : State} (h : StripKept s t) (ho : s.stripOver) : t.stripOver := by
  unfold State.stripOver
  rw [h.readAppend, h.cueTake]
  exact ho

theorem Memory.readLe_two_lt (m : Memory) (a : Nat) : m.readLe a 2 < 65536 := by
  have h0 := (m.read a).isLt
  have h1 := (m.read (a + 1)).isLt
  simp only [Memory.readLe]
  omega

/-- The append tally is the two bytes as read. -/
theorem State.appendTally_toNat (s : State) : s.appendTally.toNat = s.mem.readLe 0x04 2 := by
  simp only [State.appendTally, BitVec.toNat_ofNat]
  exact Nat.mod_eq_of_lt (Memory.readLe_two_lt _ _)

theorem State.setCueTake_read {s : State} (t : Half) (hw : s.mem.wf = true) (a : Nat) :
    (s.setCueTake t).mem.read a = if 0x06 ≤ a ∧ a < 0x06 + 2 then BitVec.ofNat 8 (t.toNat / 256 ^ (a - 0x06)) else s.mem.read a :=
  Memory.read_writeField (by decide) hw

/-- The directory's take tally reads as it was set (R18). -/
theorem State.setCueTake_field {s : State} (t : Half) (hw : s.mem.wf = true) : (s.setCueTake t).mem.readLe 0x06 2 = t.toNat := by
  have ht := t.isLt
  have hlow : (s.setCueTake t).mem.read 0x06 = BitVec.ofNat 8 t.toNat := by simp [State.setCueTake_read t hw]
  have hhigh : (s.setCueTake t).mem.read 0x07 = BitVec.ofNat 8 (t.toNat / 256) := by simp [State.setCueTake_read t hw]
  simp only [Memory.readLe, hlow, hhigh, BitVec.toNat_ofNat]
  omega

/-- An overrun strip is abandoned whole, and no record is taken (R18). -/
theorem State.scanCues_over {s : State} (h : s.stripOver) : s.scanCues = (s.setCueTake s.appendTally).latch .stripOverrun := by
  have hn : 64 < (s.appendTally - s.exc.cueTake).toNat := by
    have ht := s.exc.cueTake.isLt
    rw [BitVec.toNat_sub, s.appendTally_toNat]
    unfold State.stripOver at h
    omega
  simp only [State.scanCues, if_pos hn]

/-- What scan work makes of an overrun strip where cues are taken (R18). -/
structure StripAbandoned (s t : State) : Prop where
  cueTake   : t.exc.cueTake = s.appendTally
  field     : t.mem.readLe 0x06 2 = s.mem.readLe 0x04 2
  notice    : t.exc.nlat.getLsbD Notice.stripOverrun.bit = true
  scan      : t.exc.scan = s.exc.scan
  part      : t.exc.part = s.exc.part
  snd       : t.snd = s.snd
  functions : t.drq.functions = s.drq.functions
  cfg       : t.cfg = s.cfg
  smk       : t.smk = s.smk
  read      : ∀ a, ¬ (0x0C ≤ a ∧ a ≤ 0x0F) → a ≠ 0x06 → a ≠ 0x07 → a ≠ 0x15 → a ≠ 0x16 → t.mem.read a = s.mem.read a

/-- What comes ahead of the strip does not show in its being abandoned. -/
theorem StripKept.abandoned {s t u : State} (h : StripKept s t) (a : StripAbandoned t u) : StripAbandoned s u where
  cueTake := by rw [a.cueTake, State.appendTally, State.appendTally, h.readAppend]
  field := a.field.trans h.readAppend
  notice := a.notice
  scan := a.scan.trans h.scan
  part := a.part.trans h.part
  snd := a.snd.trans h.snd
  functions := a.functions.trans h.functions
  cfg := a.cfg.trans h.cfg
  smk := a.smk.trans h.smk
  read b hms h6 h7 h15 h16 := (a.read b hms h6 h7 h15 h16).trans (h.read b hms h15 h16)

theorem State.scanCues_abandons {s : State} (hw : s.mem.wf = true) (ho : s.stripOver) : StripAbandoned s s.scanCues := by
  rw [State.scanCues_over ho]
  refine ⟨rfl, ?_, ?_, rfl, rfl, rfl, rfl, rfl, rfl, fun a _ h6 h7 _ _ => ?_⟩
  · rw [State.latch_mem, State.setCueTake_field _ hw, s.appendTally_toNat]
  · simp [Notice.mask, Notice.bit]
  · rw [State.latch_mem, State.setCueTake_read _ hw, if_neg (by omega)]

/-- In HALTED the scan goes to the strip at once, and in RUNNING after the drive slot (R14). -/
theorem State.scanWork_abandons {s : State} (hw : s.mem.wf = true) (hp : s.exc.part.takesCues = true) (ho : s.stripOver) :
    StripAbandoned s s.scanWork := by
  unfold State.scanWork
  cases h : s.exc.part with
  | running =>
    have hk := State.examineSlot_stripKept (s := s) (by simp [h]) hw
    exact hk.abandoned (State.scanCues_abandons hk.wf (hk.stripOver ho))
  | halted => exact State.scanCues_abandons hw ho
  | idle | adopting | stopping => simp [h, PartState.takesCues] at hp

/-! ### The two commands that begin scan work -/

/-- Scan work begun by either command, where nothing waits: it starts from a state with the strip as it was (R6, R14). -/
theorem exec_scan_begins {c : Instr} {s : State} (hc : c = .scanTimer ∨ (c = .scanWorkDeferred ∧ s.exc.scanHeld = true))
    (hw : s.mem.wf = true) (hs : s.exc.scan = none) (hl : s.lowerWaits = false) (hp : s.exc.part.takesCues = true) :
    ∃ u, StripKept s u ∧ exec c s = finish u.scanWork := by
  rcases hc with rfl | ⟨rfl, hh⟩
  · have hi : s.exc.part ≠ .idle := by intro e; simp [e, PartState.takesCues] at hp
    have hk := State.advanceMs_stripKept hw
    have hb : s.advanceMs.scanBusy = false := by simp [State.scanBusy, hk.scan, hs]
    refine ⟨s.advanceMs, hk, ?_⟩
    show execScanTimer s = _
    simp [execScanTimer, State.scanExpiry, hi, hl, hb]
  · have hb : s.scanBusy = false := by simp [State.scanBusy, hs]
    refine ⟨s.holdScan false, State.holdScan_stripKept false hw, ?_⟩
    show execScanWorkDeferred s = _
    simp [execScanWorkDeferred, hh, hb, hl]

/-- Settles O31: scan work starts from a state with the strip as it was, comes to the strip with it still so, and abandons it. -/
theorem stripOverrun : Obligations.StripOverrun := by
  unfold Obligations.StripOverrun
  intro c s hc hw hs hl hp ho
  obtain ⟨u, hk, he⟩ := exec_scan_begins hc hw hs hl hp
  have ha : StripAbandoned s u.scanWork :=
    hk.abandoned (State.scanWork_abandons hk.wf (by rw [hk.part]; exact hp) (hk.stripOver ho))
  have hq : u.scanWork.exc.scan = none := ha.scan.trans hs
  exact ⟨u.scanWork, by rw [he, finish_none hq], ha.cueTake, ha.field, ha.notice, hq, ha.part, ha.snd, ha.functions, ha.cfg,
    by rw [ha.smk], ha.read⟩

end Sys2Proof.Machine
end

section
/-!
PROOF. The throttle curve (R26), and the request that a throttle makes in the drive slot and in a radio frame (R16, R166). A request may
clear a latch, trip DRIVER again and even end STOPPING in HALTED; none of these writes DRQ's record, so the record stands as R25 derives it,
in every part state.
-/
namespace Sys2Proof.Machine

/-! ### The curve -/

theorem curveValue_zero (points : List Nat) : curveValue points 0 = 0 := if_pos rfl

theorem curveValue_top (points : List Nat) : curveValue points 200 = points.getD 10 0 := by
  rw [curveValue, if_neg (by decide), if_pos (Nat.le_refl 200)]

/-- `f` steps into the `k`-th of the ten segments of 20 throttle steps. -/
theorem curveValue_segment (points : List Nat) {k f : Nat} (hk : k < 10) (hf : f < 20) (hpos : 0 < 20 * k + f) :
    curveValue points (20 * k + f) = points.getD k 0 + (points.getD (k + 1) 0 - points.getD k 0) * f / 20 := by
  have hseg : (20 * k + f) / 20 = k := by omega
  have hstep : 20 * k + f - 20 * k = f := by omega
  rw [curveValue, if_neg (by omega), if_neg (by omega)]
  simp only [hseg, hstep]

/-- A part of a rise does not exceed it. -/
theorem rise_part_le (rise : Nat) {f : Nat} (hf : f < 20) : rise * f / 20 ≤ rise :=
  Nat.div_le_of_le_mul (by rw [Nat.mul_comm 20]; exact Nat.mul_le_mul_left rise (Nat.le_of_lt hf))

/-- S from a throttle (R25, R26): the curve's value, halved with SHUNT. -/
theorem deriveS_throttle (points : List Nat) (t : Nat) (shunt : Bool) :
    deriveS points (.throttle t) shunt = curveValue points t / (if shunt then 2 else 1) := by
  cases shunt
  · exact (Nat.div_one _).symm
  · rfl

/-! ### A latch clear leaves DRQ's record alone -/

theorem driveOnly.drq {s t : State} (h : driveOnly s t) : t.drq = s.drq := h.fields.2.1

@[simp] theorem State.toStanding_drq (s : State) : s.toStanding.drq = s.drq := s.toStanding_driveOnly.drq

@[simp] theorem State.endStopping_drq (s : State) : s.endStopping.drq = s.drq := by
  obtain ⟨h, -⟩ | ⟨h, -⟩ := s.endStopping_cases
  · rw [h]
  · rw [h]; exact s.enterHalted_spec.1

@[simp] theorem State.tripNow_drq (s : State) (r : TripReason) : (s.tripNow r).drq = s.drq := by
  unfold State.tripNow
  split
  · rw [State.endStopping_drq, State.tractionTripped_drq, State.latch_drq, State.onChans_drq]
  · rfl

@[simp] theorem State.checkDriver_drq (s : State) : s.checkDriver.drq = s.drq := by
  unfold State.checkDriver
  split
  · exact s.tripNow_drq .driver
  · rfl

@[simp] theorem State.latchClear_drq (s : State) : s.latchClear.drq = s.drq := by
  unfold State.latchClear
  split
  · rw [State.endStopping_drq, State.toStanding_drq]
  · rw [State.checkDriver_drq, State.endStopping_drq, State.toStanding_drq, State.clearTrip_drq]
  · rfl

@[simp] theorem State.zeroRequest_drq (s : State) : s.zeroRequest.drq = s.drq := by
  unfold State.zeroRequest
  split
  · exact s.latchClear_drq
  · rfl

/-! ### The request -/

/-- DRQ's record after a request, whatever the part state (R25, R28, R29). -/
theorem State.request_drq (s : State) (src : Source) (o : Origin) (d : Nat) :
    (s.request src o d).drq = { s.drq with
      source := src, origin := o, dir := directionOf d s.drq.dir, s := deriveS s.cfg.curve o s.drq.shunt } :=
  State.zeroRequest_drq _

theorem State.request_throttle (s : State) (src : Source) (t d : Nat) :
    (s.request src (.throttle t) d).drq.origin = .throttle t
    ∧ (s.request src (.throttle t) d).drq.s = curveValue s.cfg.curve t / (if s.drq.shunt then 2 else 1) := by
  rw [State.request_drq]
  exact ⟨rfl, deriveS_throttle _ _ _⟩

/-- A valid throttle post is a request of its value, clamped to 200 (R16). -/
theorem State.judgeSlot_throttle (s : State) {x : Slot} (he : x.emergency = 0) (hf : x.form = 1) (hd : x.direction ≤ 2)
    (hm : x.moment ≤ 3) : (s.judgeSlot x).1 = s.request .host (.throttle (min x.value 200)) x.direction := by
  rw [State.judgeSlot, if_neg (by omega), if_neg (by omega), if_neg (by omega), if_neg (by omega)]

/-- The frame's sender may become the holder first; the request is made on the same record and curve (R166). -/
theorem State.dispatchThrottle_throttle (s : State) (f : Frame) :
    (s.dispatchThrottle f).drq.origin = .throttle (min (byteAt f.payload 0) 200)
    ∧ (s.dispatchThrottle f).drq.s = curveValue s.cfg.curve (min (byteAt f.payload 0) 200) / (if s.drq.shunt then 2 else 1) := by
  unfold State.dispatchThrottle
  dsimp only
  split
  · exact (s.hearHolder f.sender).request_throttle .radio _ _
  · exact s.request_throttle .radio _ _

/-- Settles O35, segment by segment for the curve, and by the record of a request for the clamped throttles. -/
theorem throttleCurve : Obligations.ThrottleCurve := by
  unfold Obligations.ThrottleCurve
  refine ⟨fun points _ => ⟨curveValue_zero points, curveValue_top points, fun k f hk hf hpos hle => ?_⟩,
    fun s x he hf hd hm => ?_, State.dispatchThrottle_throttle⟩
  · have hv := curveValue_segment points hk hf hpos
    have hpart := rise_part_le (points.getD (k + 1) 0 - points.getD k 0) hf
    refine ⟨hv, ?_, ?_⟩
    · rw [hv]
      exact Nat.le_add_right _ _
    · rw [hv]
      omega
  · rw [s.judgeSlot_throttle he hf hd hm]
    exact s.request_throttle .host _ _

end Sys2Proof.Machine
end

section
/-!
PROOF. What every operation of the machine keeps, said once for all the promises of Safety.lean: `Base` for the promises that no
operation breaks on its way, `Kept` for those that hold again at its end, `Calm` for what stays but at the commands that a rule names,
and `Act` with the scan that stays free.
-/
-- One proof is elaborated at a time: with all of them at once the whole text needs more threads than its memory limit leaves room for.
set_option Elab.async false

namespace Sys2Proof.Machine

/-! ### The parts of the state that the promises speak of -/

/-- What the promises of Safety.lean look at, apart from the bridges' switches and duties. -/
structure View where
  mem       : Memory
  awaiting  : Option (List Host.Cell)
  pending   : List Instr
  part      : PartState
  adopting  : Bool
  board     : Option Nat
  boardGen  : Word
  scan      : Option ScanWork
  source    : Source
  holder    : Bool
  traction  : TractionState
  r         : Nat
  bridgeDir : Direction
  dutyA     : Nat
  dutyB     : Nat
  trip      : TripReason
  smoke     : SmokeState
  heater    : Nat
  hlim      : Nat
  fluid     : Nat
  allowance : Nat
  supply    : Supply
  capacity  : Nat
  lfsr      : BitVec 16
  voices    : Octet Voice
  order     : List (Fin 8)

/-- What the promises look at in a state. -/
def State.view (s : State) : View :=
  { mem := s.mem, awaiting := s.port.awaiting, pending := s.pending, part := s.exc.part, adopting := s.exc.adoption.isSome,
    board := s.exc.board, boardGen := s.exc.boardGen, scan := s.exc.scan, source := s.drq.source, holder := s.rrx.holder.isSome,
    traction := s.srg.traction, r := s.srg.r, bridgeDir := s.srg.bridgeDir, dutyA := s.srg.motors.a.d, dutyB := s.srg.motors.b.d,
    trip := s.bfu.trip, smoke := s.smk.state, heater := s.smk.heater, hlim := s.smk.hlim, fluid := s.smk.fluid,
    allowance := s.sup.hlim, supply := s.sup.state, capacity := s.cfg.smoke.capacity, lfsr := s.lgt.lfsr, voices := s.snd.voices,
    order := s.snd.order }

/-- What a channel keeps of the promises: no half-bridge comes to have both switches on (R70), and a still one stays still. -/
structure Channel.Calm (ch ch' : Channel) : Prop where
  safe  : ch.safe = true → ch'.safe = true
  still : ch.still = true → ch'.still = true

theorem Channel.Calm.refl (ch : Channel) : Channel.Calm ch ch := ⟨id, id⟩

theorem Channel.Calm.trans {a b c : Channel} (h : Channel.Calm a b) (h' : Channel.Calm b c) : Channel.Calm a c :=
  ⟨fun x => h'.safe (h.safe x), fun x => h'.still (h.still x)⟩

/-! ### The promises kept -/

/-- The promises of the heater but for the supply, the fluid and the part state that it needs (R138, R139). -/
structure State.WarmOk (s : State) : Prop where
  allowance : s.smk.hlim = s.sup.hlim
  below     : s.smk.heater ≤ s.smk.hlim
  heats     : s.smk.heater ≠ 0 → s.smk.state.heats = true
  fluid     : s.smk.fluid ≤ s.cfg.smoke.capacity

theorem State.HeaterOk.warm {s : State} (h : s.HeaterOk) : s.WarmOk := ⟨h.allowance, h.below, h.heats, h.fluid⟩

/-- The promises that no operation breaks on its way to its end. -/
structure Base (s t : State) : Prop where
  mem     : s.memOk → t.memOk
  safe    : s.noShootThrough → t.noShootThrough
  pending : t.pending = s.pending
  holder  : s.holderOk → t.holderOk
  lfsr    : s.lfsrOk → t.lfsrOk
  board   : s.boardOk → t.boardOk
  order   : s.orderOk → s.tagsOk → t.orderOk ∧ t.tagsOk
  warm    : s.WarmOk → t.WarmOk

/-- The promises that hold again at the end of an operation. -/
structure Kept (s t : State) : Prop extends Base s t where
  adoption : s.adoptionOk → t.adoptionOk
  heater   : s.adoptionOk → s.HeaterOk → t.HeaterOk
  trip     : s.tripOk → s.restOk → t.tripOk ∧ t.restOk
  stopping : s.stoppingOk → t.stoppingOk
  undriven : s.adoptionOk → (s.quiet → s.undriven) → t.quiet → t.undriven

/-- What stays as well, but at the commands that leave HALTED and at the tick that turns the bridge. -/
structure Calm (s t : State) : Prop extends Kept s t where
  halted : s.exc.part = .halted → t.exc.part = .halted
  dir    : t.srg.bridgeDir = s.srg.bridgeDir

/-- What an operation keeps that begins no scan work. -/
structure Act (s t : State) : Prop extends Calm s t where
  scan : s.exc.scan = none → t.exc.scan = none

/-- What a part of an operation keeps before its report to EXC, which may end STOPPING (R62), and before the smoke state is evaluated. -/
structure Reached (s t : State) : Prop extends Base s t where
  adoption : s.adoptionOk → t.adoptionOk
  trip     : s.tripOk → s.restOk → t.tripOk ∧ t.restOk
  undriven : s.adoptionOk → (s.quiet → s.undriven) → t.quiet → t.undriven
  halted   : s.exc.part = .halted → t.exc.part = .halted
  dir      : t.srg.bridgeDir = s.srg.bridgeDir
  scan     : s.exc.scan = none → t.exc.scan = none

theorem Base.refl (s : State) : Base s s := ⟨id, id, rfl, id, id, id, And.intro, id⟩

theorem Base.trans {s t u : State} (h : Base s t) (h' : Base t u) : Base s u where
  mem x := h'.mem (h.mem x)
  safe x := h'.safe (h.safe x)
  pending := h'.pending.trans h.pending
  holder x := h'.holder (h.holder x)
  lfsr x := h'.lfsr (h.lfsr x)
  board x := h'.board (h.board x)
  order x y := h'.order (h.order x y).1 (h.order x y).2
  warm x := h'.warm (h.warm x)

theorem Kept.trans {s t u : State} (h : Kept s t) (h' : Kept t u) : Kept s u where
  toBase := h.toBase.trans h'.toBase
  adoption x := h'.adoption (h.adoption x)
  heater x y := h'.heater (h.adoption x) (h.heater x y)
  trip x y := h'.trip (h.trip x y).1 (h.trip x y).2
  stopping x := h'.stopping (h.stopping x)
  undriven x y := h'.undriven (h.adoption x) (h.undriven x y)

theorem Calm.trans {s t u : State} (h : Calm s t) (h' : Calm t u) : Calm s u where
  toKept := h.toKept.trans h'.toKept
  halted x := h'.halted (h.halted x)
  dir := h'.dir.trans h.dir

theorem Act.trans {s t u : State} (h : Act s t) (h' : Act t u) : Act s u where
  toCalm := h.toCalm.trans h'.toCalm
  scan x := h'.scan (h.scan x)

theorem Act.reached {s t : State} (h : Act s t) : Reached s t where
  toBase := h.toBase
  adoption := h.adoption
  trip := h.trip
  undriven := h.undriven
  halted := h.halted
  dir := h.dir
  scan := h.scan

theorem Reached.done {s t : State} (h : Reached s t) (heater : s.adoptionOk → s.HeaterOk → t.HeaterOk)
    (stopping : s.stoppingOk → t.stoppingOk) : Act s t where
  toBase := h.toBase
  adoption := h.adoption
  heater := heater
  trip := h.trip
  stopping := stopping
  undriven := h.undriven
  halted := h.halted
  dir := h.dir
  scan := h.scan

theorem Reached.trans {s t u : State} (h : Reached s t) (h' : Reached t u) : Reached s u where
  toBase := h.toBase.trans h'.toBase
  adoption x := h'.adoption (h.adoption x)
  trip x y := h'.trip (h.trip x y).1 (h.trip x y).2
  undriven x y := h'.undriven (h.adoption x) (h.undriven x y)
  halted x := h'.halted (h.halted x)
  dir := h'.dir.trans h.dir
  scan x := h'.scan (h.scan x)

/-- Nothing that a promise speaks of changes, but channels that keep theirs. -/
theorem Act.ofView {s t : State} (h : t.view = s.view) (hc : ∀ m, Channel.Calm (s.chan m) (t.chan m)) : Act s t := by
  have mem : t.mem = s.mem := congrArg View.mem h
  have awaiting : t.port.awaiting = s.port.awaiting := congrArg View.awaiting h
  have part : t.exc.part = s.exc.part := congrArg View.part h
  have adopting : t.exc.adoption.isSome = s.exc.adoption.isSome := congrArg View.adopting h
  have board : t.exc.board = s.exc.board := congrArg View.board h
  have boardGen : t.exc.boardGen = s.exc.boardGen := congrArg View.boardGen h
  have source : t.drq.source = s.drq.source := congrArg View.source h
  have holder : t.rrx.holder.isSome = s.rrx.holder.isSome := congrArg View.holder h
  have traction : t.srg.traction = s.srg.traction := congrArg View.traction h
  have r : t.srg.r = s.srg.r := congrArg View.r h
  have dutyA : t.srg.motors.a.d = s.srg.motors.a.d := congrArg View.dutyA h
  have dutyB : t.srg.motors.b.d = s.srg.motors.b.d := congrArg View.dutyB h
  have trip : t.bfu.trip = s.bfu.trip := congrArg View.trip h
  have smoke : t.smk.state = s.smk.state := congrArg View.smoke h
  have heater : t.smk.heater = s.smk.heater := congrArg View.heater h
  have hlim : t.smk.hlim = s.smk.hlim := congrArg View.hlim h
  have fluid : t.smk.fluid = s.smk.fluid := congrArg View.fluid h
  have allowance : t.sup.hlim = s.sup.hlim := congrArg View.allowance h
  have supply : t.sup.state = s.sup.state := congrArg View.supply h
  have capacity : t.cfg.smoke.capacity = s.cfg.smoke.capacity := congrArg View.capacity h
  have lfsr : t.lgt.lfsr = s.lgt.lfsr := congrArg View.lfsr h
  have voices : t.snd.voices = s.snd.voices := congrArg View.voices h
  have order : t.snd.order = s.snd.order := congrArg View.order h
  exact {
    mem := by unfold State.memOk; rw [mem, awaiting]; exact id
    safe := fun x => ⟨(hc .a).safe x.1, (hc .b).safe x.2⟩
    pending := congrArg View.pending h
    holder := by unfold State.holderOk; rw [source, holder]; exact id
    lfsr := by unfold State.lfsrOk; rw [lfsr]; exact id
    board := by unfold State.boardOk; rw [board, boardGen]; exact id
    order := by unfold State.orderOk State.tagsOk State.voice; rw [voices, order]; exact And.intro
    warm := fun x => {
      allowance := by rw [hlim, allowance]; exact x.allowance
      below := by rw [heater, hlim]; exact x.below
      heats := by rw [heater, smoke]; exact x.heats
      fluid := by rw [fluid, capacity]; exact x.fluid }
    adoption := by unfold State.adoptionOk; rw [part, adopting]; exact id
    heater := fun _ x => {
      allowance := by rw [hlim, allowance]; exact x.allowance
      below := by rw [heater, hlim]; exact x.below
      heats := by rw [heater, smoke]; exact x.heats
      lit := by rw [smoke, supply, fluid, part]; exact x.lit
      fluid := by rw [fluid, capacity]; exact x.fluid }
    trip := by unfold State.tripOk State.restOk; rw [traction, trip, r]; exact And.intro
    stopping := by unfold State.stoppingOk; rw [part, traction, supply]; exact id
    undriven := by
      intro _ x q
      have q' : s.quiet := by unfold State.quiet at q ⊢; rwa [traction, supply, part] at q
      obtain ⟨a, b, ca, cb⟩ := x q'
      exact ⟨dutyA.trans a, dutyB.trans b, (hc .a).still ca, (hc .b).still cb⟩
    halted := fun x => part.trans x
    dir := congrArg View.bridgeDir h
    scan := fun x => (congrArg View.scan h : t.exc.scan = s.exc.scan).trans x }

/-- Nothing that a promise speaks of changes. -/
theorem Act.silent {s t : State} (h : t.view = s.view) (hb : t.bfu.chans = s.bfu.chans := by rfl) : Act s t :=
  Act.ofView h fun m => by unfold State.chan; rw [hb]; exact Channel.Calm.refl _

theorem Act.refl (s : State) : Act s s := Act.silent rfl

/-- An operation that begins from a state which looks the same to the promises. -/
theorem Act.quietly {s u t : State} (h : Act u t) (hv : u.view = s.view := by rfl) (hb : u.bfu.chans = s.bfu.chans := by rfl) :
    Act s t :=
  (Act.silent hv hb).trans h

end Sys2Proof.Machine
end

section
/-!
PROOF. What the operations of a channel keep of the promises: the switches of a half-bridge (R70), and a duty of 0 with none waiting (R52).
-/
set_option Elab.async false

namespace Sys2Proof.Machine

/-! ### The half-bridges (R70) -/

theorem Leg.bring_safe (dead : Nat) (want : Option Switch) (g : Leg) : (g.bring dead want).safe = true := by
  have h := (Leg.bring_turns dead want g).shows
  cases hh : (g.bring dead want).high with
  | false => simp [Leg.safe, hh]
  | true =>
    cases hl : (g.bring dead want).low with
    | false => simp [Leg.safe, hl]
    | true => exact absurd ((h.high hh).symm.trans (h.low hl)) (by decide)

theorem Leg.elapse_safe {g : Leg} (h : g.safe = true) : g.elapse.safe = true := by
  unfold Leg.elapse
  split
  · exact h
  · split
    · exact h
    · next hl => simp [Leg.safe, hl]
  · split
    · exact h
    · next hh => simp [Leg.safe, hh]

theorem Channel.apply_safe (c : Traction) (ch : Channel) : (ch.apply c).safe = true := by
  cases h : ch.dir <;> simp [Channel.apply, h, Channel.safe, Leg.bring_safe]

/-! ### Channels -/

theorem Channel.still_iff {ch : Channel} : ch.still = true ↔ ch.duty = 0 ∧ (ch.raised = none ∨ ch.raised = some 0) := by
  simp [Channel.still]

/-- A channel with the same legs, or safe ones, and the same duties keeps what is promised of it. -/
theorem Channel.Calm.of_duties {ch ch' : Channel} (hs : ch.safe = true → ch'.safe = true) (hd : ch'.duty = ch.duty)
    (hr : ch'.raised = ch.raised) : Channel.Calm ch ch' :=
  ⟨hs, fun h => by rw [Channel.still_iff] at h ⊢; rwa [hd, hr]⟩

theorem channelCore.still {a b : Channel} (h : channelCore a b) : a.duty = b.duty ∧ a.raised = b.raised := ⟨h.2.1, h.2.2.1⟩

theorem Channel.apply_calm (c : Traction) (ch : Channel) : Channel.Calm ch (ch.apply c) :=
  have h := (Channel.apply_spec c ch).1.still
  .of_duties (fun _ => Channel.apply_safe c ch) h.1 h.2

/-- Switches brought to the pattern of a channel with the same duties (R68). -/
theorem Channel.applied_calm {c : Traction} {ch x : Channel} (hd : x.duty = ch.duty) (hr : x.raised = ch.raised) :
    Channel.Calm ch (x.apply c) :=
  have h := (Channel.apply_spec c x).1.still
  .of_duties (fun _ => Channel.apply_safe c x) (h.1.trans hd) (h.2.trans hr)

theorem Channel.pass_calm (n : Nat) (ch : Channel) : Channel.Calm ch (ch.pass n) := ⟨id, id⟩

theorem Channel.arrive_calm (c : Traction) (p : Nat) (ch : Channel) : Channel.Calm ch (ch.arrive c p) :=
  have h := (Channel.arrive_spec c p ch).1.still
  .of_duties (fun _ => Channel.apply_safe c _) h.1 h.2

theorem Channel.via_calm (c : Traction) (p : Nat) (qs : List Nat) (ch : Channel) : Channel.Calm ch (ch.via c p qs) := by
  induction qs generalizing ch with
  | nil =>
    unfold Channel.via
    split
    · exact Channel.arrive_calm c p ch
    · exact .refl ch
  | cons q qs ih =>
    unfold Channel.via
    split
    · exact (Channel.arrive_calm c q ch).trans (ih _)
    · exact ih ch

theorem Channel.moveTo_calm (c : Traction) (p : Nat) (ch : Channel) : Channel.Calm ch (ch.moveTo c p) := by
  unfold Channel.moveTo
  split
  · exact Channel.via_calm c p _ ch
  · exact .refl ch

theorem Channel.tick_calm (c : Traction) (ch : Channel) : Channel.Calm ch (ch.tick c) := by
  unfold Channel.tick
  split
  · exact Channel.pass_calm 1 ch
  · split
    · exact Channel.arrive_calm c _ ch
    · exact Channel.pass_calm 1 ch

theorem Channel.enter_calm (c : Traction) (m : Mode) (ch : Channel) : Channel.Calm ch (ch.enter c m) := by
  unfold Channel.enter
  split
  · exact .refl ch
  · exact Channel.applied_calm rfl rfl

theorem Channel.follow_calm (c : Traction) (m : Mode) (ch : Channel) : Channel.Calm ch (ch.follow c m) := by
  unfold Channel.follow
  split
  · exact .refl ch
  · exact Channel.enter_calm c m ch

theorem Channel.holdMode_calm (c : Traction) (m : Mode) (ch : Channel) : Channel.Calm ch (ch.holdMode c m) :=
  (Channel.enter_calm c m ch).trans (Channel.apply_calm c _)

theorem Channel.openFloat_calm (c : Traction) (ch : Channel) : Channel.Calm ch (ch.openFloat c) :=
  Channel.applied_calm rfl rfl

theorem Channel.tripped_calm (c : Traction) (ch : Channel) : Channel.Calm ch (ch.tripped c) :=
  Channel.applied_calm rfl rfl

theorem Channel.limited_calm (c : Traction) (ch : Channel) : Channel.Calm ch (ch.limited c) :=
  Channel.applied_calm rfl rfl

theorem Channel.sample_calm (c : Traction) (counts : BitVec 10) (flow : Direction) (ch : Channel) :
    Channel.Calm ch (ch.sample c counts flow) :=
  (Channel.moveTo_calm c _ ch).trans ⟨id, id⟩

theorem Channel.toOn_calm (c : Traction) (ch : Channel) : Channel.Calm ch (ch.toOn c) := by
  unfold Channel.toOn
  split
  · exact Channel.moveTo_calm c _ ch
  · exact .refl ch

theorem Channel.conducting_calm (c : Traction) (ch : Channel) : Channel.Calm ch (ch.conducting c) := by
  unfold Channel.conducting
  split
  · exact .refl ch
  · exact Channel.toOn_calm c ch

/-- A raised duty that becomes the applied one was 0 in a still channel. -/
theorem Channel.newPeriod_calm (c : Traction) (w : Bool) (ch : Channel) : Channel.Calm ch (ch.newPeriod c w) where
  safe h := (Channel.moveTo_calm c (periodTicks c) ch).safe h
  still h := by
    obtain ⟨-, hd, hr, -⟩ := Channel.newPeriod_spec c w ch
    rw [Channel.still_iff] at h ⊢
    rw [hd, hr]
    rcases h with ⟨hz, hn | hn⟩ <;> simp [hz, hn]

theorem Channel.onLeg_elapse_calm (l : LegId) (ch : Channel) : Channel.Calm ch (ch.onLeg l Leg.elapse) := by
  cases l with
  | leg1 =>
    refine ⟨fun h => ?_, id⟩
    simp only [Channel.safe, Bool.and_eq_true] at h
    simp [Channel.onLeg, Channel.safe, Leg.elapse_safe h.1, h.2]
  | leg2 =>
    refine ⟨fun h => ?_, id⟩
    simp only [Channel.safe, Bool.and_eq_true] at h
    simp [Channel.onLeg, Channel.safe, Leg.elapse_safe h.2, h.1]

/-- A handed duty leaves the switches safe (R71). -/
theorem Channel.hand_safe {c : Traction} {d : Nat} {ch : Channel} (h : ch.safe = true) : (ch.hand c d).safe = true := by
  simp only [Channel.hand]
  split
  · exact h
  · split
    · exact h
    · split
      · exact h
      · exact Channel.apply_safe c _

/-- A duty of 0 leaves the channel still (R71). -/
theorem Channel.hand_zero_still (c : Traction) (ch : Channel) : (ch.hand c 0).still = true := by
  obtain ⟨hd, hr, -⟩ := Channel.hand_zero c ch
  simp [Channel.still, hd, hr]

theorem Channel.halted_calm (c : Traction) (ch : Channel) : Channel.Calm ch (ch.halted c) :=
  ⟨(Channel.tripped_calm c ch).safe, fun _ => rfl⟩

theorem Channel.halted_still (c : Traction) (ch : Channel) : (ch.halted c).still = true := rfl

theorem reloadChannel_calm (c : Traction) (m : Motor) (driving : Bool) (ch : Channel) :
    Channel.Calm ch (reloadChannel c m driving ch) := by
  simp only [reloadChannel]
  split
  · exact ⟨id, id⟩
  · exact ⟨fun h => (Channel.enter_calm c .off _).safe h, fun _ => rfl⟩

theorem Channel.average_calm (ch : Channel) : Channel.Calm ch ch.average := ⟨id, id⟩

theorem Channel.persistStep_calm (ch : Channel) : Channel.Calm ch ch.persistStep := ⟨id, id⟩

end Sys2Proof.Machine
end

section
/-!
PROOF. What the operations that write exchange memory and the memory arbiter's grants keep of the promises (R2, R6, R20, R21).
-/
set_option Elab.async false

namespace Sys2Proof.Machine

/-! ### Writes to exchange memory -/

/-- Exchange memory and the write that the port awaits change alone. -/
theorem Act.writes {s : State} {m : Memory} {p : Port} (h : s.memOk → State.memOk { s with mem := m, port := p }) :
    Act s { s with mem := m, port := p } where
  mem := h
  safe := id
  pending := rfl
  holder := id
  lfsr := id
  board := id
  order := And.intro
  warm x := ⟨x.allowance, x.below, x.heats, x.fluid⟩
  adoption := id
  heater _ x := ⟨x.allowance, x.below, x.heats, x.lit, x.fluid⟩
  trip := And.intro
  stopping := id
  undriven _ x := x
  halted := id
  dir := rfl
  scan := id

theorem State.writeMem_act {s : State} {q : List Host.Cell} (hq : cellsInside q = true) : Act s (s.writeMem q) :=
  Act.writes (p := s.port) fun h => ⟨Memory.wf_writeCells hq h.1, h.2⟩

theorem State.writeField_act {s : State} {a n v : Nat} (h : a + n ≤ memorySize) : Act s (s.writeField a n v) :=
  State.writeMem_act (leCells_inside h)

theorem cellsInside_append {p q : List Host.Cell} (hp : cellsInside p = true) (hq : cellsInside q = true) :
    cellsInside (p ++ q) = true := by
  simp only [cellsInside, List.all_append, Bool.and_eq_true] at *
  exact ⟨hp, hq⟩

theorem State.writeAdoptionResult_act (s : State) (result group index reason : Nat) :
    Act s (s.writeAdoptionResult result group index reason) :=
  State.writeMem_act (cellsInside_append (cellsInside_append (cellsInside_append (leCells_inside (by decide))
    (leCells_inside (by decide))) (leCells_inside (by decide))) (leCells_inside (by decide)))

theorem State.setSlotState_act (s : State) (x : SlotState) : Act s (s.setSlotState x) :=
  Act.quietly (State.writeField_act (by decide))

theorem State.setLastTaken_act (s : State) (t : Byte) : Act s (s.setLastTaken t) :=
  Act.quietly (State.writeField_act (by decide))

theorem State.setCueTake_act (s : State) (t : Half) : Act s (s.setCueTake t) :=
  Act.quietly (State.writeField_act (by decide))

theorem State.setInboxPut_act (s : State) (t : Half) : Act s (s.setInboxPut t) :=
  Act.quietly (State.writeField_act (by decide))

theorem State.setMs_act (s : State) (t : Word) : Act s (s.setMs t) :=
  Act.quietly (State.writeField_act (by decide))

theorem State.latch_act (s : State) (k : Notice) : Act s (s.latch k) := Act.silent rfl

/-! ### The grants of the arbiter -/

theorem State.soundGrant_act (s : State) : Act s s.soundGrant := Act.silent rfl

/-- The awaited write changes its bytes, which lie inside exchange memory (R2). -/
theorem State.portGrant_act (s : State) : Act s s.portGrant := by
  unfold State.portGrant
  split
  · next q hq => exact Act.writes fun h => ⟨Memory.wf_writeCells (h.2 q hq) h.1, by simp⟩
  · exact Act.refl s

theorem State.noteGrant_act (s : State) (w : Class3) : Act s (s.noteGrant w) := Act.silent rfl

theorem State.readSeen_act (s : State) : Act s s.readSeen := by
  unfold State.readSeen
  split
  · exact Act.refl s
  · exact Act.silent rfl

theorem inboxCells_inside (put : Half) (bs : List Byte) {k : Nat} (hk : k < 8) : cellsInside (inboxCells put bs k) = true := by
  have : put.toNat % 32 < 32 := Nat.mod_lt _ (by decide)
  simp only [cellsInside, inboxCells, inboxAddr, List.all_cons, List.all_nil, Bool.and_true, Bool.and_eq_true, decide_eq_true_eq]
  unfold memorySize
  omega

theorem State.writeRecord_act {s : State} (bs : List Byte) (h : s.exc.inboxStep.words < 8) : Act s (s.writeRecord bs) :=
  (State.writeMem_act (inboxCells_inside _ _ h)).trans (Act.silent rfl)

/-- A grant of the inbox writer that waits for one (R20). -/
theorem State.inboxGrant_act {s : State} (h : s.inboxWaits = true) : Act s s.inboxGrant := by
  unfold State.inboxGrant
  unfold State.inboxWaits at h
  split
  · exact Act.refl s
  · next j rest hq =>
    split
    · exact State.readSeen_act s
    · next hs =>
      rw [hq] at h
      cases ha : s.exc.inboxStep.ahead with
      | none => simp [ha] at hs
      | some k =>
        simp only [ha, Bool.and_eq_true, decide_eq_true_eq, inboxWords] at h
        exact State.writeRecord_act _ (of_decide_eq_true h.2)

theorem State.boardCells_inside (s : State) {k : Nat} (hk : k < boardWords) : cellsInside (s.boardCells k) = true := by
  simp only [boardWords] at hk
  simp only [cellsInside, State.boardCells, boardBase, List.all_cons, List.all_nil, Bool.and_true, Bool.and_eq_true,
    decide_eq_true_eq]
  unfold memorySize
  omega

/-- The board write in progress goes on at another word. -/
theorem State.boardAt_act {s : State} {k : Nat} (h : s.exc.board.isSome = true) : Act s (s.boardAt (some k)) where
  mem := id
  safe := id
  pending := rfl
  holder := id
  lfsr := id
  board x := ⟨fun _ => x.1 h, fun _ => rfl⟩
  order := And.intro
  warm x := ⟨x.allowance, x.below, x.heats, x.fluid⟩
  adoption := id
  heater _ x := ⟨x.allowance, x.below, x.heats, x.lit, x.fluid⟩
  trip := And.intro
  stopping := id
  undriven _ x := x
  halted := id
  dir := rfl
  scan := id

/-- The generation counted on with a board write begun or ended (R21). -/
theorem State.boardTurn_act {s : State} {k : Option Nat} (h : k.isSome = !s.exc.board.isSome) :
    Act s (s.bumpGeneration.boardAt k) where
  mem := id
  safe := id
  pending := rfl
  holder := id
  lfsr := id
  board x := by
    unfold State.boardOk at *
    have hg : (s.exc.boardGen + 1).toNat % 2 = (s.exc.boardGen.toNat + 1) % 2 := by
      rw [BitVec.toNat_add, show (1 : Word).toNat = 1 from rfl]
      omega
    show k.isSome = true ↔ (s.exc.boardGen + 1).toNat % 2 = 1
    rw [hg, h]
    cases hb : s.exc.board.isSome <;> simp [hb] at x ⊢ <;> omega
  order := And.intro
  warm x := ⟨x.allowance, x.below, x.heats, x.fluid⟩
  adoption := id
  heater _ x := ⟨x.allowance, x.below, x.heats, x.lit, x.fluid⟩
  trip := And.intro
  stopping := id
  undriven _ x := x
  halted := id
  dir := rfl
  scan := id

theorem State.writeGeneration_act (s : State) : Act s s.writeGeneration := State.writeField_act (by decide)

/-- A grant of the status board writer (R21). -/
theorem State.boardGrant_act {s : State} {k : Nat} (h : s.exc.board = some k) : Act s (s.boardGrant k) := by
  have hs : s.exc.board.isSome = true := by rw [h]; rfl
  unfold State.boardGrant
  split
  · exact s.writeGeneration_act.trans (State.boardAt_act hs)
  · split
    · next hk => exact (State.writeMem_act (State.boardCells_inside s hk)).trans (State.boardAt_act hs)
    · have hw : Act (s.bumpGeneration.boardAt none) ((s.bumpGeneration.boardAt none).writeGeneration) := State.writeGeneration_act _
      exact (State.boardTurn_act (k := none) (by rw [hs]; rfl)).trans hw

theorem State.inboxWaits_noteGrant (s : State) (w : Class3) : (s.noteGrant w).inboxWaits = s.inboxWaits := rfl

theorem State.class3Grant_act {s : State} (w : Class3) (h : w = .inbox → s.inboxWaits = true) : Act s (s.class3Grant w) := by
  cases w with
  | board =>
    unfold State.class3Grant
    cases hb : s.exc.board with
    | none => exact Act.refl s
    | some k => exact (State.noteGrant_act s _).trans (State.boardGrant_act hb)
  | inbox => exact (State.noteGrant_act s _).trans (State.inboxGrant_act (h rfl))

theorem State.writerGrant_act {s : State} (h : s.exc.board.isSome = true ∨ s.inboxWaits = true) : Act s s.writerGrant := by
  unfold State.writerGrant
  split
  · next hw =>
    refine Act.quietly (State.class3Grant_act _ ?_)
    exact fun _ => hw.2
  · split
    · exact State.class3Grant_act _ (by simp)
    · next hb => exact State.class3Grant_act _ fun _ => h.resolve_left hb

theorem State.readerGrant_act (s : State) : Act s s.readerGrant :=
  Act.silent (by simp [State.view, State.readerGrant])

/-- One grant, whoever it goes to (R6). -/
theorem State.grant_act (s : State) : Act s s.grant := by
  unfold State.grant
  split
  · exact s.soundGrant_act
  · split
    · exact s.portGrant_act
    · split
      · next h => exact State.writerGrant_act (by simpa using h)
      · split
        · exact s.readerGrant_act
        · exact Act.refl s

theorem State.grantWhile_act (w : State → Bool) (n : Nat) (s : State) : Act s (State.grantWhile w n s) :=
  State.grantWhile_induct (P := Act s) (fun u h => h.trans u.grant_act) n s (Act.refl s)

theorem State.serveSound_act (s : State) : Act s s.serveSound := State.grantWhile_act _ _ s

theorem State.serveLower_act (s : State) : Act s s.serveLower := State.grantWhile_act _ _ s

theorem State.readerTurn_act (s : State) : Act s s.readerTurn := by
  unfold State.readerTurn
  split
  · exact s.serveLower_act
  · exact Act.refl s

theorem State.freeBuffer_act (s : State) (b : BufferId) : Act s (s.freeBuffer b) := by
  cases b <;> exact Act.silent rfl

theorem State.inboxDone_act (s : State) : Act s s.inboxDone := by
  unfold State.inboxDone
  split
  · exact Act.refl s
  · exact (State.freeBuffer_act _ _).quietly

theorem State.inboxFinish_act (s : State) : Act s s.inboxFinish := by
  unfold State.inboxFinish
  split
  · exact Act.refl s
  · have h : Act s s.serveInbox := State.grantWhile_act _ _ s
    dsimp only
    split
    · exact h.trans ((State.inboxDone_act _).trans (State.latch_act _ _))
    · exact h.trans ((State.setInboxPut_act _ _).trans ((State.inboxDone_act _).trans (State.latch_act _ _)))

/-! ### The memory port -/

/-- What a write transaction has gathered lies inside exchange memory: every address is taken modulo its size (R2). -/
theorem gather_inside (data : List Byte) (a : Nat) {w : List Host.Cell} (hw : cellsInside w = true) :
    ∀ q ∈ gather data a w, cellsInside q = true := by
  have hrev {x : List Host.Cell} (hx : cellsInside x = true) : cellsInside x.reverse = true := by
    simpa [cellsInside] using hx
  induction data generalizing a w with
  | nil =>
    cases w with
    | nil => simp [gather]
    | cons c rest => simp only [gather, List.mem_singleton, forall_eq]; exact hrev hw
  | cons b rest ih =>
    have hc : cellsInside ((wrapAddr a, b) :: w) = true := by
      simp only [cellsInside, List.all_cons, Bool.and_eq_true, decide_eq_true_eq] at hw ⊢
      exact ⟨Nat.mod_lt _ (by decide), hw⟩
    unfold gather
    split
    · intro q hq
      rcases List.mem_cons.mp hq with rfl | hq
      · exact hrev hc
      · exact ih _ rfl q hq
    · exact ih _ hc

/-- A write that is awaited with its delay lies inside exchange memory. -/
def AwaitedWrite.inside (q : AwaitedWrite) : Prop := ∀ x, q = some x → cellsInside x.1 = true

theorem passWords_inside {ws : List (List Host.Cell)} (hws : ∀ q ∈ ws, cellsInside q = true) {delays : List Nat} {q : AwaitedWrite}
    {m : Memory} (hq : q.inside) (hm : m.wf = true) :
    AwaitedWrite.inside (passWords ws delays q m).1 ∧ (passWords ws delays q m).2.wf = true := by
  induction ws generalizing delays q m with
  | nil => exact ⟨hq, hm⟩
  | cons w ws ih =>
    have hw : ∀ n : Nat, AwaitedWrite.inside (some (w, n)) := by
      intro n x hx
      obtain rfl := Option.some.inj hx
      exact hws w List.mem_cons_self
    have hws' : ∀ q ∈ ws, cellsInside q = true := fun q h => hws q (List.mem_cons_of_mem _ h)
    match q, hq with
    | none, _ => exact ih hws' (hw _) hm
    | some (x, 0), hq => exact ih hws' (hw _) (Memory.wf_writeCells (hq _ rfl) hm)
    | some (x, k + 1), hq => exact ih hws' (fun y hy => by obtain rfl := Option.some.inj hy; exact hq (x, k + 1) rfl) hm

theorem State.portWrite_act (s : State) (addr : Nat) (data : List Byte) (delays : List Nat) : Act s (s.portWrite addr data delays) := by
  refine Act.writes fun h => ?_
  have ha : AwaitedWrite.inside (awaitedAt s.port.awaiting delays).1 := by
    cases hq : s.port.awaiting with
    | none => simp [awaitedAt, AwaitedWrite.inside]
    | some q =>
      intro x hx
      obtain rfl := Option.some.inj hx
      exact h.2 q hq
  obtain ⟨hr, hm⟩ := passWords_inside (delays := (awaitedAt s.port.awaiting delays).2) (gather_inside data addr (w := []) rfl) ha h.1
  unfold writeTransaction
  dsimp only
  generalize passWords _ _ _ _ = r at hr hm
  obtain ⟨q, m⟩ := r
  match q, hr with
  | none, _ => exact ⟨hm, by simp [settleWrite]⟩
  | some (x, 0), hr => exact ⟨Memory.wf_writeCells (hr _ rfl) hm, by simp [settleWrite]⟩
  | some (x, k + 1), hr =>
    refine ⟨hm, fun y hy => ?_⟩
    obtain rfl := Option.some.inj hy
    exact hr _ rfl

end Sys2Proof.Machine
end

section
/-!
PROOF. What the operations of the sound engine keep of the promises (R99 to R111): above all the start order list and the tags.
-/
set_option Elab.async false

namespace Sys2Proof.Machine

/-- SND, the notices and the outcome that a scan waits for change alone. -/
theorem Act.withSound {s : State} {x : Snd} {n : BitVec 15} {w : Option ScanWork}
    (order : s.orderOk → s.tagsOk → State.orderOk { s with snd := x } ∧ State.tagsOk { s with snd := x })
    (scan : s.exc.scan = none → w = none) : Act s { s with snd := x, exc := { s.exc with nlat := n, scan := w } } where
  mem := id
  safe := id
  pending := rfl
  holder := id
  lfsr := id
  board := id
  order := order
  warm x := ⟨x.allowance, x.below, x.heats, x.fluid⟩
  adoption := id
  heater _ h := ⟨h.allowance, h.below, h.heats, h.lit, h.fluid⟩
  trip := And.intro
  stopping := id
  undriven _ h := h
  halted := id
  dir := rfl
  scan := scan

theorem Act.ofSound {s t : State} (h : soundOnly s t) (order : s.orderOk → s.tagsOk → t.orderOk ∧ t.tagsOk)
    (scan : s.exc.scan = none → t.exc.scan = none) : Act s t := by
  have h' : t = { s with snd := t.snd, exc := { s.exc with nlat := t.exc.nlat, scan := t.exc.scan } } := h
  rw [h']
  exact Act.withSound (fun a b => order a b) scan

/-! ### Voices -/

theorem Octet.get_set_if {α : Type} (o : Octet α) (i j : Fin 8) (x : α) : (o.set i x).get j = if j = i then x else o.get j := by
  split
  · next h => rw [h, Octet.get_set_self]
  · next h => exact Octet.get_set_other o i j x h

theorem State.voice_setVoice (s : State) (v u : Fin 8) (x : Voice) : (s.setVoice v x).voice u = if u = v then x else s.voice u := by
  exact Octet.get_set_if _ _ _ _

/-- Every voice keeps its tag and whether it is active, and the start order list is as it was. -/
theorem order_of_voices {s t : State} (hv : ∀ v, (t.voice v).active = (s.voice v).active ∧ (t.voice v).tag = (s.voice v).tag)
    (ho : t.snd.order = s.snd.order) (h : s.orderOk) (h' : s.tagsOk) : t.orderOk ∧ t.tagsOk := by
  unfold State.orderOk State.tagsOk at *
  simp only [ho, (hv _).1, (hv _).2]
  exact ⟨h, h'⟩

/-- A voice freed and taken off the start order list (R110). -/
theorem order_of_freed {s t : State} {v : Fin 8} (hv : ∀ u, t.voice u = if u = v then {} else s.voice u)
    (ho : t.snd.order = s.snd.order.erase v) (h : s.orderOk) (h' : s.tagsOk) : t.orderOk ∧ t.tagsOk := by
  obtain ⟨hn, hm⟩ := h
  obtain ⟨h0, h1, hd⟩ := h'
  refine ⟨⟨ho ▸ hn.erase v, fun u => ?_⟩, ?_, ?_, fun u w => ?_⟩
  · rw [ho, hn.mem_erase_iff, hm u, hv u]
    by_cases e : u = v <;> simp [e, Voice.active]
  · rw [hv]
    split <;> simp [h0]
  · rw [hv]
    split <;> simp [h1]
  · rw [hv u, hv w]
    split
    · simp [Voice.active]
    · split
      · simp [Voice.active]
      · exact hd u w

theorem State.recordEnd_act (s : State) (tag : Half) (reason : EndReason) (v : Fin 8) : Act s (s.recordEnd tag reason v) := by
  unfold State.recordEnd
  split
  · exact Act.refl s
  · exact Act.silent rfl

theorem State.endVoice_act (s : State) (v : Fin 8) (reason : EndReason) : Act s (s.endVoice v reason) := by
  cases hv : (s.voice v).active with
  | false => rw [State.endVoice_free reason hv]; exact Act.refl s
  | true =>
    obtain ⟨e, hvs, ho⟩ := State.endVoice_ended reason hv
    refine Act.ofSound (s.endVoice_soundOnly v reason) (order_of_freed (v := v) (fun u => ?_) ho) fun h => ?_
    · unfold State.voice
      rw [hvs, Octet.get_set_if]
    · by_cases ht : (s.voice v).tag = 0
      · rw [(e.untagged ht).2.2, h]
      · rw [(e.tagged ht).2.1]
        exact h

theorem State.endVoices_act (reason : EndReason) (l : List (Fin 8)) (s : State) : Act s (State.endVoices reason l s) := by
  induction l generalizing s with
  | nil => exact Act.refl s
  | cons v rest ih => exact (s.endVoice_act v reason).trans (ih _)

/-! ### Outcomes and requests -/

theorem State.handBack_act (s : State) (a : Requester) (o : StartOutcome) : Act s (s.handBack a o) := by
  refine Act.ofSound (s.handBack_soundOnly a o) (order_of_voices (fun v => ?_) ?_) fun h => ?_
  · unfold State.handBack
    cases a <;> cases o <;> exact ⟨rfl, rfl⟩
  · unfold State.handBack
    cases a <;> cases o <;> rfl
  · unfold State.handBack
    cases a <;> cases o <;> simp [h]

theorem State.handBackAll_act (o : StartOutcome) (q : List StartReq) (s : State) : Act s (State.handBackAll o q s) := by
  induction q generalizing s with
  | nil => exact Act.refl s
  | cons r rest ih => exact (s.handBack_act r.asker o).trans (ih _)

theorem State.requestStart_act (s : State) (r : StartReq) : Act s (s.requestStart r) := by
  unfold State.requestStart
  split
  · exact s.handBack_act _ _
  · exact Act.silent rfl

/-- SND at a shedding (R115). -/
theorem State.shedVoices_act (s : State) : Act s s.shedVoices := by
  have h := State.endVoices_act .shed octetIndices s
  unfold State.shedVoices
  generalize State.endVoices _ _ s = s1 at h
  dsimp only
  exact h.trans (State.handBackAll_act _ _ _).quietly

theorem Act.setVoice {s : State} {v : Fin 8} {x : Voice} (ha : x.active = (s.voice v).active) (ht : x.tag = (s.voice v).tag) :
    Act s (s.setVoice v x) := by
  refine Act.ofSound rfl (order_of_voices (fun u => ?_) rfl) id
  rw [State.voice_setVoice]
  split
  · next e => rw [e]; exact ⟨ha, ht⟩
  · exact ⟨rfl, rfl⟩

/-- A release by tag (R108): a LOOPING voice stays active, with its tag. -/
theorem State.releaseTag_act (s : State) (tag : Half) : Act s (s.releaseTag tag) := by
  unfold State.releaseTag
  split
  · exact Act.refl s
  · refine Act.trans (t := match s.taggedVoice tag with
      | some v => if (s.voice v).state = VoiceState.looping then s.setVoice v { s.voice v with state := .released } else s
      | none => s) ?_ (Act.silent rfl)
    split
    · split
      · next hl => exact Act.setVoice (by simp only [Voice.active, hl]; rfl) rfl
      · exact Act.refl s
    · exact Act.refl s

/-- A cut by tag (R109). -/
theorem State.cutTag_act (s : State) (tag : Half) : Act s (s.cutTag tag) := by
  unfold State.cutTag
  split
  · exact Act.refl s
  · refine Act.trans ?_ (State.handBackAll_act _ _ _)
    dsimp only
    split
    · exact (State.endVoice_act _ _ _).quietly
    · exact Act.silent rfl

theorem State.keyStart_act (s : State) (k : Nat) : Act s (s.keyStart k) := by
  unfold State.keyStart
  split
  · exact Act.refl s
  · exact s.requestStart_act _

theorem State.keyEnd_act (s : State) (k : Nat) : Act s (s.keyEnd k) := by
  unfold State.keyEnd
  split
  · exact s.releaseTag_act _
  · exact Act.refl s

theorem State.startKeys_act (ks : List Nat) (s : State) : Act s (State.startKeys ks s) := by
  induction ks generalizing s with
  | nil => exact Act.refl s
  | cons k ks ih => exact (s.keyStart_act k).trans (ih _)

theorem State.endKeys_act (ks : List Nat) (s : State) : Act s (State.endKeys ks s) := by
  induction ks generalizing s with
  | nil => exact Act.refl s
  | cons k ks ih => exact (s.keyEnd_act k).trans (ih _)

theorem State.requestBackground_act (s : State) : Act s s.requestBackground := by
  unfold State.requestBackground
  split
  · exact Act.refl s
  · exact s.requestStart_act _

theorem State.recomputeCap_act (s : State) : Act s s.recomputeCap := Act.silent rfl

theorem State.setMute_act (s : State) (m : Bool) : Act s (s.setMute m) := Act.silent rfl

theorem State.supplyBackground_act (s : State) : Act s s.supplyBackground := by
  unfold State.supplyBackground
  split
  · exact s.requestBackground_act
  · exact Act.refl s

theorem State.supplySound_act (s : State) : Act s s.supplySound := by
  unfold State.supplySound
  dsimp only
  split
  · exact (State.shedVoices_act _).quietly
  · exact (State.supplyBackground_act _).quietly

theorem State.haltSound_act (s : State) : Act s s.haltSound := by
  have h := s.shedVoices_act
  unfold State.haltSound
  generalize s.shedVoices = s1 at h
  exact h.trans (Act.silent rfl)

theorem State.chuffVoice_act (s : State) (index : Nat) : Act s (s.chuffVoice index) := by
  unfold State.chuffVoice
  dsimp only
  split
  · exact s.endVoice_act _ _
  · exact s.requestStart_act _

/-! ### Starts -/

theorem State.endStart_act (s : State) (asker : Requester) (o : StartOutcome) : Act s (s.endStart asker o) :=
  (State.handBack_act _ asker o).quietly

theorem State.beginStart_act (s : State) (r : StartReq) (rest : List StartReq) : Act s (s.beginStart r rest) := by
  unfold State.beginStart
  dsimp only
  split
  · exact (State.endStart_act _ _ _).quietly
  · split
    · exact (State.endStart_act _ _ _).quietly
    · exact Act.silent rfl

theorem startedVoice_active (c : Clip) (r : StartReq) : (startedVoice c r).active = true := by
  simp only [startedVoice, startState, Voice.active]
  split
  · split <;> rfl
  · rfl

/-- A request of the chuff or the background class started on its own, free voice (R102). -/
theorem State.startOn_act {s : State} {v : Fin 8} (c : Clip) {r : StartReq} (hr : r.cls ≠ .pool) (hv : v ∉ poolVoices) :
    Act s (s.startOn v c r) := by
  have ht : (startedVoice c r).tag = 0 := by simp [startedVoice, hr]
  have he : s.startOn v c r = s.setVoice v (startedVoice c r) := by simp [State.startOn, hr]
  rw [he]
  refine Act.ofSound rfl (fun ⟨hn, hm⟩ ⟨h0, h1, hd⟩ => ⟨⟨hn, fun u => ?_⟩, ?_, ?_, fun u w hu hw => ?_⟩) id
  · rw [State.voice_setVoice]
    split
    · next e => subst e; exact (hm u).trans (by simp [hv])
    · exact hm u
  · rw [State.voice_setVoice]
    split
    · exact ht
    · exact h0
  · rw [State.voice_setVoice]
    split
    · exact ht
    · exact h1
  · rw [State.voice_setVoice] at hu hw ⊢
    rw [State.voice_setVoice]
    split
    · simp [ht]
    · next hu' =>
      rw [if_neg hu'] at hu
      split
      · intro hx hy
        rw [ht] at hx
        exact absurd hx hy
      · next hw' =>
        rw [if_neg hw'] at hw
        exact hd u w hu hw

/-- A POOL request started on a free pool voice, no active voice carrying its tag (R103, R104). -/
theorem State.startOn_pool {s : State} {v : Fin 8} (c : Clip) {r : StartReq} (hr : r.cls = .pool) (hv : v ∈ poolVoices)
    (hf : (s.voice v).active = false) (hu : r.tag ≠ 0 → ∀ u, (s.voice u).active = true → (s.voice u).tag ≠ r.tag) :
    s.orderOk → s.tagsOk → (s.startOn v c r).orderOk ∧ (s.startOn v c r).tagsOk := by
  intro ⟨hn, hm⟩ ⟨h0, h1, hd⟩
  have hno : v ∉ s.snd.order := fun h => by simp [((hm v).mp h).2] at hf
  have ht : (startedVoice c r).tag = r.tag := by simp [startedVoice, hr]
  have ho : (s.startOn v c r).snd.order = s.snd.order ++ [v] := by
    simp [State.startOn, hr, State.setVoice, List.erase_of_not_mem hno]
  have hvo (u : Fin 8) : (s.startOn v c r).voice u = if u = v then startedVoice c r else s.voice u := by
    simp only [State.startOn, hr, if_true]
    exact State.voice_setVoice s v u _
  have hp : v ≠ 0 ∧ v ≠ 1 := by constructor <;> (rintro rfl; revert hv; decide)
  refine ⟨⟨?_, fun u => ?_⟩, ?_, ?_, fun u w hu' hw' => ?_⟩
  · rw [ho]
    exact List.nodup_append.mpr ⟨hn, by simp, fun u hu w hw e => hno (List.mem_singleton.mp hw ▸ e ▸ hu)⟩
  · rw [ho, hvo, List.mem_append, List.mem_singleton, hm u]
    by_cases e : u = v <;> simp [e, startedVoice_active, hv]
  · rw [hvo, if_neg hp.1.symm]
    exact h0
  · rw [hvo, if_neg hp.2.symm]
    exact h1
  · rw [hvo] at hu' hw' ⊢
    rw [hvo]
    by_cases eu : u = v
    · by_cases ew : w = v
      · intro _ _
        rw [eu, ew]
      · rw [if_neg ew] at hw'
        rw [if_pos eu, if_neg ew, ht]
        intro hx hy
        exact absurd hx.symm (hu hy w hw')
    · rw [if_neg eu] at hu'
      by_cases ew : w = v
      · rw [if_neg eu, if_pos ew, ht]
        intro hx hy
        exact absurd hx (hu (hx ▸ hy) u hu')
      · rw [if_neg ew] at hw'
        rw [if_neg eu, if_neg ew]
        exact hd u w hu' hw'

theorem State.startOn_soundOnly (s : State) (v : Fin 8) (c : Clip) (r : StartReq) : soundOnly s (s.startOn v c r) := by
  unfold State.startOn
  dsimp only
  split <;> rfl

theorem State.startOn_scan (s : State) (v : Fin 8) (c : Clip) (r : StartReq) : (s.startOn v c r).exc.scan = s.exc.scan := by
  unfold State.startOn
  dsimp only
  split <;> rfl

end Sys2Proof.Machine
end

section
/-!
PROOF. What the shared operations of the speed regulator and of the bridge and fault unit keep of the promises (R49 to R62, R68, R79, R80).
-/
set_option Elab.async false

namespace Sys2Proof.Machine

/-- An operation of the drive: SRG, BFU, CHK and the notices alone change, the switches stay safe, and what is not driven stays so. -/
structure Drive (s t : State) : Prop where
  only     : driveOnly s t
  safe     : s.noShootThrough → t.noShootThrough
  undriven : s.undriven → t.undriven
  dir      : t.srg.bridgeDir = s.srg.bridgeDir

theorem Drive.trans {s t u : State} (h : Drive s t) (h' : Drive t u) : Drive s u :=
  ⟨h.only.trans h'.only, fun x => h'.safe (h.safe x), fun x => h'.undriven (h.undriven x), h'.dir.trans h.dir⟩

/-- Nothing that is promised of the drive changes but the traction state, R and the trip reason. -/
theorem Drive.ofDuties {s t : State} (only : driveOnly s t) (hd : ∀ m, (t.srg.motors.get m).d = (s.srg.motors.get m).d)
    (hc : ∀ m, Channel.Calm (s.chan m) (t.chan m)) (dir : t.srg.bridgeDir = s.srg.bridgeDir) : Drive s t where
  only := only
  safe x := ⟨(hc .a).safe x.1, (hc .b).safe x.2⟩
  undriven x := ⟨(hd .a).trans x.1, (hd .b).trans x.2.1, (hc .a).still x.2.2.1, (hc .b).still x.2.2.2⟩
  dir := dir

theorem Drive.refl (s : State) : Drive s s := .ofDuties (.refl s) (fun _ => rfl) (fun _ => .refl _) rfl

/-- A change of SRG and BFU that touches no duty, no channel and no bridge direction. -/
theorem Drive.silent {s t : State} (only : driveOnly s t) (hd : t.srg.motors = s.srg.motors := by rfl)
    (hc : t.bfu.chans = s.bfu.chans := by rfl) (dir : t.srg.bridgeDir = s.srg.bridgeDir := by rfl) : Drive s t :=
  .ofDuties only (fun _ => by rw [hd]) (fun _ => by unfold State.chan; rw [hc]; exact .refl _) dir

theorem driveOnly.base {s t : State} (h : driveOnly s t) (safe : s.noShootThrough → t.noShootThrough) : Base s t := by
  obtain ⟨hport, hdrq, hsnd, hsmk, hlgt, hrrx, hsup, hmem, hcfg, hexc⟩ := h.fields
  have hp : t.pending = s.pending := by rw [h]
  exact {
    mem := by unfold State.memOk; rw [hmem, hport]; exact id
    safe := safe
    pending := hp
    holder := by unfold State.holderOk; rw [hdrq, hrrx]; exact id
    lfsr := by unfold State.lfsrOk; rw [hlgt]; exact id
    board := by unfold State.boardOk; rw [hexc]; exact id
    order := by unfold State.orderOk State.tagsOk State.voice; rw [hsnd]; exact And.intro
    warm := fun x => ⟨by rw [hsmk, hsup]; exact x.allowance, by rw [hsmk]; exact x.below, by rw [hsmk]; exact x.heats,
      by rw [hsmk, hcfg]; exact x.fluid⟩ }

theorem driveOnly.heater {s t : State} (h : driveOnly s t) (x : s.HeaterOk) : t.HeaterOk := by
  obtain ⟨-, -, -, hsmk, -, -, hsup, -, hcfg, hexc⟩ := h.fields
  exact ⟨by rw [hsmk, hsup]; exact x.allowance, by rw [hsmk]; exact x.below, by rw [hsmk]; exact x.heats,
    by rw [hsmk, hsup, hexc]; exact x.lit, by rw [hsmk, hcfg]; exact x.fluid⟩

theorem driveOnly.sup {s t : State} (h : driveOnly s t) : t.sup = s.sup := h.fields.2.2.2.2.2.2.1

/-- A drive operation before its report to EXC. -/
theorem Drive.reached {s t : State} (h : Drive s t) (trip : s.tripOk → s.restOk → t.tripOk ∧ t.restOk)
    (quiet : t.quiet → s.quiet ∨ t.undriven) : Reached s t := by
  have hexc := h.only.fields.2.2.2.2.2.2.2.2.2
  exact {
    toBase := h.only.base h.safe
    adoption := by unfold State.adoptionOk; rw [hexc]; exact id
    trip := trip
    undriven := fun _ x q => (quiet q).elim (fun q => h.undriven (x q)) id
    halted := by rw [hexc]; exact id
    dir := h.dir
    scan := by rw [hexc]; exact id }

/-- A drive operation that leaves the traction state, R and the trip reason. -/
theorem Drive.act {s t : State} (h : Drive s t) (ht : t.srg.traction = s.srg.traction := by rfl) (hr : t.srg.r = s.srg.r := by rfl)
    (hb : t.bfu.trip = s.bfu.trip := by rfl) : Act s t :=
  (h.reached (by unfold State.tripOk State.restOk; rw [ht, hr, hb]; exact And.intro)
    (by unfold State.quiet; rw [ht, h.only.sup, h.only.part]; exact Or.inl)).done
    (fun _ => h.only.heater) (by unfold State.stoppingOk; rw [ht, h.only.sup, h.only.part]; exact id)

/-! ### Channels and duties -/

theorem State.onChans_drive (s : State) {f : Channel → Channel} (hf : ∀ ch, Channel.Calm ch (f ch)) : Drive s (s.onChans f) :=
  .ofDuties rfl (fun _ => rfl) (fun m => by rw [State.chan_onChans]; exact hf _) rfl

theorem State.chan_onChan_if (s : State) (m n : Motor) (f : Channel → Channel) :
    (s.onChan m f).chan n = if n = m then f (s.chan n) else s.chan n := by
  cases m <;> cases n <;> rfl

theorem State.onChan_drive (s : State) (m : Motor) {f : Channel → Channel} (hf : ∀ ch, Channel.Calm ch (f ch)) :
    Drive s (s.onChan m f) :=
  .ofDuties rfl (fun _ => rfl) (fun n => by
    rw [State.chan_onChan_if]
    split
    · exact hf _
    · exact .refl _) rfl

theorem State.followModes_drive (s : State) : Drive s s.followModes := by
  unfold State.followModes
  split
  · exact .refl s
  · exact (State.onChan_drive _ _ (Channel.follow_calm _ _)).trans (State.onChan_drive _ _ (Channel.follow_calm _ _))

theorem State.followModes_srg (s : State) : s.followModes.srg = s.srg := by
  rw [State.followModes_kept]

theorem State.endSlip_drive (s : State) : Drive s s.endSlip := .silent rfl

theorem State.stopTurn_drive (s : State) : Drive s s.stopTurn := .silent rfl

theorem State.chuffStanding_drive (s : State) : Drive s s.chuffStanding := .silent rfl

theorem State.zeroDuty_undriven (s : State) : s.zeroDuty.undriven :=
  ⟨rfl, rfl, Channel.hand_zero_still _ _, Channel.hand_zero_still _ _⟩

theorem State.zeroDuty_drive (s : State) : Drive s s.zeroDuty where
  only := rfl
  safe x := ⟨Channel.hand_safe x.1, Channel.hand_safe x.2⟩
  undriven _ := s.zeroDuty_undriven
  dir := rfl

/-- A duty set for a motor: 0 where nothing is driven. -/
theorem State.setDuty_drive (s : State) (m : Motor) {d : Nat} (hd : s.undriven → d = 0) : Drive s (s.setDuty m d) where
  only := by cases m <;> rfl
  safe x := by
    cases m with
    | a => exact ⟨Channel.hand_safe x.1, x.2⟩
    | b => exact ⟨x.1, Channel.hand_safe x.2⟩
  undriven x := by
    obtain rfl := hd x
    obtain ⟨da, db, ca, cb⟩ := x
    cases m with
    | a => exact ⟨rfl, db, Channel.hand_zero_still _ _, cb⟩
    | b => exact ⟨da, rfl, ca, Channel.hand_zero_still _ _⟩
  dir := by cases m <;> rfl

/-- Duties that are 0 stay so, whatever the limit (R51). -/
theorem State.undriven.duty {s : State} (h : s.undriven) (m : Motor) : (s.srg.motors.get m).d = 0 := by
  cases m with
  | a => exact h.1
  | b => exact h.2.1

theorem State.limitDuty_drive (s : State) : Drive s s.limitDuty :=
  (s.setDuty_drive .a fun h => by rw [h.duty, Nat.zero_min]).trans
    (State.setDuty_drive _ .b fun h => by rw [h.duty, Nat.zero_min])

theorem State.limitDuty_act (s : State) : Act s s.limitDuty := s.limitDuty_drive.act

theorem State.endSlip_act (s : State) : Act s s.endSlip := s.endSlip_drive.act

theorem State.stopSlip_act (s : State) : Act s s.stopSlip := by
  unfold State.stopSlip
  split
  · exact s.endSlip_act.trans (State.limitDuty_act _)
  · exact s.endSlip_act

theorem State.followModes_act (s : State) : Act s s.followModes :=
  s.followModes_drive.act (by rw [s.followModes_srg]) (by rw [s.followModes_srg]) (by rw [State.followModes_kept])

theorem State.stopTurn_act (s : State) : Act s s.stopTurn := s.stopTurn_drive.act

theorem State.zeroDuty_act (s : State) : Act s s.zeroDuty := s.zeroDuty_drive.act

/-! ### Changes of the traction state -/

/-- The traction state, R, the brake order and the trip reason changed alone. -/
theorem State.traction_drive (s : State) (x : TractionState) (r : Nat) (o : Bool) (b : TripReason) :
    Drive s { s with srg := { s.srg with traction := x, r := r, brakeOrder := o }, bfu := { s.bfu with trip := b } } :=
  .silent rfl

theorem State.toStanding_drive (s : State) : Drive s s.toStanding :=
  have h : Drive s { s with srg := { s.srg with traction := .standing } } := .silent rfl
  h.trans ((State.zeroDuty_drive _).trans ((State.chuffStanding_drive _).trans ((State.endSlip_drive _).trans
    (State.followModes_drive _))))

theorem State.toStanding_undriven (s : State) : s.toStanding.undriven :=
  ((State.chuffStanding_drive _).trans ((State.endSlip_drive _).trans (State.followModes_drive _))).undriven
    (State.zeroDuty_undriven { s with srg := { s.srg with traction := .standing } })

theorem State.toStanding_at (s : State) :
    s.toStanding.srg.traction = .standing ∧ s.toStanding.srg.r = s.srg.r ∧ s.toStanding.bfu.trip = s.bfu.trip := by
  obtain ⟨hsrg, -, hbfu, -⟩ := s.toStanding_spec
  exact ⟨by rw [hsrg], by rw [hsrg], by rw [hbfu]⟩

/-- An entry to STANDING with R = 0, from a state without a trip (R49). -/
theorem State.toStanding_reached {s u : State} (h : Drive s u) (hr : s.tripOk → s.restOk → u.srg.r = 0 ∧ u.bfu.trip = .none) :
    Reached s u.toStanding := by
  obtain ⟨ht, hr', hb⟩ := u.toStanding_at
  refine (h.trans u.toStanding_drive).reached (fun x y => ?_) fun _ => .inr u.toStanding_undriven
  obtain ⟨r0, b0⟩ := hr x y
  unfold State.tripOk State.restOk
  rw [ht, hr', hb, r0, b0]
  simp

theorem State.tractionTripped_drive (s : State) : Drive s s.tractionTripped :=
  have h : Drive s { s with srg := { s.srg with traction := .tripped, r := 0, brakeOrder := false } } := .silent rfl
  h.trans ((State.stopTurn_drive _).trans ((State.zeroDuty_drive _).trans (State.endSlip_drive _)))

theorem State.tractionTripped_undriven (s : State) : s.tractionTripped.undriven :=
  (State.endSlip_drive _).undriven (State.zeroDuty_undriven
    ({ s with srg := { s.srg with traction := .tripped, r := 0, brakeOrder := false } } : State).stopTurn)

/-- E-stop of a locomotive without a trip (R57). -/
theorem State.eBrake_act {s u : State} (h : Drive s u) (hs : s.srg.traction = .standing ∨ s.srg.traction = .moving ∨ s.srg.traction = .turning)
    (ht : u.srg.traction = .eBrake) (hb : u.bfu.trip = s.bfu.trip) : Act s u := by
  refine (h.reached (fun x y => ⟨?_, ?_⟩) fun q => ?_).done (fun _ => h.only.heater) fun x p => ?_
  · unfold State.tripOk at *
    rw [ht, hb]
    rcases hs with e | e | e <;> simpa [e] using x
  · unfold State.restOk
    rw [ht]
    simp
  · refine .inl ?_
    unfold State.quiet at *
    rw [ht, h.only.sup, h.only.part] at q
    rcases q with q | q | q | q <;> simp_all
  · rw [ht, h.only.sup]
    exact ⟨rfl, (x (h.only.part ▸ p)).2⟩

theorem State.brakeEntry_act (s : State) : Act s s.brakeEntry := by
  have entry {u : State} (h : Drive s u) (hs : s.srg.traction = .standing ∨ s.srg.traction = .moving ∨ s.srg.traction = .turning)
      (ht : u.srg.traction = .eBrake) (hb : u.bfu.trip = s.bfu.trip) : Act s u.followModes :=
    (State.eBrake_act h hs ht hb).trans u.followModes_act
  unfold State.brakeEntry
  split
  · next e => exact entry (.silent rfl) (.inl e) rfl rfl
  · next e => exact entry (.silent rfl) (.inr (.inl e)) rfl rfl
  · next e => exact entry (u := ({ s with srg := { s.srg with traction := .eBrake } } : State).stopTurn) (.silent rfl) (.inr (.inr e)) rfl rfl
  · exact .refl s

theorem State.stopOrder_act (s : State) : Act s s.stopOrder := .silent rfl

theorem State.eStop_act (s : State) : Act s s.eStop :=
  (s.stopOrder_act.trans (State.brakeEntry_act _)).trans (State.latch_act _ _)

end Sys2Proof.Machine
end

section
/-!
PROOF. What the smoke state's evaluation, the entry to HALTED, trips, latch clears and a change of supply state keep of the promises
(R13, R59 to R62, R79, R80, R136, R177).
-/
set_option Elab.async false

namespace Sys2Proof.Machine

/-! ### The smoke state (R136) -/

/-- SMK changes alone. -/
theorem Reached.smoke {s : State} {k : Smk} (h : s.WarmOk → State.WarmOk { s with smk := k }) : Reached s { s with smk := k } where
  mem := id
  safe := id
  pending := rfl
  holder := id
  lfsr := id
  board := id
  order := And.intro
  warm := h
  adoption := id
  trip := And.intro
  undriven _ x := x
  halted := id
  dir := rfl
  scan := id

/-- A change of state or target turns the heater off, or leaves it as it is in the state it was in (R136). -/
theorem Smk.change_heater (idle : Nat) (x : SmokeState) (t : SmokeTarget) (k : Smk) :
    (k.change idle x t).hlim = k.hlim ∧ (k.change idle x t).fluid = k.fluid
    ∧ ((k.change idle x t).heater = 0 ∨ ((k.change idle x t).heater = k.heater ∧ x = k.state)) := by
  unfold Smk.change
  split
  · split <;> exact ⟨rfl, rfl, .inl rfl⟩
  · next h =>
    split
    · exact ⟨rfl, rfl, .inl rfl⟩
    · exact ⟨rfl, rfl, .inr ⟨rfl, Classical.not_not.mp h⟩⟩

theorem State.evalSmoke_warm {s : State} (h : s.WarmOk) : s.evalSmoke.WarmOk := by
  obtain ⟨hlim, hfluid, hheat⟩ := Smk.change_heater s.cfg.smoke.idle s.smokeRank.1 s.smokeRank.2 s.smk
  have hstate := (Smk.change_target s.cfg.smoke.idle s.smokeRank.1 s.smokeRank.2 s.smk).1
  refine ⟨hlim.trans h.allowance, ?_, fun hz => ?_, Nat.le_trans (Nat.le_of_eq hfluid) h.fluid⟩
  · rcases hheat with e | ⟨e, -⟩
    · exact Nat.le_trans (Nat.le_of_eq e) (Nat.zero_le _)
    · exact Nat.le_trans (Nat.le_of_eq e) (Nat.le_trans h.below (Nat.le_of_eq hlim.symm))
  · rcases hheat with e | ⟨e, ex⟩
    · exact absurd e hz
    · show (Smk.change _ _ _ _).state.heats = true
      rw [hstate, ex]
      exact h.heats (e ▸ hz)

/-- The rank heats only outside HALTED, with the supply NORMAL and fluid left (R136). -/
theorem State.smokeRank_heats {s : State} (h : s.smokeRank.1.heats = true) :
    s.haltedLike = false ∧ s.sup.state = .normal ∧ s.smk.fluid ≠ 0 := by
  have key : s.smokeRank.1.heats = true → s.smk.fault = false ∧ s.haltedLike = false ∧ s.sup.state = .normal ∧ s.smk.fluid ≠ 0 := by
    intro h
    unfold State.smokeRank at h
    split at h
    · simp [SmokeState.heats] at h
    · split at h
      · simp [SmokeState.heats] at h
      · split at h
        · simp [SmokeState.heats] at h
        · split at h
          · simp [SmokeState.heats] at h
          · next h1 h2 h3 h4 => exact ⟨by simpa using h1, by simpa using h2, Classical.not_not.mp h3, h4⟩
  exact (key h).2

theorem State.evalSmoke_reached (s : State) : Reached s s.evalSmoke := Reached.smoke State.evalSmoke_warm

/-- Where SMK acts on events, an evaluation restores what the heater needs. -/
theorem State.evalSmoke_heater {s : State} (ha : s.smokeActs = true) (h : s.WarmOk) : s.evalSmoke.HeaterOk := by
  obtain ⟨allowance, below, heats, fluid⟩ := State.evalSmoke_warm h
  refine ⟨allowance, below, heats, fun hh => ?_, fluid⟩
  have hstate := (Smk.change_target s.cfg.smoke.idle s.smokeRank.1 s.smokeRank.2 s.smk).1
  obtain ⟨hl, hn, hf⟩ := State.smokeRank_heats (s := s) (by rw [← hstate]; exact hh)
  have hfl : s.evalSmoke.smk.fluid = s.smk.fluid := (Smk.change_heater _ _ _ _).2.1
  refine ⟨hn, by rw [hfl]; exact hf, ?_⟩
  unfold State.smokeActs at ha
  rw [hl, Bool.or_false] at ha
  exact ha

theorem State.evalSmoke_act {s : State} (ha : s.smokeActs = true) : Act s s.evalSmoke :=
  s.evalSmoke_reached.done (fun _ x => State.evalSmoke_heater ha x.warm) id

theorem State.setSmokeEnable_act {s : State} (on : Bool) (ha : s.smokeActs = true) : Act s (s.setSmokeEnable on) :=
  (State.evalSmoke_act (s := { s with smk := { s.smk with enable := on } }) ha).quietly

theorem State.idleFan_act (s : State) : Act s s.idleFan := Act.silent rfl

/-- A chuff's puff changes the fan alone (R142). -/
theorem State.puffChuff_act (s : State) (p : Nat) : Act s (s.puffChuff p) := by
  unfold State.puffChuff
  split
  · dsimp only
    split <;> exact Act.silent rfl
  · exact .refl s

/-! ### The entry to HALTED (R13) -/

theorem State.setPart_base (s : State) (p : PartState) : Base s (s.setPart p) :=
  have h : Base s { s with exc := { s.exc with part := p } } :=
    ⟨id, id, rfl, id, id, id, And.intro, fun x => ⟨x.allowance, x.below, x.heats, x.fluid⟩⟩
  h.trans (State.writeField_act (by decide)).toBase

theorem State.onChans_safe {s : State} {f : Channel → Channel} (hf : ∀ ch, Channel.Calm ch (f ch)) (h : s.noShootThrough) :
    (s.onChans f).noShootThrough :=
  (State.onChans_drive s hf).safe h

theorem State.haltTraction_safe {s : State} (h : s.noShootThrough) : s.haltTraction.noShootThrough := by
  have h1 : ({ s with srg := { s.srg with tick := none, regTimer := false, r := 0, brakeOrder := false } } : State).stopTurn.zeroDuty.noShootThrough :=
    (State.zeroDuty_drive _).safe h
  unfold State.haltTraction
  split
  · exact (State.toStanding_drive _).safe h1
  · exact (State.toStanding_drive _).safe h1
  · exact (State.toStanding_drive _).safe h1
  · exact h1

theorem State.haltDrive_safe {s : State} (h : s.noShootThrough) : s.haltTraction.haltBridge.haltChuff.noShootThrough :=
  State.onChans_safe (Channel.halted_calm _) (State.haltTraction_safe h)

theorem Channel.dead_still {ch : Channel} (h : ch.dead = true) (hr : ch.raised = none) : ch.still = true := by
  simp only [Channel.dead, Bool.and_eq_true, beq_iff_eq] at h
  exact Channel.still_iff.mpr ⟨h.2, .inl hr⟩

/-- The share of SRG, BFU and CHK in an entry to HALTED, with the part state (R62, R84, R95). -/
theorem State.haltDrive_reached {s : State} (hp : s.exc.part ≠ .adopting) :
    Reached s (((s.setPart .halted).haltTraction.haltBridge).haltChuff) := by
  have only := s.haltDrive_spec
  obtain ⟨srg, bfu, chans, -⟩ := (s.setPart .halted).haltDrive_facts
  have exc := only.fields.2.2.2.2.2.2.2.2.2
  dsimp only at srg bfu chans
  exact {
    toBase := (s.setPart_base .halted).trans (only.base State.haltDrive_safe)
    adoption := fun x => by
      unfold State.adoptionOk at *
      rw [exc]
      show s.exc.adoption.isSome = true ↔ PartState.halted = PartState.adopting
      simp [x, hp]
    trip := fun x _ => by
      have hr : (((s.setPart .halted).haltTraction.haltBridge).haltChuff).srg.r = 0 := by rw [srg]
      have hb : (((s.setPart .halted).haltTraction.haltBridge).haltChuff).bfu.trip = s.bfu.trip := by rw [bfu]; rfl
      refine ⟨?_, fun _ => hr⟩
      unfold State.tripOk at *
      rw [hb, srg, ← x]
      show (if s.srg.traction.ends then s.srg.traction else .standing) = .tripped ↔ s.srg.traction = .tripped
      cases s.srg.traction <;> simp [TractionState.ends]
    undriven := fun _ _ _ =>
      ⟨by rw [srg]; rfl, by rw [srg]; rfl, Channel.dead_still (chans .a).1 (chans .a).2.1, Channel.dead_still (chans .b).1 (chans .b).2.1⟩
    halted := fun _ => by rw [exc]; rfl
    dir := by rw [srg]; rfl
    scan := by rw [exc]; exact id }

theorem State.haltSmoke_reached (s : State) : Reached s s.haltSmoke :=
  have h : Reached s { s with smk := { s.smk with heater := 0, fan := 0, puff := none } } :=
    Reached.smoke fun x => ⟨x.allowance, Nat.zero_le _, fun h => absurd rfl h, x.fluid⟩
  h.trans (State.evalSmoke_reached _)

/-- In the part state HALTED the heater is off, and the smoke state does not heat (R144). -/
theorem State.haltSmoke_heater {s : State} (h : s.exc.part = .halted) (w : s.WarmOk) : s.haltSmoke.HeaterOk := by
  have w' := (State.haltSmoke_reached s).warm w
  have e := State.haltSmoke_facts h
  refine ⟨w'.allowance, w'.below, w'.heats, fun hh => ?_, w'.fluid⟩
  rw [e] at hh
  dsimp only at hh
  split at hh <;> simp [SmokeState.heats] at hh

theorem State.enterHalted_act {s : State} (hp : s.exc.part ≠ .adopting) : Act s s.enterHalted := by
  have h1 := State.haltDrive_reached hp
  have p1 : (((s.setPart .halted).haltTraction.haltBridge).haltChuff).exc.part = .halted := by
    rw [s.haltDrive_spec.fields.2.2.2.2.2.2.2.2.2]; rfl
  unfold State.enterHalted
  dsimp only
  generalize ((s.setPart .halted).haltTraction.haltBridge).haltChuff = w at h1 p1 ⊢
  have h2 := h1.trans w.haltSound_act.reached
  have p2 := w.haltSound_act.halted p1
  generalize w.haltSound = x at h2 p2 ⊢
  have h3 := h2.trans x.haltSmoke_reached
  have p3 : x.haltSmoke.exc.part = .halted := p2
  refine (h3.done (fun _ y => State.haltSmoke_heater p2 (h2.warm y.warm)) fun _ y => ?_).trans (Act.silent rfl)
  rw [p3] at y
  cases y

theorem State.enterHalted_stopped (s : State) : s.enterHalted.exc.part = .halted := s.enterHalted_spec.2.2.2.2.2.2

/-- A report of the traction state to EXC (R12, R62). -/
theorem Reached.report {s u : State} (h : Reached s u) (heater : s.adoptionOk → s.HeaterOk → u.HeaterOk) : Act s u.endStopping := by
  rcases u.endStopping_cases with ⟨e, hn⟩ | ⟨e, hp, -⟩
  · rw [e]
    refine h.done heater fun _ p => ?_
    simpa [p] using hn
  · rw [e]
    have ha := State.enterHalted_act (s := u) (by rw [hp]; decide)
    refine (h.trans ha.reached).done (fun x y => ha.heater (h.adoption x) (heater x y)) fun _ p => ?_
    rw [u.enterHalted_stopped] at p
    cases p

theorem State.endStopping_act (s : State) : Act s s.endStopping := (Act.refl s).reached.report fun _ => id

/-- A drive operation with its report to EXC. -/
theorem Drive.report {s u : State} (h : Drive s u) (trip : s.tripOk → s.restOk → u.tripOk ∧ u.restOk)
    (quiet : u.quiet → s.quiet ∨ u.undriven) : Act s u.endStopping :=
  (h.reached trip quiet).report fun _ => h.only.heater

/-! ### Trips and latch clears (R59, R60, R79, R80) -/

theorem State.tripNow_act (s : State) {r : TripReason} (hr : r ≠ .none) : Act s (s.tripNow r) := by
  unfold State.tripNow
  split
  · dsimp only
    have h1 := s.onChans_drive (Channel.tripped_calm s.cfg.traction)
    generalize s.onChans (Channel.tripped s.cfg.traction) = u at h1
    have h2 : Drive u (({ u with bfu := { u.bfu with trip := r } } : State).latch .trip) := .silent rfl
    refine Drive.report ((h1.trans h2).trans (State.tractionTripped_drive _)) (fun _ _ => ⟨?_, fun _ => rfl⟩) fun _ =>
      .inr (State.tractionTripped_undriven _)
    exact iff_of_true rfl hr
  · exact .refl s

theorem State.checkDriver_act (s : State) : Act s s.checkDriver := by
  unfold State.checkDriver
  split
  · exact s.tripNow_act (by decide)
  · exact .refl s

theorem State.clearTrip_drive (s : State) : Drive s s.clearTrip :=
  .ofDuties rfl (fun _ => rfl) (fun m => by cases m <;> exact ⟨id, id⟩) rfl

theorem State.toStanding_report {s u : State} (h : Drive s u) (hr : s.tripOk → s.restOk → u.srg.r = 0 ∧ u.bfu.trip = .none) :
    Act s u.toStanding.endStopping :=
  (State.toStanding_reached h hr).report fun _ => (h.trans u.toStanding_drive).only.heater

theorem State.latchClear_act (s : State) : Act s s.latchClear := by
  unfold State.latchClear
  split
  · next e =>
    refine State.toStanding_report (u := { s with srg := { s.srg with brakeOrder := false } }) (.silent rfl) fun x y => ?_
    refine ⟨y (.inr (.inl e)), ?_⟩
    unfold State.tripOk at x
    refine Classical.byContradiction fun hb => ?_
    rw [x.mpr hb] at e
    cases e
  · next e =>
    exact (State.toStanding_report s.clearTrip_drive fun _ y => ⟨y (.inr (.inr e)), rfl⟩).trans (State.checkDriver_act _)
  · exact .refl s

theorem State.zeroRequest_act (s : State) : Act s s.zeroRequest := by
  unfold State.zeroRequest
  split
  · exact s.latchClear_act
  · exact .refl s

/-! ### Supply changes (R61, R177) -/

/-- SRG at entry to DARK, before its report: everything but STOPPING holds again (R61). -/
theorem State.darkStop_reached (s : State) (hu : s.undriven) : Reached s s.darkStop := by
  have rest {u : State} (h : Drive s u) (hr : u.srg.r = 0) (hb : u.bfu.trip = s.bfu.trip) (ht : s.srg.traction ≠ .tripped) :
      Reached s u.toStanding.endStopping := by
    refine (State.toStanding_reached h fun x _ => ⟨hr, ?_⟩).trans (State.endStopping_act _).reached
    rw [hb]
    refine Classical.byContradiction fun hn => ?_
    exact ht (x.mpr hn)
  unfold State.darkStop
  split
  · exact (Act.refl s).reached
  · exact (Act.refl s).reached
  · next e =>
    have hd : Drive s ({ s with srg := { s.srg with r := 0 } } : State).stopTurn := .silent rfl
    exact hd.reached (fun x _ => ⟨x, fun _ => rfl⟩) fun _ => .inr (hd.undriven hu)
  · next e _ _ =>
    exact rest (u := ({ s with srg := { s.srg with r := 0 } } : State).stopTurn) (.silent rfl) rfl rfl (by assumption)

/-- SRG at entry to DARK halts the part, or changes the drive alone. -/
theorem State.darkStop_cases (s : State) : s.darkStop.exc.part = .halted ∨ driveOnly s s.darkStop := by
  unfold State.darkStop
  split
  · exact .inr rfl
  · exact .inr rfl
  · exact .inr rfl
  · obtain ⟨u, hu⟩ : ∃ u, ({ s with srg := { s.srg with r := 0 } } : State).stopTurn.toStanding = u := ⟨_, rfl⟩
    have only : driveOnly s u := by
      rw [← hu]
      exact driveOnly.trans (t := ({ s with srg := { s.srg with r := 0 } } : State).stopTurn) rfl (State.toStanding_driveOnly _)
    rw [hu]
    rcases u.endStopping_cases with ⟨e, -⟩ | ⟨e, -⟩ <;> rw [e]
    · exact .inr only
    · exact .inl u.enterHalted_stopped

theorem State.smokeActs_halted {s : State} (h : s.exc.part = .halted) : s.smokeActs = true := by
  simp [State.smokeActs, State.haltedLike, h]

/-- The new supply state with the duties limited to it (R51, R177): in DARK the limit is 0. -/
theorem State.supplyLimited_reached (s : State) (x : Supply) :
    Reached s ({ s with sup := { s.sup with state := x } }.latch .supplyChange).limitDuty
    ∧ (x = .dark → ({ s with sup := { s.sup with state := x } }.latch .supplyChange).limitDuty.undriven) := by
  obtain ⟨u, hu⟩ : ∃ u, ({ s with sup := { s.sup with state := x } } : State).latch .supplyChange = u := ⟨_, rfl⟩
  have hb : Base s u := by
    rw [← hu]
    exact ⟨id, id, rfl, id, id, id, And.intro, fun y => ⟨y.allowance, y.below, y.heats, y.fluid⟩⟩
  have hx : u.sup.state = x := by rw [← hu]; rfl
  have hsrg : u.srg = s.srg := by rw [← hu]; rfl
  have hbfu : u.bfu = s.bfu := by rw [← hu]; rfl
  have hpart : u.exc.part = s.exc.part := by rw [← hu]; rfl
  have hscan : u.exc.scan = s.exc.scan := by rw [← hu]; rfl
  have hadop : u.exc.adoption = s.exc.adoption := by rw [← hu]; rfl
  rw [hu]
  have hl := u.limitDuty_act
  have hdark : x = .dark → u.limitDuty.undriven := fun hd => by
    have hz (v : State) (m : Motor) (h : v.sup.state = .dark) : v.dutyLimit v.cfg.traction m = 0 := by
      have : v.baseLimit v.cfg.traction = 0 := by simp [State.baseLimit, supplyLimit, h]
      unfold State.dutyLimit
      split <;> simp [this]
    have ha : min (u.srg.motors.get .a).d (u.dutyLimit u.cfg.traction .a) = 0 := by rw [hz u .a (hx.trans hd), Nat.min_zero]
    obtain ⟨v, hv⟩ : ∃ v, u.setDuty .a 0 = v := ⟨_, rfl⟩
    have hvd : v.sup.state = .dark := by rw [← hv]; exact hx.trans hd
    unfold State.limitDuty
    rw [ha, hv]
    dsimp only
    rw [hz v .b hvd, Nat.min_zero, ← hv]
    exact ⟨rfl, rfl, Channel.hand_zero_still _ _, Channel.hand_zero_still _ _⟩
  refine ⟨⟨hb.trans hl.toBase, ?_, ?_, ?_, ?_, ?_, ?_⟩, hdark⟩
  · unfold State.adoptionOk at *
    intro y
    exact hl.adoption (by unfold State.adoptionOk; rw [hadop, hpart]; exact y)
  · intro y z
    exact hl.trip (by unfold State.tripOk; rw [hsrg, hbfu]; exact y) (by unfold State.restOk; rw [hsrg]; exact z)
  · intro _ y q
    by_cases hd : x = .dark
    · exact hdark hd
    · refine (u.limitDuty_drive.undriven ?_)
      have q' : s.quiet := by
        unfold State.quiet at q ⊢
        rw [u.limitDuty_drive.only.sup, u.limitDuty_drive.only.part, hx, hpart] at q
        have ht : u.limitDuty.srg.traction = u.srg.traction := rfl
        rw [ht, hsrg] at q
        exact q.imp_right (Or.imp_right (Or.imp_right fun h => .inr (h.resolve_left hd)))
      have hu' := y q'
      unfold State.undriven at *
      rw [hsrg, hbfu]
      exact hu'
  · exact fun y => hl.halted (hpart.trans y)
  · exact hl.dir.trans (congrArg Srg.bridgeDir hsrg)
  · exact fun y => hl.scan (hscan.trans y)

theorem State.recomputeLampCap_act (s : State) : Act s s.recomputeLampCap := Act.silent rfl

theorem State.recomputeLampCap_heater {s : State} (h : s.HeaterOk) : s.recomputeLampCap.HeaterOk :=
  ⟨h.allowance, h.below, h.heats, h.lit, h.fluid⟩

theorem State.supplySound_soundOnly (s : State) : soundOnly s s.supplySound := by
  have hc : soundOnly s s.recomputeCap := rfl
  unfold State.supplySound
  dsimp only
  generalize s.recomputeCap = u at hc
  split
  · exact hc.trans u.shedVoices_soundOnly
  · unfold State.supplyBackground
    split
    · exact hc.trans u.requestBackground_soundOnly
    · exact hc

/-- A change of supply state (R177). -/
theorem State.supplyChange_act (s : State) (x : Supply) : Act s (s.supplyChange x) := by
  have h1 := s.supplyLimited_reached x
  have hk : driveOnly { s with sup := { s.sup with state := x } } ({ s with sup := { s.sup with state := x } }.latch .supplyChange).limitDuty := rfl
  unfold State.supplyChange
  dsimp only
  generalize State.limitDuty _ = u at h1 hk ⊢
  obtain ⟨h1, hd⟩ := h1
  have hu : u.smk = s.smk ∧ u.exc.part = s.exc.part := ⟨hk.fields.2.2.2.1, hk.part⟩
  obtain ⟨v, hv⟩ : ∃ v, (if x = .dark then u.darkStop else u) = v := ⟨_, rfl⟩
  have h2 : Reached s v ∧ (v.exc.part = .halted ∨ (v.smk = s.smk ∧ v.exc.part = s.exc.part)) := by
    rw [← hv]
    split
    · next hx =>
      refine ⟨h1.trans (u.darkStop_reached (hd hx)), ?_⟩
      rcases u.darkStop_cases with h | h
      · exact .inl h
      · exact .inr ⟨h.fields.2.2.2.1.trans hu.1, h.part.trans hu.2⟩
    · exact ⟨h1, .inr hu⟩
  rw [hv]
  have hs : soundOnly v v.supplySound := v.supplySound_soundOnly
  have h3 := h2.1.trans v.supplySound_act.reached
  have h3' : v.supplySound.smk = v.smk ∧ v.supplySound.exc.part = v.exc.part := ⟨by rw [hs], by rw [hs]⟩
  generalize v.supplySound = w at h3 h3'
  refine Reached.report (s := s) (u := State.recomputeLampCap _) ?_ fun _ y => ?_
  · split
    · exact (h3.trans w.evalSmoke_reached).trans (State.recomputeLampCap_act _).reached
    · exact h3.trans (State.recomputeLampCap_act _).reached
  · refine State.recomputeLampCap_heater ?_
    split
    · next ha => exact State.evalSmoke_heater ha (h3.warm y.warm)
    · next ha =>
      have hw := h3.warm y.warm
      refine ⟨hw.allowance, hw.below, hw.heats, fun hh => ?_, hw.fluid⟩
      rcases h2.2 with hp | ⟨hsm, hp⟩
      · exact absurd (State.smokeActs_halted (h3'.2.trans hp)) ha
      · rw [h3'.1, hsm] at hh
        refine absurd ?_ ha
        simp [State.smokeActs, h3'.2, hp, (y.lit hh).2.2]

end Sys2Proof.Machine
end

section
/-!
PROOF. What the operations of the drive request unit, the chuff clock, the radio receiver and the supply monitor keep of the promises
(R25 to R40, R86 to R94, R162 to R180).
-/
set_option Elab.async false

namespace Sys2Proof.Machine

/-! ### The drive request and the holder -/

/-- The drive request and the receiver change alone, with a holder where the source is RADIO. -/
theorem Act.radio {s : State} {d : Drq} {x : Rrx} (h : s.holderOk → State.holderOk { s with drq := d, rrx := x }) :
    Act s { s with drq := d, rrx := x } where
  mem := id
  safe := id
  pending := rfl
  holder := h
  lfsr := id
  board := id
  order := And.intro
  warm x := ⟨x.allowance, x.below, x.heats, x.fluid⟩
  adoption := id
  heater _ x := ⟨x.allowance, x.below, x.heats, x.lit, x.fluid⟩
  trip := And.intro
  stopping := id
  undriven _ x := x
  halted := id
  dir := rfl
  scan := id

theorem State.derive_act (s : State) : Act s s.derive := Act.silent rfl

/-- A request with source RADIO comes with a holder (R166). -/
theorem State.request_act {s : State} {src : Source} (o : Origin) (d : Nat) (h : src = .radio → s.rrx.holder.isSome = true) :
    Act s (s.request src o d) := by
  have h1 : Act s { s with drq := { s.drq with source := src, origin := o, dir := directionOf d s.drq.dir } } :=
    Act.radio (x := s.rrx) fun _ => h
  exact h1.trans ((State.derive_act _).trans (State.zeroRequest_act _))

/-- A freed holder takes the source RADIO with it (R32). -/
theorem State.freeHolder_act (s : State) : Act s s.freeHolder := by
  unfold State.freeHolder State.holderFreed
  split
  · exact Act.radio fun _ h => by cases h
  · next h => exact Act.radio (d := s.drq) fun _ h' => absurd h' h

theorem State.hearHolder_act (s : State) (id : Half) : Act s (s.hearHolder id) :=
  Act.radio (d := s.drq) fun _ _ => rfl

theorem State.refreshHolder_act (s : State) (id : Half) : Act s (s.refreshHolder id) := by
  unfold State.refreshHolder
  split
  · exact s.hearHolder_act id
  · exact .refl s

/-! ### Function state (R36, R39, R40) -/

theorem State.handSmoke_act {s : State} (ha : s.smokeActs = true) : Act s s.handSmoke := by
  unfold State.handSmoke
  dsimp only
  split
  · exact .refl s
  · refine (State.setSmokeEnable_act _ ?_).quietly
    exact ha

theorem State.handMute_act (s : State) : Act s s.handMute := by
  unfold State.handMute
  dsimp only
  split
  · exact .refl s
  · exact (State.setMute_act _ _).quietly

theorem State.handShunt_act (s : State) : Act s s.handShunt := by
  unfold State.handShunt
  dsimp only
  split
  · exact .refl s
  · exact Act.silent rfl

theorem State.handMomentum_act (s : State) : Act s s.handMomentum := Act.silent rfl

theorem State.evalLevels_act {s : State} (ha : s.smokeActs = true) : Act s s.evalLevels :=
  (State.handSmoke_act ha).trans ((State.handMute_act _).trans ((State.handShunt_act _).trans (State.handMomentum_act _)))

theorem State.functionOp_act {s : State} (op : FunctionOp) (mask : BitVec 32) (ha : s.smokeActs = true) :
    Act s (s.functionOp op mask) := by
  unfold State.functionOp
  dsimp only
  split
  · exact .refl s
  · have h1 : Act s (State.evalLevels { s with drq := { s.drq with functions := op.act mask s.drq.functions } }) := by
      refine (State.evalLevels_act ?_).quietly
      exact ha
    generalize State.evalLevels _ = u at h1 ⊢
    exact h1.trans ((State.endKeys_act _ _).trans (State.startKeys_act _ _))

/-! ### Chuffs (R86 to R94) -/

theorem State.flashChuff_act (s : State) : Act s s.flashChuff := Act.silent rfl

theorem State.chuffToSlot_act (s : State) : Act s s.chuffToSlot := by
  unfold State.chuffToSlot
  split
  · exact Act.silent rfl
  · exact .refl s

theorem State.chuffEvent_act (s : State) : Act s s.chuffEvent := by
  unfold State.chuffEvent
  obtain ⟨u, hu⟩ : ∃ u, ({ s with chk := { s.chk with
    lastChuff := s.chk.period, next := (s.chk.next + 1) % s.cfg.chuff.perCycle, first := false, interval := 0,
    count := s.chk.count + 1 } } : State) = u := ⟨_, rfl⟩
  have h : Act s u := by rw [← hu]; exact Act.silent rfl
  dsimp only
  rw [hu]
  exact (h.trans (State.chuffVoice_act u _)).trans ((State.puffChuff_act _ _).trans
    ((State.flashChuff_act _).trans (State.chuffToSlot_act _)))

/-- The chuff clock changes alone. -/
theorem State.setChk_act (s : State) (x : Chk) : Act s { s with chk := x } := Act.silent rfl

theorem State.restartLost_act (s : State) : Act s s.restartLost := Act.silent rfl

theorem State.sensorEvent_act (s : State) : Act s s.sensorEvent := by
  unfold State.sensorEvent
  dsimp only
  split
  · exact Act.silent rfl
  · exact ((State.chuffEvent_act _).trans (State.restartLost_act _)).quietly
  · split
    · exact ((State.chuffEvent_act _).trans (State.restartLost_act _)).quietly
    · exact Act.silent rfl

theorem State.qualifiedEdge_act (s : State) (x : Level) : Act s (s.qualifiedEdge x) := by
  unfold State.qualifiedEdge
  split
  · split
    · exact (State.sensorEvent_act _).quietly
    · exact Act.silent rfl
  · exact .refl s

theorem State.judgeLost_act (s : State) : Act s s.judgeLost := by
  unfold State.judgeLost
  split
  · exact s.setChk_act _
  · exact .refl s

theorem State.camAdvance_act (s : State) : Act s s.camAdvance := by
  unfold State.camAdvance
  split
  · exact .refl s
  · dsimp only
    split
    · split
      · exact (s.setChk_act _).trans (State.chuffEvent_act _)
      · exact s.setChk_act _
    · exact s.setChk_act _

/-! ### Frames (R162 to R170) -/

theorem State.dispatchThrottle_act (s : State) (f : Frame) : Act s (s.dispatchThrottle f) := by
  unfold State.dispatchThrottle
  dsimp only
  split
  · exact (s.hearHolder_act _).trans (State.request_act _ _ fun _ => rfl)
  · next h => exact State.request_act _ _ fun _ => Option.isSome_iff_ne_none.mpr (by simpa using h)

theorem State.dispatch_act {s : State} (f : Frame) (k : FrameKind) (ha : s.smokeActs = true) : Act s (s.dispatch f k) := by
  cases k with
  | throttle => exact s.dispatchThrottle_act f
  | function =>
    show Act s (match functionOpOf (byteAt f.payload 0) with
      | some op => s.functionOp op (frameMask f.payload)
      | none => s)
    split
    · exact State.functionOp_act _ _ ha
    · exact .refl s
  | estop => exact s.eStop_act
  | release => exact s.freeHolder_act
  | sound =>
    show Act s (if byteAt f.payload 1 = 0 then s.keyStart (byteAt f.payload 0) else s.keyEnd (byteAt f.payload 0))
    split
    · exact s.keyStart_act _
    · exact s.keyEnd_act _
  | hostData => exact .refl s

theorem State.toInbox_act (s : State) (r : InboxRecord) (b : BufferId) : Act s (s.toInbox r b) := Act.silent rfl

theorem State.judgeFrame_act {s : State} (f : Frame) (b : BufferId) (ha : s.smokeActs = true) : Act s (s.judgeFrame f b) := by
  unfold State.judgeFrame
  split
  · exact s.toInbox_act _ b
  · exact (State.dispatch_act f _ ha).trans (State.toInbox_act _ _ b)

theorem State.refreshHolder_smokeActs (s : State) (id : Half) : (s.refreshHolder id).smokeActs = s.smokeActs := by
  unfold State.refreshHolder
  split <;> rfl

theorem State.checkedFrame_act {s : State} (f : Frame) (b : BufferId) (ha : s.smokeActs = true) : Act s (s.checkedFrame f b) := by
  unfold State.checkedFrame
  dsimp only
  obtain ⟨u, hu⟩ : ∃ u, ({ s with rrx := { s.rrx with signal := f.signal } } : State).refreshHolder f.sender = u := ⟨_, rfl⟩
  have h1 : Act s u := by rw [← hu]; exact (State.refreshHolder_act _ _).quietly
  have h2 : u.smokeActs = true := by rw [← hu, State.refreshHolder_smokeActs]; exact ha
  rw [hu]
  split
  · split
    · exact h1.trans (State.freeBuffer_act _ b).quietly
    · refine h1.trans (State.judgeFrame_act f b ?_).quietly
      exact h2
  · exact h1.trans (State.freeBuffer_act _ b)

/-! ### Supply samples (R174 to R176, R180) -/

theorem State.changeSupply_act (s : State) (x : Supply) : Act s (s.changeSupply x) := (State.supplyChange_act _ x).quietly

theorem State.supplyLost_act (s : State) : Act s s.supplyLost := by
  unfold State.supplyLost
  split
  · exact s.changeSupply_act .dark
  · exact (State.supplyChange_act _ .holdup).quietly

theorem State.judgeNormal_act (s : State) : Act s s.judgeNormal := by
  unfold State.judgeNormal
  dsimp only
  split
  · exact (State.supplyLost_act _).quietly
  · split
    · exact (State.changeSupply_act _ _).quietly
    · exact Act.silent rfl

theorem State.judgeLean_act (s : State) : Act s s.judgeLean := by
  unfold State.judgeLean
  dsimp only
  split
  · exact (State.supplyLost_act _).quietly
  · split
    · exact (State.changeSupply_act _ _).quietly
    · exact Act.silent rfl

theorem State.judgeReturn_act (s : State) : Act s s.judgeReturn := by
  unfold State.judgeReturn
  dsimp only
  split
  · exact s.changeSupply_act _
  · exact Act.silent rfl

theorem State.judgeHoldup_act (s : State) : Act s s.judgeHoldup := by
  unfold State.judgeHoldup
  split
  · exact s.changeSupply_act _
  · exact s.judgeReturn_act

theorem State.judgeSupply_act (s : State) : Act s s.judgeSupply := by
  unfold State.judgeSupply
  split
  · exact s.judgeNormal_act
  · exact s.judgeLean_act
  · exact s.judgeHoldup_act
  · exact s.judgeReturn_act

theorem State.holdupExpires_act (s : State) : Act s s.holdupExpires := (State.supplyChange_act _ .dark).quietly

theorem State.newPower_act (s : State) : Act s s.newPower := by
  unfold State.newPower
  split
  · exact Act.silent rfl
  · dsimp only
    split
    · exact (State.holdupExpires_act _).quietly
    · exact Act.silent rfl

/-- A new heater allowance lowers the heater to it (R138, R178). -/
theorem State.setHlim_act (s : State) (h : Nat) : Act s (State.setHlim { s with sup := { s.sup with hlim := h } } h) where
  mem := id
  safe := id
  pending := rfl
  holder := id
  lfsr := id
  board := id
  order := And.intro
  warm x := ⟨rfl, Nat.min_le_right _ _, fun h => x.heats fun h' => h (by show min _ _ = 0; rw [h', Nat.zero_min]), x.fluid⟩
  adoption := id
  heater _ x := ⟨rfl, Nat.min_le_right _ _, fun h => x.heats fun h' => h (by show min _ _ = 0; rw [h', Nat.zero_min]), x.lit, x.fluid⟩
  trip := And.intro
  stopping := id
  undriven _ x := x
  halted := id
  dir := rfl
  scan := id

end Sys2Proof.Machine
end

section
/-!
PROOF. What a RELOAD of each group and the cues of a scan keep of the promises (R17 to R19, R37, R118 to R122, R140).
-/
set_option Elab.async false

namespace Sys2Proof.Machine

/-! ### Groups made active (R19) -/

/-- The active groups change, the fluid's capacity as before. -/
theorem State.setCfg_act (s : State) {g : Groups} (h : g.smoke.capacity = s.cfg.smoke.capacity) : Act s { s with cfg := g } :=
  Act.silent (by simp only [State.view, h])

theorem parseGroup_smoke {n : Nat} (bs : List Byte) (g : Groups) (h : n ≠ 6) : (parseGroup n bs g).smoke = g.smoke := by
  unfold parseGroup
  split <;> first | rfl | exact absurd rfl h

/-- A motor that is removed, or whose integral and flag are cleared, keeps a duty of 0 (R65). -/
theorem reloadMotor_rest (c : Traction) (m : Motor) {x : SrgMotor} (h : x.d = 0) : (reloadMotor c m x).d = 0 := by
  unfold reloadMotor
  split
  · exact h
  · rfl

theorem State.reloadTraction_act (s : State) {g : Groups} (h : g.smoke.capacity = s.cfg.smoke.capacity) :
    Act s (s.reloadTraction g) := by
  unfold State.reloadTraction
  dsimp only
  have hd : Drive { s with cfg := g } { s with
      cfg := g,
      srg := { s.srg with
        motors := ⟨reloadMotor g.traction .a s.srg.motors.a, reloadMotor g.traction .b s.srg.motors.b⟩, regTimer := s.exc.part.driving },
      bfu := { s.bfu with
        chans := ⟨reloadChannel g.traction .a s.exc.part.driving s.bfu.chans.a,
          reloadChannel g.traction .b s.exc.part.driving s.bfu.chans.b⟩, slipRun := 0 } } :=
    { only := rfl
      safe := fun x => ⟨(reloadChannel_calm _ _ _ _).safe x.1, (reloadChannel_calm _ _ _ _).safe x.2⟩
      undriven := fun ⟨a, b, ca, cb⟩ => ⟨reloadMotor_rest _ _ a, reloadMotor_rest _ _ b, (reloadChannel_calm _ _ _ _).still ca,
        (reloadChannel_calm _ _ _ _).still cb⟩
      dir := rfl }
  exact ((s.setCfg_act h).trans hd.act).trans (State.checkDriver_act _)

theorem State.reloadBackground_act (s : State) : Act s s.reloadBackground := by
  unfold State.reloadBackground
  split
  · exact s.endVoice_act _ _
  · split
    · exact s.requestBackground_act
    · exact .refl s

theorem State.reloadSound_act (s : State) {g : Groups} (h : g.smoke.capacity = s.cfg.smoke.capacity) : Act s (s.reloadSound g) := by
  have h1 : Act s { s with cfg := g, snd := { s.snd with master := g.sound.master } } := (s.setCfg_act h).trans (Act.silent rfl)
  exact h1.trans (State.reloadBackground_act _)

/-- The fluid is limited to the new capacity (R146). -/
theorem State.reloadSmoke_act {s : State} (g : Groups) (ha : s.smokeActs = true) : Act s (s.reloadSmoke g) := by
  have h1 : Reached s { s with cfg := g, smk := { s.smk with
      fault := false, hot := false, fluid := min s.smk.fluid g.smoke.capacity } } :=
    { mem := id, safe := id, pending := rfl, holder := id, lfsr := id, board := id, order := And.intro
      warm := fun x => ⟨x.allowance, x.below, x.heats, Nat.min_le_right _ _⟩
      adoption := id, trip := And.intro, undriven := fun _ x => x, halted := id, dir := rfl, scan := id }
  refine ((h1.trans (State.evalSmoke_reached _)).done (fun _ x => ?_) id).trans (State.idleFan_act _)
  refine State.evalSmoke_heater ?_ (h1.warm x.warm)
  exact ha

theorem State.reloadRadio_act (s : State) {g : Groups} (h : g.smoke.capacity = s.cfg.smoke.capacity) : Act s (s.reloadRadio g) := by
  unfold State.reloadRadio
  dsimp only
  split
  · exact (s.setCfg_act h).trans (State.freeHolder_act _)
  · exact s.setCfg_act h

theorem State.reloadFunctions_act {s : State} {g : Groups} (h : g.smoke.capacity = s.cfg.smoke.capacity) (ha : s.smokeActs = true) :
    Act s (s.reloadFunctions g) := by
  refine (s.setCfg_act h).trans (State.evalLevels_act ?_)
  exact ha

theorem State.reloadGroup_act {s : State} {n : Nat} {g : Groups} (ha : s.smokeActs = true)
    (h : n ≠ 6 → g.smoke.capacity = s.cfg.smoke.capacity) : Act s (s.reloadGroup n g) := by
  unfold State.reloadGroup
  split
  · exact s.reloadTraction_act (h (by decide))
  · exact (s.setCfg_act (h (by decide))).trans (State.derive_act _)
  · exact State.reloadFunctions_act (h (by decide)) ha
  · exact s.reloadSound_act (h (by decide))
  · exact (s.setCfg_act (h (by decide))).trans (State.setChk_act _ _)
  · exact State.reloadSmoke_act g ha
  · exact (s.setCfg_act (h (by decide))).trans (Act.silent rfl)
  · exact s.reloadRadio_act (h (by decide))
  · next h6 _ _ => exact (s.setCfg_act (h h6)).trans (State.newPower_act _)

/-- A group that passes its checks replaces its own values alone (R8). -/
theorem validateGroup_valid {n : Nat} {bs : List Byte} {g g' : Groups} (h : validateGroup n bs g = .valid g') :
    g' = parseGroup n bs g := by
  have key : ∀ cs : List Check, verdictOf cs (parseGroup n bs g) = .valid g' → g' = parseGroup n bs g := by
    intro cs
    induction cs with
    | nil => intro h; exact (Verdict.valid.inj h).symm
    | cons c cs ih =>
      obtain ⟨i, r⟩ := c
      cases r with
      | none => exact ih
      | some r => intro h; cases h
  exact key _ h

theorem State.reload_act {s : State} (n : Nat) (ha : s.smokeActs = true) : Act s (s.reload n).1 := by
  unfold State.reload
  split
  · exact .refl s
  · split
    · exact .refl s
    · split
      · exact (s.writeAdoptionResult_act _ _ _ _).trans (State.latch_act _ _)
      · next g hv =>
        refine ((State.reloadGroup_act ha fun hn => ?_).trans (State.writeAdoptionResult_act _ _ _ _ _)).trans (State.latch_act _ _)
        rw [validateGroup_valid hv, parseGroup_smoke _ _ hn]

/-! ### Cues (R17) -/

theorem State.cuePlay_act (s : State) (r : List Byte) : Act s (s.cuePlay r).1 := by
  unfold State.cuePlay
  split
  · exact .refl s
  · split
    · exact .refl s
    · split
      · exact .refl s
      · exact s.requestStart_act _

theorem State.cueFunction_act {s : State} (r : List Byte) (ha : s.smokeActs = true) : Act s (s.cueFunction r).1 := by
  unfold State.cueFunction
  split
  · exact .refl s
  · exact State.functionOp_act _ _ ha

theorem refilled_le {capacity fluid amount : Nat} : refilled capacity fluid amount ≤ capacity := by
  unfold refilled
  split <;> omega

/-- The refilled fluid lies within the capacity (R140). -/
theorem State.cueRefill_act {s : State} (r : List Byte) (ha : s.smokeActs = true) : Act s (s.cueRefill r).1 := by
  unfold State.cueRefill
  dsimp only
  split
  · exact .refl s
  · have h1 : Reached s { s with smk := { s.smk with fluid := refilled s.cfg.smoke.capacity s.smk.fluid (halfAt r 6) } } :=
      Reached.smoke fun x => ⟨x.allowance, x.below, x.heats, refilled_le⟩
    refine (h1.trans (State.evalSmoke_reached _)).done (fun _ x => ?_) id
    refine State.evalSmoke_heater ?_ (h1.warm x.warm)
    exact ha

theorem State.cueKind_act {s : State} (r : List Byte) (ha : s.smokeActs = true) : Act s (s.cueKind r).1 := by
  unfold State.cueKind
  split
  · exact s.cuePlay_act r
  · unfold State.cueRelease
    split
    · exact s.releaseTag_act _
    · exact .refl s
  · unfold State.cueStop
    split
    · exact s.cutTag_act _
    · exact .refl s
  · unfold State.cueMaster
    split
    · exact .refl s
    · exact Act.silent rfl
  · exact State.cueFunction_act r ha
  · exact State.reload_act _ ha
  · exact State.cueRefill_act r ha

theorem State.judgeCue_act {s : State} (r : List Byte) (ha : s.smokeActs = true) : Act s (s.judgeCue r).1 := by
  unfold State.judgeCue
  dsimp only
  split
  · exact .refl s
  · split
    · exact .refl s
    · split
      · exact .refl s
      · exact State.cueKind_act r ha

theorem cueAddr_inside (t : Half) : cueAddr t + 3 < memorySize := by
  have : t.toNat % 64 < 64 := Nat.mod_lt _ (by decide)
  unfold cueAddr memorySize
  omega

theorem State.writeBack_act (s : State) (kind : Byte) (reason : CueReason) : Act s (s.writeBack kind reason) := by
  have hc : cellsInside (backCells s.exc.cueTake kind reason) = true := by
    have := cueAddr_inside s.exc.cueTake
    simp only [cellsInside, backCells, List.all_cons, List.all_nil, Bool.and_true, Bool.and_eq_true, decide_eq_true_eq]
    omega
  unfold State.writeBack
  dsimp only
  have h1 := (State.writeMem_act (s := s) hc).trans (State.setCueTake_act _ (s.exc.cueTake + 1))
  split
  · exact h1
  · exact h1.trans (State.latch_act _ _)

/-- In RUNNING and HALTED, where cues are taken, SMK acts on events. -/
theorem State.smokeActs_takesCues {s : State} (h : s.exc.part.takesCues = true) : s.smokeActs = true := by
  cases hp : s.exc.part <;> simp_all [PartState.takesCues, State.smokeActs, State.haltedLike, PartState.driving]

/-- The scan work of the state changes alone. -/
theorem State.setScan_calm (s : State) (w : Option ScanWork) : Calm s { s with exc := { s.exc with scan := w } } where
  mem := id
  safe := id
  pending := rfl
  holder := id
  lfsr := id
  board := id
  order := And.intro
  warm x := ⟨x.allowance, x.below, x.heats, x.fluid⟩
  adoption := id
  heater _ x := ⟨x.allowance, x.below, x.heats, x.lit, x.fluid⟩
  trip := And.intro
  stopping := id
  undriven _ x := x
  halted := id
  dir := rfl

/-- Records taken from the strip keep the promises, and leave no scan with an outcome (R17, R119). -/
theorem State.scanQuiet_none {s : State} (h : s.exc.scan = none) : s.scanQuiet := by
  intro w hw
  rw [h] at hw
  cases hw

theorem State.takeCues_calm (n : Nat) (s : State) :
    Calm s (State.takeCues n s) ∧ (s.exc.scan = none → (State.takeCues n s).scanQuiet) := by
  induction n generalizing s with
  | zero => exact ⟨(Act.refl s).toCalm, State.scanQuiet_none⟩
  | succ n ih =>
    unfold State.takeCues
    split
    · next hp =>
      have h1 := State.judgeCue_act (s.mem.readCue s.exc.cueTake) (State.smokeActs_takesCues hp)
      dsimp only
      split
      · next reason _ =>
        have h2 := h1.trans (State.writeBack_act _ ((s.mem.readCue s.exc.cueTake).getD 1 0) reason)
        obtain ⟨h3, h4⟩ := ih (State.writeBack _ ((s.mem.readCue s.exc.cueTake).getD 1 0) reason)
        exact ⟨h2.toCalm.trans h3, fun h => h4 (h2.scan h)⟩
      · refine ⟨h1.toCalm.trans (State.setScan_calm _ _), fun _ w hw => ?_⟩
        obtain rfl := Option.some.inj hw
        rfl
    · exact ⟨(Act.refl s).toCalm, State.scanQuiet_none⟩

theorem State.scanCues_calm (s : State) : Calm s s.scanCues := by
  unfold State.scanCues
  dsimp only
  split
  · exact ((s.setCueTake_act _).trans (State.latch_act _ _)).toCalm
  · exact (State.takeCues_calm _ s).1

/-- A scan that goes on keeps the promises (R119). -/
theorem State.resumeScan_calm (s : State) : Calm s s.resumeScan := by
  unfold State.resumeScan
  split
  · exact ((s.setScan_calm none).trans (State.writeBack_act _ _ _).toCalm).trans (State.takeCues_calm _ _).1
  · exact (Act.refl s).toCalm

/-! ### The drive slot (R15, R16) -/

theorem State.judgeSlot_act (s : State) (x : Slot) : Act s (s.judgeSlot x).1 := by
  unfold State.judgeSlot
  split
  · exact s.eStop_act
  · split
    · exact .refl s
    · split
      · exact .refl s
      · split
        · exact State.request_act _ _ (fun h => by cases h)
        · exact State.request_act _ _ (fun h => by cases h)

theorem State.takeSlot_act (s : State) : Act s s.takeSlot :=
  (((s.judgeSlot_act _).trans (State.setLastTaken_act _ _)).trans (State.setSlotState_act _ _)).trans (State.latch_act _ _)

theorem State.markPending_act (s : State) : Act s s.markPending := by
  unfold State.markPending
  split
  · exact .refl s
  · exact s.setSlotState_act _

/-- What EXC keeps of a post changes alone. -/
theorem State.notePost_act (s : State) (m e : Byte) : Act s { s with exc := { s.exc with slotMoment := m, slotEmergency := e } } :=
  Act.silent rfl

theorem State.examineSlot_act (s : State) : Act s s.examineSlot := by
  unfold State.examineSlot
  dsimp only
  split
  · have h1 := s.markPending_act.trans (State.notePost_act s.markPending (BitVec.ofNat 8 s.mem.readSlot.moment)
      (BitVec.ofNat 8 s.mem.readSlot.emergency))
    split
    · exact h1.trans (State.takeSlot_act _)
    · exact h1
  · split
    · exact s.setSlotState_act _
    · exact .refl s

theorem State.scanWork_calm (s : State) : Calm s s.scanWork := by
  unfold State.scanWork
  split
  · exact s.examineSlot_act.toCalm.trans (State.scanCues_calm _)
  · exact s.examineSlot_act.toCalm
  · exact s.scanCues_calm
  · exact (Act.refl s).toCalm

theorem State.countMs_act (s : State) : Act s s.countMs := Act.silent rfl

theorem State.advanceMs_act (s : State) : Act s s.advanceMs := (s.setMs_act _).trans (State.countMs_act _)

theorem State.holdScan_act (s : State) (b : Bool) : Act s (s.holdScan b) := Act.silent rfl

theorem State.scanExpiry_calm (s : State) : Calm s s.scanExpiry := by
  unfold State.scanExpiry
  dsimp only
  split
  · exact (s.advanceMs_act.trans (State.holdScan_act _ _)).toCalm
  · exact s.advanceMs_act.toCalm.trans (State.scanWork_calm _)

/-- A command that is carried out keeps what its operation keeps (R119). -/
theorem finish_calm {s u t : State} (h : Calm s u) (ht : finish u = .next t) : Calm s t := by
  unfold finish at ht
  split at ht
  · cases ht
    exact h.trans (u.serveLower_act.toCalm.trans (State.resumeScan_calm _))
  · cases ht
    exact h

end Sys2Proof.Machine
end

section
/-!
PROOF. What the bridge's, the regulation tick's, the sound engine's, the smoke unit's and the light unit's own events keep of the promises.
-/
set_option Elab.async false

namespace Sys2Proof.Machine

/-! ### Voices and starts (R101 to R107) -/

theorem Voice.advance_kept (v : Voice) : v.advance.active = v.active ∧ v.advance.tag = v.tag := ⟨rfl, rfl⟩

theorem State.playVoice_act (v : Fin 8) (s : State) (n : Int) : Act s (State.playVoice v (s, n)).1 := by
  unfold State.playVoice
  dsimp only
  split
  · have h : Act s (s.setVoice v (s.voice v).advance) := Act.setVoice (Voice.advance_kept _).1 (Voice.advance_kept _).2
    dsimp only
    split
    · exact h.trans (State.endVoice_act _ _ _)
    · exact h
  · exact .refl s

theorem State.playVoices_act (l : List (Fin 8)) (s : State) (n : Int) : Act s (State.playVoices l (s, n)).1 := by
  induction l generalizing s n with
  | nil => exact .refl s
  | cons v rest ih => exact (State.playVoice_act v s n).trans (ih _ _)

theorem State.handOutput_act (s : State) : Act s s.handOutput := Act.silent rfl

theorem State.formOutput_act (s : State) : Act s s.formOutput := by
  have h := State.playVoices_act octetIndices s 0
  unfold State.formOutput
  generalize State.playVoices octetIndices (s, 0) = r at h
  exact h.trans (Act.silent rfl)

theorem State.countSqueal_act (s : State) : Act s s.countSqueal := by
  rcases s.countSqueal_cases with ⟨-, e⟩ | ⟨-, -, e⟩ | ⟨-, -, e⟩ <;> rw [e]
  · exact .refl s
  · exact Act.silent rfl
  · exact Act.silent rfl

/-- A POOL request started in place of an active pool voice, no other active voice carrying its tag (R103, R104). -/
theorem State.replaceOn_pool {s : State} {v : Fin 8} (reason : EndReason) (c : Clip) {r : StartReq} (hr : r.cls = .pool)
    (hv : v ∈ poolVoices) (ha : (s.voice v).active = true)
    (hu : r.tag ≠ 0 → ∀ u, u ≠ v → (s.voice u).active = true → (s.voice u).tag ≠ r.tag) (ho : s.orderOk) (ht : s.tagsOk) :
    (s.replaceOn v reason c r).orderOk ∧ (s.replaceOn v reason c r).tagsOk := by
  obtain ⟨ho', ht'⟩ := (s.endVoice_act v reason).order ho ht
  obtain ⟨-, hvs, -⟩ := State.endVoice_ended reason ha
  have hvo (u : Fin 8) : (s.endVoice v reason).voice u = if u = v then {} else s.voice u := by
    unfold State.voice
    rw [hvs, Octet.get_set_if]
  refine State.startOn_pool c hr hv (by rw [hvo, if_pos rfl]; rfl) (fun hz u hua => ?_) ho' ht'
  rw [hvo] at hua ⊢
  split
  · next e => rw [if_pos e] at hua; cases hua
  · next e => rw [if_neg e] at hua; exact hu hz u e hua

theorem victimOf_mem {prio : Fin 8 → Nat} {limit : Nat} {order : List (Fin 8)} {v : Fin 8} (h : victimOf prio limit order = some v) :
    v ∈ order := by
  have key (l : List (Fin 8)) : ∀ best : Option (Fin 8),
      l.foldl (fun best v => if prio v < limit then
        match best with
        | none => some v
        | some b => if prio v < prio b then some v else best
      else best) best = some v → v ∈ l ∨ best = some v := by
    induction l with
    | nil => exact fun _ h => .inr h
    | cons w l ih =>
      intro best h
      rcases ih _ h with h | h
      · exact .inl (List.mem_cons_of_mem _ h)
      · dsimp only at h
        split at h
        · cases best with
          | none => exact .inl (by simp [Option.some.inj h])
          | some b =>
            dsimp only at h
            split at h
            · exact .inl (by simp [Option.some.inj h])
            · exact .inr h
        · exact .inr h
  exact (key order none h).resolve_right (by simp)

theorem notPool : ∀ u : Fin 8, u ∉ poolVoices → u = 0 ∨ u = 1 := by decide

/-- Where no pool voice is to be restarted, no active voice carries the request's tag (R103). -/
theorem State.restartVoice_none {s : State} {r : StartReq} (h : s.restartVoice r = none) (ht : s.tagsOk) (hz : r.tag ≠ 0) (u : Fin 8)
    (hu : (s.voice u).active = true) : (s.voice u).tag ≠ r.tag := by
  intro e
  unfold State.restartVoice State.taggedVoice at h
  rw [if_neg hz, List.find?_eq_none] at h
  obtain ⟨h0, h1, -⟩ := ht
  by_cases hp : u ∈ poolVoices
  · exact h u hp (by simp [hu, e])
  · rcases notPool u hp with rfl | rfl
    · exact hz (e.symm.trans h0)
    · exact hz (e.symm.trans h1)

theorem State.replaceOn_soundOnly (s : State) (v : Fin 8) (reason : EndReason) (c : Clip) (r : StartReq) :
    soundOnly s (s.replaceOn v reason c r) :=
  (s.endVoice_soundOnly v reason).trans (State.startOn_soundOnly _ v c r)

theorem State.replaceOn_scan (s : State) (v : Fin 8) (reason : EndReason) (c : Clip) (r : StartReq) (h : s.exc.scan = none) :
    (s.replaceOn v reason c r).exc.scan = none :=
  (State.startOn_scan _ v c r).trans ((s.endVoice_act v reason).scan h)

theorem State.decidePool_act {s : State} (c : Clip) {r : StartReq} (hr : r.cls = .pool) : Act s (s.decidePool c r).1 := by
  unfold State.decidePool
  cases hre : s.restartVoice r with
  | some v =>
    refine Act.ofSound (s.replaceOn_soundOnly v .cut c r) (fun ho ht => ?_) (s.replaceOn_scan v .cut c r)
    have hz : r.tag ≠ 0 := fun e => by simp [State.restartVoice, e] at hre
    have hf : poolVoices.find? (fun v => (s.voice v).active && (s.voice v).tag == r.tag) = some v := by
      unfold State.restartVoice at hre
      rwa [if_neg hz] at hre
    have hv := List.mem_of_find?_eq_some hf
    have hp : (s.voice v).active = true ∧ (s.voice v).tag = r.tag := by simpa using List.find?_some hf
    refine State.replaceOn_pool .cut c hr hv hp.1 (fun _ u hu hua e => hu ?_) ho ht
    exact ht.2.2 u v hua hp.1 (e.trans hp.2.symm) (e ▸ hz)
  | none =>
    dsimp only
    cases hfr : s.freePoolVoice with
    | some v =>
      have hv := List.mem_of_find?_eq_some hfr
      have ha : (s.voice v).active = false := by simpa using List.find?_some hfr
      exact Act.ofSound (s.startOn_soundOnly v c r)
        (fun ho ht => State.startOn_pool c hr hv ha (State.restartVoice_none hre ht) ho ht) fun h => (s.startOn_scan v c r).trans h
    | none =>
      dsimp only
      cases hvi : victimOf (fun v => (s.voice v).priority) r.priority s.snd.order with
      | none => exact .refl s
      | some v =>
        refine Act.ofSound (s.replaceOn_soundOnly v .stolen c r) (fun ho ht => ?_) (s.replaceOn_scan v .stolen c r)
        obtain ⟨hp, ha⟩ := (ho.2 v).mp (victimOf_mem hvi)
        exact State.replaceOn_pool .stolen c hr hp ha (fun hz u _ hua => State.restartVoice_none hre ht hz u hua) ho ht

theorem State.decideStart_act (s : State) (w : StartWork) (c : Clip) : Act s (s.decideStart w c).1 := by
  unfold State.decideStart
  split
  · exact .refl s
  · split
    · exact .refl s
    · unfold State.decideClass
      cases hc : w.req.cls with
      | chuff => exact (s.endVoice_act 0 .cut).trans (State.startOn_act c (by rw [hc]; decide) (by decide))
      | background => exact (s.endVoice_act 1 .cut).trans (State.startOn_act c (by rw [hc]; decide) (by decide))
      | pool => exact State.decidePool_act c hc

/-! ### The squeal (R130) -/

theorem State.setSqueal_act (s : State) (q : SquealState) : Act s (s.setSqueal q) := Act.silent rfl

theorem State.checkSqueal_act (s : State) : Act s s.checkSqueal := by
  unfold State.checkSqueal
  split
  · unfold State.requestSqueal
    split
    · exact .refl s
    · exact (s.setSqueal_act _).trans (State.requestStart_act _ _)
  · exact (s.releaseTag_act _).trans (State.setSqueal_act _ _)
  · exact s.setSqueal_act _
  · exact .refl s

/-! ### The bridges (R68 to R77) -/

theorem State.onChans_act (s : State) {f : Channel → Channel} (hf : ∀ ch, Channel.Calm ch (f ch)) : Act s (s.onChans f) :=
  (s.onChans_drive hf).act

theorem State.onChan_act (s : State) (m : Motor) {f : Channel → Channel} (hf : ∀ ch, Channel.Calm ch (f ch)) : Act s (s.onChan m f) :=
  (s.onChan_drive m hf).act

/-- One channel replaced by one that keeps what is promised of it. -/
theorem State.putChan_act (s : State) (m : Motor) {ch : Channel} (h : Channel.Calm (s.chan m) ch) : Act s (s.onChan m fun _ => ch) :=
  Drive.act (.ofDuties rfl (fun _ => rfl) (fun n => by
    rw [State.chan_onChan_if]
    split
    · next e => rw [e]; exact h
    · exact .refl _) rfl)

theorem State.closeWindow_act (s : State) : Act s s.closeWindow :=
  (s.onChans_act (f := fun ch => { ch with dir := s.windowFlip.getD ch.dir }) fun _ => ⟨id, id⟩).trans (Act.silent rfl)

theorem State.takeModes_act (s : State) : Act s s.takeModes :=
  (s.onChan_act .a (Channel.holdMode_calm _ _)).trans (State.onChan_act _ .b (Channel.holdMode_calm _ _))

theorem State.periodStart_act (s : State) : Act s s.periodStart := by
  unfold State.periodStart
  have h := s.onChans_act (Channel.newPeriod_calm s.cfg.traction (s.bfu.window.isSome && !s.windowEnds))
  dsimp only
  generalize s.onChans _ = u at h ⊢
  split
  · exact h
  · split
    · exact (h.trans u.closeWindow_act).trans (State.takeModes_act _)
    · exact h.trans (State.takeModes_act _)

theorem State.openWindow_act (s : State) (flip : Option Direction) : Act s (s.openWindow flip) := by
  have open1 (s : State) (m : Motor) :
      Act s (if s.cfg.traction.present m then s.onChan m (Channel.openFloat s.cfg.traction) else s) := by
    split
    · exact s.onChan_act m (Channel.openFloat_calm _)
    · exact .refl s
  exact ((open1 s .a).trans (open1 _ .b)).trans (Act.silent rfl)

theorem State.setDrvflt_act (s : State) (x : Option Level) : Act s { s with bfu := { s.bfu with drvflt := x } } := Act.silent rfl

/-! ### The completion of a tick (R47 to R54, R74, R76, R81) -/

/-- SRG and BFU change but for the traction state, R, the trip reason and the bridge direction; duties that must be 0 stay so. -/
theorem driveOnly.steady {s t : State} (h : driveOnly s t) (safe : s.noShootThrough → t.noShootThrough)
    (ht : t.srg.traction = s.srg.traction) (hr : t.srg.r = s.srg.r) (hb : t.bfu.trip = s.bfu.trip)
    (hd : t.srg.bridgeDir = s.srg.bridgeDir) (undriven : s.quiet → s.undriven → t.undriven) : Act s t := by
  have hexc := h.fields.2.2.2.2.2.2.2.2.2
  have hq : t.quiet = s.quiet := by unfold State.quiet; rw [ht, h.sup, hexc]
  exact {
    toBase := h.base safe
    adoption := by unfold State.adoptionOk; rw [hexc]; exact id
    heater := fun _ => h.heater
    trip := by unfold State.tripOk State.restOk; rw [ht, hr, hb]; exact And.intro
    stopping := by unfold State.stoppingOk; rw [ht, h.sup, hexc]; exact id
    undriven := fun _ x q => undriven (hq ▸ q) (x (hq ▸ q))
    halted := by rw [hexc]; exact id
    dir := hd
    scan := by rw [hexc]; exact id }

theorem State.judgeChannels_act (s : State) : Act s s.judgeChannels := by
  refine Drive.act (.ofDuties rfl (fun _ => rfl) (fun m => ?_) rfl)
  have h (m : Motor) (ch : Channel) :
      Channel.Calm ch (if s.cfg.traction.present m then ch.average.persistStep else ch) := by
    split
    · exact ch.average_calm.trans (Channel.persistStep_calm _)
    · exact .refl ch
  cases m with
  | a => exact h .a _
  | b => exact h .b _

theorem State.judgeStall_act (s : State) : Act s s.judgeStall := by
  have h : Act s s.clearPersist := s.onChans_act fun _ => ⟨id, id⟩
  unfold State.judgeStall
  split
  · exact h.trans (State.tripNow_act _ (by decide))
  · split
    · exact h.trans (State.tripNow_act _ (by decide))
    · exact .refl s

theorem State.completeBridge_act (s : State) : Act s s.completeBridge := by
  have h : Act s ({ s with srg := { s.srg with tick := none } } : State).windowEnding := Act.silent rfl
  exact (h.trans (State.judgeChannels_act _)).trans (State.judgeStall_act _)

theorem State.estimate_drive (s : State) (t : Tick) (emfA emfB : EmfSet) : Drive s (s.estimate t emfA emfB) := by
  refine .ofDuties rfl (fun m => ?_) (fun _ => .refl _) rfl
  cases m with
  | a =>
    show (if s.inTick t.cfg .a then s.srg.motors.a.estimate t.cfg.kc (emfAverage emfA t.dir) else s.srg.motors.a).d = _
    split <;> rfl
  | b =>
    show (if s.inTick t.cfg .b then s.srg.motors.b.estimate t.cfg.kc (emfAverage emfB t.dir) else s.srg.motors.b).d = _
    split <;> rfl

/-- MOVING at R = 0 that becomes STANDING, with its report (R49, R12). -/
theorem State.judgeStanding_act (s : State) (c : Traction) : Act s (s.judgeStanding c).endStopping := by
  unfold State.judgeStanding
  split
  · next h =>
    refine State.toStanding_report (.refl s) fun x _ => ⟨h.2.1, ?_⟩
    unfold State.tripOk at x
    refine Classical.byContradiction fun hb => ?_
    rw [x.mpr hb] at h
    cases h.1
  · exact s.endStopping_act

theorem State.completeSpeed_act (s : State) (t : Tick) (emfA emfB : EmfSet) : Act s (s.completeSpeed t emfA emfB) :=
  (s.estimate_drive t emfA emfB).act.trans (State.judgeStanding_act _ _)

theorem State.slipNormal_act (s : State) (c : Traction) : Act s (s.slipNormal c) := by
  unfold State.slipNormal
  dsimp only
  generalize (if c.slipThresh < speedGap s.srg.motors then s.bfu.slipRun + 1 else 0) = run
  split
  · exact Act.silent rfl
  · exact Act.silent rfl

theorem State.slipSlipping_act (s : State) (c : Traction) : Act s (s.slipSlipping c) := by
  unfold State.slipSlipping
  dsimp only
  generalize (if speedGap s.srg.motors ≤ c.slipThresh / 2 then s.bfu.slipRun + 1 else 0) = run
  split
  · exact s.endSlip_act
  · exact Act.silent rfl

theorem State.judgeSlip_act (s : State) (c : Traction) : Act s (s.judgeSlip c) := by
  unfold State.judgeSlip
  split
  · exact s.endSlip_act
  · split
    · exact .refl s
    · split
      · exact s.slipNormal_act c
      · exact s.slipSlipping_act c

theorem State.regulateMotor_driveOnly (s : State) (c : Traction) (m : Motor) : driveOnly s (s.regulateMotor c m) := by
  unfold State.regulateMotor
  split
  · cases m <;> rfl
  · rfl

/-- A regulated motor's duty is handed safely; the traction state, R, the trip reason and the bridge direction stay. -/
theorem State.regulateMotor_kept (s : State) (c : Traction) (m : Motor) :
    (s.noShootThrough → (s.regulateMotor c m).noShootThrough) ∧ (s.regulateMotor c m).srg.traction = s.srg.traction
    ∧ (s.regulateMotor c m).srg.r = s.srg.r ∧ (s.regulateMotor c m).bfu.trip = s.bfu.trip
    ∧ (s.regulateMotor c m).srg.bridgeDir = s.srg.bridgeDir := by
  unfold State.regulateMotor
  split
  · cases m with
    | a => exact ⟨fun x => ⟨Channel.hand_safe x.1, x.2⟩, rfl, rfl, rfl, rfl⟩
    | b => exact ⟨fun x => ⟨x.1, Channel.hand_safe x.2⟩, rfl, rfl, rfl, rfl⟩
  · exact ⟨id, rfl, rfl, rfl, rfl⟩

theorem State.dutyLimit_dark {s : State} (h : s.sup.state = .dark) (c : Traction) (m : Motor) : s.dutyLimit c m = 0 := by
  have : s.baseLimit c = 0 := by simp [State.baseLimit, supplyLimit, h]
  unfold State.dutyLimit
  split <;> simp [this]

theorem clampNat_zero (q : Int) : clampNat q 0 = 0 := by
  unfold clampNat clampInt
  omega

/-- With the supply DARK the duty of a regulated motor is 0 (R51). -/
theorem State.regulateMotor_dark {s : State} (h : s.sup.state = .dark) (c : Traction) (m : Motor) (hu : s.undriven) :
    (s.regulateMotor c m).undriven := by
  unfold State.regulateMotor
  split
  · have hd : ((s.srg.motors.get m).regulate c s.srg.r (s.dutyLimit c m)).d = 0 := by
      rw [State.dutyLimit_dark h]
      exact clampNat_zero _
    dsimp only
    rw [hd]
    obtain ⟨da, db, ca, cb⟩ := hu
    cases m with
    | a => exact ⟨hd, db, Channel.hand_zero_still _ _, cb⟩
    | b => exact ⟨da, hd, ca, Channel.hand_zero_still _ _⟩
  · exact hu

/-- A completion regulates while the part drives (R50). -/
theorem State.regulate_act {s : State} (c : Traction) (hp : s.exc.part.driving = true) : Act s (s.regulate c) := by
  unfold State.regulate
  split
  · next hr =>
    have o1 := s.regulateMotor_driveOnly c .a
    obtain ⟨s1, t1, r1, b1, d1⟩ := s.regulateMotor_kept c .a
    obtain ⟨s2, t2, r2, b2, d2⟩ := (s.regulateMotor c .a).regulateMotor_kept c .b
    refine (o1.trans (State.regulateMotor_driveOnly _ c .b)).steady (fun x => s2 (s1 x)) (t2.trans t1) (r2.trans r1) (b2.trans b1)
      (d2.trans d1) fun q hu => ?_
    have hd : s.sup.state = .dark := by
      unfold State.quiet at q
      unfold State.regulating at hr
      rcases q with q | q | q | q | q
      · simp [q] at hr
      · simp [q] at hr
      · simp [q] at hr
      · exact q
      · simp [hp] at q
    exact State.regulateMotor_dark (o1.sup ▸ hd) c .b (State.regulateMotor_dark hd c .a hu)
  · exact s.zeroDuty_act

theorem State.judgeSlip_driveOnly (s : State) (c : Traction) : driveOnly s (s.judgeSlip c) := by
  unfold State.judgeSlip
  split
  · rfl
  · split
    · rfl
    · split
      · unfold State.slipNormal
        dsimp only
        generalize (if c.slipThresh < speedGap s.srg.motors then s.bfu.slipRun + 1 else 0) = run
        split <;> rfl
      · unfold State.slipSlipping
        dsimp only
        generalize (if speedGap s.srg.motors ≤ c.slipThresh / 2 then s.bfu.slipRun + 1 else 0) = run
        split <;> rfl

theorem State.judgeLabour_act (s : State) (c : Traction) : Act s (s.judgeLabour c) := Act.silent rfl

theorem State.startTurn_act (s : State) (t : Tick) : Act s (s.startTurn t) := by
  unfold State.startTurn
  split
  · exact Act.silent rfl
  · exact .refl s

theorem State.completeDrive_act {s : State} (t : Tick) (hp : s.exc.part.driving = true) : Act s (s.completeDrive t) :=
  (((((s.judgeSlip_act t.cfg).trans (State.regulate_act t.cfg (by rw [(s.judgeSlip_driveOnly _).part]; exact hp))).trans
    (State.judgeLabour_act _ _)).trans (State.startTurn_act _ t)).trans (State.judgeLost_act _)).trans (State.camAdvance_act _)

theorem State.complete_act (s : State) (t : Tick) (emfA emfB : EmfSet) : Act s (s.complete t emfA emfB) := by
  unfold State.complete
  have h1 := s.completeBridge_act
  dsimp only
  generalize s.completeBridge = u at h1 ⊢
  split
  · exact h1
  · have h2 := h1.trans (u.completeSpeed_act t emfA emfB)
    generalize u.completeSpeed t emfA emfB = v at h2 ⊢
    split
    · exact h2
    · next hp => exact h2.trans (State.completeDrive_act t (by simpa using hp))

/-! ### The smoke unit and the lights (R134 to R139, R150) -/

theorem State.judgeHot_act (s : State) : Act s s.judgeHot := by
  unfold State.judgeHot
  split
  · split
    · exact Act.silent rfl
    · exact .refl s
  · split
    · exact Act.silent rfl
    · exact .refl s

theorem State.convertTemp_act (s : State) (c : Nat) : Act s (s.convertTemp c) := by
  unfold State.convertTemp
  split
  · exact .refl s
  · split
    · exact Act.silent rfl
    · exact (State.judgeHot_act _).quietly

theorem State.convertTemp_smokeActs (s : State) (c : Nat) : (s.convertTemp c).smokeActs = s.smokeActs := by
  unfold State.convertTemp State.judgeHot
  split
  · rfl
  · split
    · rfl
    · dsimp only
      split
      · split <;> rfl
      · split <;> rfl

/-- The last unit of fluid used makes the state DRY at once (R139). -/
theorem State.useFluid_act {s : State} (ha : s.smokeActs = true) : Act s s.useFluid := by
  unfold State.useFluid
  split
  · have h1 : Reached s { s with smk := { s.smk with fluid := s.smk.fluid - 1 } } :=
      Reached.smoke fun x => ⟨x.allowance, x.below, x.heats, Nat.le_trans (Nat.sub_le _ _) x.fluid⟩
    dsimp only
    split
    · refine ((h1.trans (State.evalSmoke_reached _)).done (fun _ x => ?_) id).trans (State.latch_act _ _)
      refine State.evalSmoke_heater ?_ (h1.warm x.warm)
      exact ha
    · next hf =>
      refine h1.done (fun _ x => ?_) id
      exact ⟨x.allowance, x.below, x.heats, fun hh => ⟨(x.lit hh).1, hf, (x.lit hh).2.2⟩, Nat.le_trans (Nat.sub_le _ _) x.fluid⟩
  · exact .refl s

theorem State.formHeater_act (s : State) : Act s s.formHeater := by
  have key : s.formHeater.smk.heater ≤ s.smk.hlim ∧ (s.formHeater.smk.heater ≠ 0 → s.smk.state.heats = true) := by
    unfold State.formHeater
    cases s.smk.state <;> simp [SmokeState.heats, Nat.min_le_right]
  exact (Reached.smoke (s := s) (k := s.formHeater.smk) fun x => ⟨x.allowance, key.1, key.2, x.fluid⟩).done
    (fun _ x => ⟨x.allowance, key.1, key.2, x.lit, x.fluid⟩) id

/-- The flicker generator never comes to 0 (R150). -/
theorem lfsrStep_ne {g : BitVec 16} (h : g ≠ 0) : lfsrStep g ≠ 0 := by
  intro e
  unfold lfsrStep at e
  dsimp only at e
  obtain ⟨hs, -⟩ := BitVec.or_eq_zero_iff.mp e
  have hn : g.toNat < 2 := by
    have := congrArg BitVec.toNat hs
    simp [BitVec.toNat_ushiftRight, Nat.shiftRight_eq_div_pow] at this
    omega
  have h1 : g = 1 := by
    apply BitVec.eq_of_toNat_eq
    have : g.toNat ≠ 0 := fun h0 => h (BitVec.eq_of_toNat_eq (by simpa using h0))
    show g.toNat = 1
    omega
  subst h1
  revert e
  decide

theorem State.effectExpiry_act (s : State) : Act s s.effectExpiry where
  mem := id
  safe := id
  pending := rfl
  holder := id
  lfsr := lfsrStep_ne
  board := id
  order := And.intro
  warm x := ⟨x.allowance, x.below, x.heats, x.fluid⟩
  adoption := id
  heater _ x := ⟨x.allowance, x.below, x.heats, x.lit, x.fluid⟩
  trip := And.intro
  stopping := id
  undriven _ x := x
  halted := id
  dir := rfl
  scan := id

/-! ### The radio link and the board timer -/

theorem Rrx.setBuffer_holder (r : Rrx) (b : BufferId) (x : Option (List Byte)) : (r.setBuffer b x).holder = r.holder := by
  cases b <;> rfl

/-- The receiver changes, its holder apart. -/
theorem State.setRrx_act (s : State) {x : Rrx} (h : x.holder = s.rrx.holder) : Act s { s with rrx := x } :=
  Act.silent (by simp only [State.view, h])

theorem State.arriveStored_act (s : State) (b : BufferId) (bits : Nat) (bytes : List Byte) : Act s (s.arriveStored b bits bytes) := by
  unfold State.arriveStored
  split
  · exact s.freeBuffer_act b
  · next hp =>
    split
    · exact (State.freeBuffer_act _ b).quietly
    · refine (s.setRrx_act (Rrx.setBuffer_holder _ _ _)).trans (State.checkedFrame_act _ b ?_)
      show s.smokeActs = true
      cases h : s.exc.part <;> simp_all [PartState.hearsFrames, State.smokeActs, State.haltedLike, PartState.driving]

theorem State.arrive_act (s : State) (f : FrameInFlight) (bits : Nat) (bytes : List Byte) : Act s (s.arrive f bits bytes) := by
  unfold State.arrive
  split
  · unfold State.arriveOverrun
    split
    · exact Act.silent rfl
    · exact .refl s
  · exact s.arriveStored_act _ _ _

theorem Rrx.beginFrame_holder (r : Rrx) (time : Nat) : (r.beginFrame time).holder = r.holder := by
  unfold Rrx.beginFrame
  split
  · rfl
  · split
    · rfl
    · exact Rrx.setBuffer_holder _ _ _

end Sys2Proof.Machine
end

section
/-!
PROOF. The commands that leave a part state or turn the bridge: adoption (R7 to R10), the resets (R22, R23) and the start of a regulation
tick (R44 to R46, R55). Each keeps the promises of Safety.lean.
-/
set_option Elab.async false

namespace Sys2Proof.Machine

/-! ### The resets (O3, R22, R23) -/

/-- Settles O3, on the values of State.reset. -/
theorem resetIsSafe : Obligations.ResetIsSafe := by
  refine ⟨⟨rfl, fun q h => by cases h⟩, ⟨rfl, rfl⟩, ?_, ?_, fun _ => rfl, State.scanQuiet_none rfl, ⟨rfl, rfl, rfl, rfl⟩, ?_, ?_, ?_, ?_,
    ?_, ?_, ?_⟩
  · exact iff_of_false (by decide) (by decide)
  · exact iff_of_false (by decide) (by decide)
  · intro h
    cases h
  · exact ⟨List.nodup_nil, by decide⟩
  · exact ⟨rfl, rfl, by decide⟩
  · exact ⟨rfl, Nat.le_refl _, fun h => absurd rfl h, fun h => (by cases h), Nat.zero_le _⟩
  · unfold State.lfsrOk
    decide
  · exact iff_of_false (by decide) (by decide)
  · intro h
    cases h

/-- A state whose blocks stand at their reset values, with some last command, port outputs and memory, keeps every promise. -/
theorem Kept.ofReset {s : State} {m : Memory} (hm : s.memOk → m.wf = true) (c : BitVec 3) (r : CmdResult) (n : BitVec 15)
    (out : List Byte) (z : Bool) (f : Nat) :
    Kept s {
      exc := { clearing := true, lastCmd := c, lastResult := r, nen := n }, port := { out := out, hiZ := z }, mem := m,
      freeCount := f, pending := s.pending } := by
  obtain ⟨-, safe, adoption, trip, rest, -, undriven, holder, order, tags, heater, lfsr, board, stopping⟩ := resetIsSafe
  exact {
    mem := fun x => ⟨hm x, fun _ h => by cases h⟩
    safe := fun _ => safe
    pending := rfl
    holder := fun _ => holder
    lfsr := fun _ => lfsr
    board := fun _ => board
    order := fun _ _ => ⟨order, tags⟩
    warm := fun _ => ⟨heater.allowance, heater.below, heater.heats, heater.fluid⟩
    adoption := fun _ => adoption
    heater := fun _ _ => ⟨heater.allowance, heater.below, heater.heats, heater.lit, heater.fluid⟩
    trip := fun _ _ => ⟨trip, rest⟩
    stopping := fun _ => stopping
    undriven := fun _ _ _ => undriven }

theorem State.softReset_kept (s : State) : Kept s s.softReset :=
  Kept.ofReset (fun x => Memory.wf_softCleared x.1) _ _ _ _ _ _

/-! ### Adoption (R7 to R10) -/

/-- EXC's record of the adoption in progress changes alone. -/
theorem State.setAdoption_base (s : State) (a : Option Adoption) : Base s { s with exc := { s.exc with adoption := a } } :=
  ⟨id, id, rfl, id, id, id, And.intro, fun x => ⟨x.allowance, x.below, x.heats, x.fluid⟩⟩

/-- A smoke state that heats belongs to a part that drives (R136). -/
theorem State.HeaterOk.cold {s : State} (h : s.HeaterOk) (hp : s.exc.part.driving = false) : s.smk.state.heats = false := by
  refine Classical.byContradiction fun hh => ?_
  rw [(h.lit (by simpa using hh)).2.2] at hp
  cases hp

theorem State.WarmOk.cold {s : State} (h : s.WarmOk) (hc : s.smk.state.heats = false) : s.HeaterOk :=
  ⟨h.allowance, h.below, h.heats, fun hh => absurd (hc.symm.trans hh) (by decide), h.fluid⟩

/-- START in a part that does not drive (R7). -/
theorem State.beginAdoption_kept {s : State} (b : Bool) (hp : s.exc.part.driving = false) : Kept s (s.beginAdoption b) := by
  have hbase : Base s (s.beginAdoption b) :=
    ((s.setPart_base .adopting).trans (State.writeAdoptionResult_act _ _ _ _ _).toBase).trans (State.setAdoption_base _ _)
  exact {
    toBase := hbase
    adoption := fun _ => iff_of_true rfl rfl
    heater := fun _ x => (hbase.warm x.warm).cold (x.cold hp)
    trip := And.intro
    stopping := fun _ h => by cases h
    undriven := fun _ x _ => x (.inr (.inr (.inr (.inr hp)))) }

theorem State.recordCommand_act (s : State) (c : BitVec 3) (r : CmdResult) : Act s (s.recordCommand c r) := Act.silent rfl

theorem State.leaveIdle_act (s : State) : Act s s.leaveIdle := Act.silent rfl

/-- An abandoned board write leaves the generation even (R21). -/
theorem Exc.dropBoard_base {s : State} : Base s { s with exc := s.exc.dropBoard } where
  mem := id
  safe := id
  pending := rfl
  holder := id
  lfsr := id
  board x := by
    unfold State.boardOk at *
    refine iff_of_false (by simp [Exc.dropBoard]) ?_
    show ¬ (if s.exc.board.isSome then s.exc.boardGen + 1 else s.exc.boardGen).toNat % 2 = 1
    split
    · next h =>
      rw [BitVec.toNat_add, show (1 : Word).toNat = 1 from rfl]
      have := x.mp h
      omega
    · next h => exact fun hg => h (x.mpr hg)
  order := And.intro
  warm x := ⟨x.allowance, x.below, x.heats, x.fluid⟩

theorem State.toIdle_base (s : State) : Base s s.toIdle := by
  have h : Act (s.setPart .idle) { s.setPart .idle with
      rrx := (s.setPart .idle).rrx.linkOff, snd := { (s.setPart .idle).snd with modOn := false, modIn := 0, modNow := 0, out := 0 } } :=
    Act.silent rfl
  exact ((s.setPart_base .idle).trans h.toBase).trans Exc.dropBoard_base

/-- Adoption refused (R9). -/
theorem State.adoptRefused_kept {s : State} (ha : s.exc.adoption.isSome = true) (a : Adoption) (i : Nat) (r : GroupReason) :
    Kept s (s.adoptRefused a i r) := by
  obtain ⟨u, hu⟩ : ∃ u, (if a.fromHalted then ({ s with exc := { s.exc with adoption := none } } : State).setPart .halted
      else ({ s with exc := { s.exc with adoption := none } } : State).toIdle) = u := ⟨_, rfl⟩
  have hbase : Base s u := by
    rw [← hu]
    split
    · exact (s.setAdoption_base none).trans (State.setPart_base _ _)
    · exact (s.setAdoption_base none).trans (State.toIdle_base _)
  have hsame : u.srg = s.srg ∧ u.bfu = s.bfu ∧ u.smk = s.smk ∧ u.exc.adoption = none ∧ (u.exc.part = .halted ∨ u.exc.part = .idle) := by
    rw [← hu]
    split
    · exact ⟨rfl, rfl, rfl, rfl, .inl rfl⟩
    · exact ⟨rfl, rfl, rfl, rfl, .inr rfl⟩
  have hkept : Kept s u := by
    obtain ⟨hsrg, hbfu, hsmk, hadop, hpart⟩ := hsame
    have rests (x : s.adoptionOk) : s.exc.part.driving = false := by
      rw [x.mp ha]
      rfl
    exact {
      toBase := hbase
      adoption := fun _ => by
        unfold State.adoptionOk
        rw [hadop]
        rcases hpart with e | e <;> simp [e]
      heater := fun x y => (hbase.warm y.warm).cold (by rw [hsmk]; exact y.cold (rests x))
      trip := by unfold State.tripOk State.restOk; rw [hsrg, hbfu]; exact And.intro
      stopping := fun _ h => by rcases hpart with e | e <;> simp [e] at h
      undriven := fun x y _ => by
        unfold State.undriven
        rw [hsrg, hbfu]
        exact y (.inr (.inr (.inr (.inr (rests x))))) }
  have hw : Act u ((u.writeAdoptionResult 2 a.group i r.code).latch .configResult) :=
    (u.writeAdoptionResult_act _ _ _ _).trans (State.latch_act _ _)
  rw [← hu] at hw hkept
  exact hkept.trans hw.toKept

/-- The blocks' initial values at an acceptance (R10). -/
theorem State.adoptValues_base (s : State) (g : Groups) : Base s (s.adoptValues g) := by
  obtain ⟨-, -, -, -, -, -, -, -, order, tags, -⟩ := resetIsSafe
  exact {
    mem := id
    safe := fun _ => ⟨rfl, rfl⟩
    pending := rfl
    holder := fun _ h => by cases h
    lfsr := fun _ => by
      show (0xACE1 : BitVec 16) ≠ 0
      decide
    board := id
    order := fun _ _ => ⟨order, tags⟩
    warm := fun x => ⟨x.allowance, Nat.zero_le _, fun h => absurd rfl h, Nat.le_refl _⟩ }

/-- Adoption accepted (R10). -/
theorem State.adoptAccepted_kept (s : State) (g : Groups) : Kept s (s.adoptAccepted g) := by
  obtain ⟨u, hu⟩ : ∃ u, (s.adoptValues g).adoptExchange.recomputeCap.recomputeLampCap = u := ⟨_, rfl⟩
  have hbase : Base s u := by
    rw [← hu]
    have h1 : Base (s.adoptValues g) (s.adoptValues g).adoptExchange :=
      ((State.setPart_base _ _).trans (State.setMs_act _ _).toBase).trans
        ((State.writeAdoptionResult_act _ _ _ _ _).trans (State.latch_act _ _)).toBase
    exact ((s.adoptValues_base g).trans h1).trans ((State.recomputeCap_act _).trans (State.recomputeLampCap_act _)).toBase
  have hsrg : u.srg = { regTimer := true } := by rw [← hu]; rfl
  have hbfu : u.bfu = { chans := PerMotor.both { pos := some 0 }, drvflt := s.bfu.drvflt } := by rw [← hu]; rfl
  have hpart : u.exc.part = .running := by rw [← hu]; rfl
  have hadop : u.exc.adoption = none := by rw [← hu]; rfl
  have hacts : u.smokeActs = true := by simp [State.smokeActs, hpart, PartState.driving]
  have hkept : Kept s u.evalSmoke := {
    toBase := hbase.trans u.evalSmoke_reached.toBase
    adoption := fun _ => iff_of_false (by show ¬ u.exc.adoption.isSome = true; simp [hadop]) (by show ¬ u.exc.part = .adopting; simp [hpart])
    heater := fun _ x => State.evalSmoke_heater hacts (hbase.warm x.warm)
    trip := fun _ _ => by
      refine ⟨iff_of_false ?_ ?_, fun _ => ?_⟩
      · show ¬ u.srg.traction = .tripped
        rw [hsrg]
        decide
      · rw [u.evalSmoke_bfu, hbfu]
        exact Classical.not_not.mpr rfl
      · show u.srg.r = 0
        rw [hsrg]
    stopping := fun _ h => by
      have h' : u.exc.part = .stopping := h
      rw [hpart] at h'
      cases h'
    undriven := fun _ _ _ => by
      show u.srg.motors.a.d = 0 ∧ u.srg.motors.b.d = 0 ∧ u.bfu.chans.a.still = true ∧ u.bfu.chans.b.still = true
      rw [hsrg, hbfu]
      exact ⟨rfl, rfl, rfl, rfl⟩ }
  unfold State.adoptAccepted
  dsimp only
  rw [hu]
  have hb (v : State) : Act v v.adoptBackground := by
    unfold State.adoptBackground
    split
    · exact v.requestBackground_act
    · exact .refl v
  exact hkept.trans (((State.newPower_act _).trans (hb _)).trans (State.checkDriver_act _)).toKept

/-! ### The start of a regulation tick (R45, R46, R55, R58) -/

/-- A flip changes the bridge direction; the duties and the channels stay (R55). -/
theorem State.flipBridge_kept (s : State) : Kept s s.flipBridge := by
  obtain ⟨u, hu⟩ : ∃ u, ({ s.flipBridge with srg := { s.flipBridge.srg with bridgeDir := s.srg.bridgeDir } } : State) = u := ⟨_, rfl⟩
  have h : Act s u := by
    rw [← hu]
    exact Drive.act (.ofDuties rfl (fun m => by cases m <;> rfl) (fun _ => .refl _) rfl)
  have h' : Kept u s.flipBridge := by
    rw [← hu]
    exact {
      mem := id, safe := id, pending := rfl, holder := id, lfsr := id, board := id, order := And.intro,
      warm := fun x => ⟨x.allowance, x.below, x.heats, x.fluid⟩, adoption := id
      heater := fun _ x => ⟨x.allowance, x.below, x.heats, x.lit, x.fluid⟩
      trip := And.intro, stopping := id, undriven := fun _ x => x }
  exact h.toKept.trans h'

/-- STANDING becomes MOVING, where the supply is not DARK (R45). -/
theorem State.startMoving_act {s : State} (ht : s.srg.traction = .standing) (hd : s.sup.state ≠ .dark) : Act s (s.toTraction .moving) := by
  have h : Drive s (s.toTraction .moving) := .silent rfl
  refine (h.reached (fun x _ => ⟨?_, fun q => ?_⟩) fun _ => .inl (.inl ht)).done (fun _ => h.only.heater) fun _ _ => ⟨rfl, hd⟩
  · unfold State.tripOk at *
    rw [ht] at x
    exact iff_of_false (by simp [State.toTraction]) (fun hb => absurd (x.mpr hb) (by decide))
  · simp [State.toTraction] at q

/-- MOVING and TURNING become each other (R45). -/
theorem State.turn_act {s : State} {x : TractionState} (hs : s.srg.traction = .moving ∨ s.srg.traction = .turning)
    (hx : x = .moving ∨ x = .turning) : Act s (s.toTraction x) := by
  have h : Drive s (s.toTraction x) := .silent rfl
  obtain ⟨hstand, hheld, htrip, hends⟩ : x ≠ .standing ∧ x ≠ .eHeld ∧ x ≠ .tripped ∧ x.ends = false := by
    rcases hx with rfl | rfl <;> decide
  refine (h.reached (fun y _ => ⟨?_, fun q => ?_⟩) fun q => .inl ?_).done (fun _ => h.only.heater) fun y p => ⟨hends, (y p).2⟩
  · unfold State.tripOk at *
    refine iff_of_false htrip fun hb => ?_
    have ht := y.mpr hb
    rcases hs with e | e <;> simp [e] at ht
  · exact absurd q (by simp [State.toTraction, hstand, hheld, htrip])
  · unfold State.quiet at *
    rcases q with q | q | q | q
    · exact absurd q hstand
    · exact absurd q htrip
    · exact absurd q hheld
    · exact .inr (.inr (.inr q))

/-- What the traction state settled at a tick's start comes from: the state before, or its flip at R = 0 (R55). -/
def SettledFrom (s u : State) : Prop := u = s ∨ (u = s.flipBridge ∧ (s.restOk → s.srg.r = 0))

/-- The traction state settled at a tick's start, with its report (R45, R12). -/
theorem State.settle_act (s : State) : ∃ u, SettledFrom s u ∧ Act u s.settle.endStopping := by
  have moving (u : State) (hx : u.srg.traction = .standing) :
      Act u (if 0 < u.drq.s ∧ u.sup.state ≠ .dark then u.toTraction .moving else u) := by
    split
    · next h => exact State.startMoving_act hx h.2
    · exact .refl u
  have done {u v : State} (h : SettledFrom s u) (h' : Act u v) : ∃ u, SettledFrom s u ∧ Act u v.endStopping :=
    ⟨u, h, h'.trans v.endStopping_act⟩
  unfold State.settle
  split
  · next ht =>
    unfold State.settleStanding
    dsimp only
    split
    · exact done (.inr ⟨rfl, fun x => x (.inl ht)⟩) (moving s.flipBridge ht)
    · exact done (.inl rfl) (moving s ht)
  · next ht =>
    unfold State.settleMoving
    split
    · split
      · exact done (.inl rfl) (State.turn_act (.inl ht) (.inr rfl))
      · exact done (.inr ⟨rfl, fun _ => by omega⟩) (.refl _)
    · exact done (.inl rfl) (.refl s)
  · next ht =>
    unfold State.settleTurning
    split
    · refine done (.inl rfl) (s.stopTurn_act.trans (State.turn_act (.inr ?_) (.inl rfl)))
      exact ht
    · split
      · next hd =>
        have hr : s.srg.r = 0 := by
          simp only [State.turnDone, Bool.and_eq_true, beq_iff_eq] at hd
          exact hd.1
        have hf : SettledFrom s s.flipBridge := .inr ⟨rfl, fun _ => hr⟩
        split
        · refine done hf (State.turn_act (.inr ?_) (.inl rfl))
          exact ht
        · refine ⟨_, hf, State.toStanding_report (.refl _) fun x _ => ⟨hr, ?_⟩⟩
          refine Classical.byContradiction fun hb => ?_
          have : s.flipBridge.srg.traction = .tripped := x.mpr hb
          rw [show s.flipBridge.srg.traction = s.srg.traction from rfl, ht] at this
          cases this
      · exact done (.inl rfl) (.refl s)
  · exact done (.inl rfl) (.refl s)

/-- R ramps in MOVING, TURNING and E_BRAKE alone (R46). -/
theorem State.rampedR_act (s : State) : Act s { s with srg := { s.srg with r := s.rampedR } } := by
  have h : Drive s { s with srg := { s.srg with r := s.rampedR } } := .silent rfl
  refine (h.reached (fun x y => ⟨x, fun q => ?_⟩) .inl).done (fun _ => h.only.heater) id
  show s.rampedR = 0
  have e : s.rampedR = s.srg.r := by
    unfold State.rampedR
    rcases q with q | q | q <;>
      (have q' := (show s.srg.traction = _ from q); simp [q'])
  rw [e]
  exact y q

/-- E_BRAKE at R = 0 becomes E_HELD (R58). -/
theorem State.toHeld_report {s : State} (ht : s.srg.traction = .eBrake) (hr : s.srg.r = 0) : Act s s.toHeld.endStopping := by
  obtain ⟨u, hu⟩ : ∃ u, ({ s.zeroDuty with srg := { s.zeroDuty.srg with traction := .eHeld, brakeOrder := true } } : State).endSlip = u :=
    ⟨_, rfl⟩
  have h : Drive s.zeroDuty u := by rw [← hu]; exact .silent rfl
  have hsrg : u.srg.traction = .eHeld ∧ u.srg.r = 0 := by rw [← hu]; exact ⟨rfl, hr⟩
  have hb : u.bfu.trip = s.bfu.trip := by rw [← hu]; rfl
  have e : s.toHeld = u.followModes := by rw [← hu]; rfl
  rw [e]
  refine ((s.zeroDuty_drive.trans h).trans u.followModes_drive).report (fun x _ => ?_) fun _ =>
    .inr ((h.trans u.followModes_drive).undriven s.zeroDuty_undriven)
  unfold State.tripOk State.restOk at *
  rw [u.followModes_srg, hsrg.1, hsrg.2, show u.followModes.bfu.trip = u.bfu.trip by rw [State.followModes_kept], hb]
  rw [ht] at x
  refine ⟨iff_of_false (by decide) fun q => ?_, fun _ => rfl⟩
  exact absurd (x.mpr q) (by decide)

theorem State.ramp_act (s : State) : Act s s.ramp.endStopping := by
  refine s.rampedR_act.trans ?_
  unfold State.ramp
  dsimp only
  split
  · next hr =>
    split
    · next ht => exact State.toHeld_report ht hr
    · exact (State.stopSlip_act _).trans ((State.followModes_act _).trans (State.endStopping_act _))
    · exact (State.followModes_act _).trans (State.endStopping_act _)
  · exact (State.followModes_act _).trans (State.endStopping_act _)

theorem State.openTick_act (s : State) (flip : Option Direction) (z : Bool) : Act s (s.openTick flip z) := by
  have h : Act s { s with srg := { s.srg with tick := some ⟨s.cfg.traction, s.srg.bridgeDir, z⟩ } } := Act.silent rfl
  exact h.trans (State.openWindow_act _ flip)

theorem State.beginTick_act (s : State) : ∃ u, SettledFrom s u ∧ Act u s.beginTick := by
  obtain ⟨u, hu, h1⟩ := s.settle_act
  refine ⟨u, hu, ?_⟩
  unfold State.beginTick
  dsimp only
  split
  · exact h1
  · have h2 := h1.trans (State.ramp_act _)
    split
    · exact h2
    · exact h2.trans (State.openTick_act _ _ _)

theorem SettledFrom.kept {s u : State} (h : SettledFrom s u) : Kept s u := by
  rcases h with rfl | ⟨rfl, -⟩
  · exact (Act.refl u).toKept
  · exact s.flipBridge_kept

end Sys2Proof.Machine
end

section
/-!
PROOF. The promises of Safety.lean over every command and every step, and the two whole-machine rules (O4 to O12): each command keeps what
its operations keep.
-/
set_option Elab.async false

namespace Sys2Proof.Machine

/-! ### Commands -/

/-- The commands that end a part state of their own accord, and the one that may turn the bridge. -/
def leads : Instr → Bool
  | .start _ => true
  | .reset _ => true
  | .powerOnReset => true
  | .adoptionGroupRead => true
  | .regulationTimer => true
  | _ => false

theorem next_act {s u t : State} (h : Act s u) (ht : (Host.Outcome.next u : Host.Outcome State Fault Refusal) = .next t) : Calm s t := by
  cases ht
  exact h.toCalm

/-- A command that changes nothing a promise speaks of. -/
theorem next_silent {s u t : State} (ht : (Host.Outcome.next u : Host.Outcome State Fault Refusal) = .next t)
    (hv : u.view = s.view := by rfl) (hb : u.bfu.chans = s.bfu.chans := by rfl) : Calm s t :=
  next_act (.silent hv hb) ht

/-- A command's two branches, each with what it keeps. -/
theorem ite_calm {p : Prop} [Decidable p] {s t : State} {x y : Host.Outcome State Fault Refusal} (hx : p → x = .next t → Calm s t)
    (hy : ¬ p → y = .next t → Calm s t) (h : (if p then x else y) = .next t) : Calm s t := by
  split at h
  · exact hx ‹_› h
  · exact hy ‹_› h

theorem execHaltSoft_calm (u : BitVec 13) {s t : State} (ht : execHaltSoft u s = .next t) : Calm s t := by
  refine ite_calm (fun _ => next_act (.refl s)) (fun _ => ite_calm (fun hp => finish_calm ?_) fun _ => next_act (s.recordCommand_act _ _)) ht
  have hbase : Base s (((s.recordCommand haltSoftCode .accepted).setPart .stopping).dropChuff.stopOrder) := by
    have h : Act ((s.recordCommand haltSoftCode .accepted).setPart .stopping)
        (((s.recordCommand haltSoftCode .accepted).setPart .stopping).dropChuff.stopOrder) := Act.silent rfl
    exact (s.recordCommand_act _ _).toBase.trans ((State.setPart_base _ _).trans h.toBase)
  have hr : Reached s (((s.recordCommand haltSoftCode .accepted).setPart .stopping).dropChuff.stopOrder) := {
    toBase := hbase
    adoption := fun x => by
      have := mt x.mp (by rw [hp]; decide)
      exact iff_of_false this (by show ¬ PartState.stopping = PartState.adopting; decide)
    trip := And.intro
    undriven := fun _ x q => x (by
      unfold State.quiet at *
      rcases q with q | q | q | q | q
      · exact .inl q
      · exact .inr (.inl q)
      · exact .inr (.inr (.inl q))
      · exact .inr (.inr (.inr (.inl q)))
      · cases q)
    halted := fun h => by rw [hp] at h; cases h
    dir := rfl
    scan := id }
  exact (hr.report fun _ x => ⟨x.allowance, x.below, x.heats, fun hh => ⟨(x.lit hh).1, (x.lit hh).2.1, rfl⟩, x.fluid⟩).toCalm

theorem execHaltHard_calm (u : BitVec 13) {s t : State} (ht : execHaltHard u s = .next t) : Calm s t := by
  refine ite_calm (fun _ => next_act (.refl s)) (fun _ => ite_calm (fun hp => finish_calm ?_) fun _ => next_act (s.recordCommand_act _ _)) ht
  refine ((s.recordCommand_act _ _).trans (State.enterHalted_act fun ha => ?_)).toCalm
  rw [show s.exc.part = .adopting from ha] at hp
  cases hp

theorem execReadMemory_calm (l : Lanes) (a : BitVec 24) (n : Nat) (late : List Nat) {s t : State}
    (ht : execReadMemory l a n late s = .next t) : Calm s t := by
  have h : Act s (if n = 0 then s else s.serveSound.portGrant) := by
    split
    · exact .refl s
    · exact s.serveSound_act.trans (State.portGrant_act _)
  unfold execReadMemory at ht
  generalize (if n = 0 then s else s.serveSound.portGrant) = u at h ht
  exact h.toCalm.trans (next_silent ht)

theorem execWriteMemory_calm (l : Lanes) (a : BitVec 24) (data : List Byte) (tail : Nat) (delays : List Nat) {s t : State}
    (ht : execWriteMemory l a data tail delays s = .next t) : Calm s t := by
  refine ite_calm (fun _ => next_act (.refl s)) (fun _ => next_act ?_) ht
  have h : Act s (if s.writeNeedsGrant data then s.serveSound else s) := by
    split
    · exact s.serveSound_act
    · exact .refl s
  exact h.trans (State.portWrite_act _ _ _ _)

theorem execReadRegister_calm (l : Lanes) (reg : Byte) {s t : State} (ht : execReadRegister l reg s = .next t) : Calm s t := by
  refine next_act ?_ ht
  split
  · exact Act.silent rfl
  · exact Act.silent rfl

theorem execScanTimer_calm {s t : State} (ht : execScanTimer s = .next t) : Calm s t :=
  ite_calm (fun _ => next_act (.refl s)) (fun _ => finish_calm (s.serveLower_act.toCalm.trans (State.scanExpiry_calm _))) ht

theorem execScanWorkDeferred_calm {s t : State} (ht : execScanWorkDeferred s = .next t) : Calm s t :=
  ite_calm (fun _ => finish_calm ((s.serveLower_act.trans (State.holdScan_act _ _)).toCalm.trans (State.scanWork_calm _)))
    (fun _ => next_act (.refl s)) ht

theorem State.dropChuff_act (s : State) : Act s s.dropChuff := Act.silent rfl

theorem State.chuffTake_act (s : State) : Act s s.chuffTake := by
  unfold State.chuffTake
  split
  · exact s.setSlotState_act _
  · exact s.takeSlot_act

theorem execAtChuffSlotTake_calm {s t : State} (ht : execAtChuffSlotTake s = .next t) : Calm s t := by
  refine ite_calm (fun _ => finish_calm ?_) (fun _ => next_act (.refl s)) ht
  split
  · exact ((s.serveLower_act.trans (State.dropChuff_act _)).trans (State.chuffTake_act _)).toCalm
  · exact s.dropChuff_act.toCalm

theorem State.beginBoard_act {s : State} (h : s.exc.board = none) : Act s s.beginBoard :=
  State.boardTurn_act (by rw [h]; rfl)

theorem execBoardTimer_calm {s t : State} (ht : execBoardTimer s = .next t) : Calm s t := by
  refine ite_calm (fun _ => next_act (.refl s)) (fun _ => ite_calm (fun _ h => next_silent h) fun hb => next_act ?_) ht
  exact State.beginBoard_act (by simpa using hb)

theorem execBoardWriteDeferred_calm {s t : State} (ht : execBoardWriteDeferred s = .next t) : Calm s t := by
  refine ite_calm (fun h => next_act ((State.beginBoard_act ?_).quietly)) (fun _ => next_act (.refl s)) ht
  exact h.2

theorem execSettleTimeElapsed_calm {s t : State} (ht : execSettleTimeElapsed s = .next t) : Calm s t := by
  unfold execSettleTimeElapsed at ht
  split at ht
  · exact next_silent ht
  · exact next_act (.refl s) ht

theorem execTickCompletion_calm (emfA emfB : EmfSet) {s t : State} (ht : execTickCompletion emfA emfB s = .next t) : Calm s t := by
  unfold execTickCompletion at ht
  split at ht
  · exact next_act (.refl s) ht
  · exact ite_calm (fun _ => finish_calm (s.complete_act _ _ _).toCalm) (fun _ => next_act (.refl s)) ht

theorem execCbcLimit_calm (m : Motor) {s t : State} (ht : execCbcLimit m s = .next t) : Calm s t :=
  ite_calm (fun _ => next_act (s.putChan_act m ((Channel.toOn_calm _ _).trans (Channel.limited_calm _ _))))
    (fun _ => next_act (.refl s)) ht

theorem shortReason_ne (m : Motor) : shortReason m ≠ .none := by
  cases m <;> decide

theorem execShortDetected_calm (m : Motor) {s t : State} (ht : execShortDetected m s = .next t) : Calm s t :=
  ite_calm (fun _ => finish_calm ((s.putChan_act m (Channel.conducting_calm _ _)).trans (State.tripNow_act _ (shortReason_ne m))).toCalm)
    (fun _ => next_act (.refl s)) ht

theorem State.sampleAxs_act (s : State) (level : Level) : Act s (s.sampleAxs level) := by
  unfold State.sampleAxs
  dsimp only
  split
  · exact (s.setChk_act _).trans (State.qualifiedEdge_act _ _)
  · exact s.setChk_act _

theorem execStartBegin_calm {s t : State} (ht : execStartBegin s = .next t) : Calm s t := by
  unfold execStartBegin at ht
  split at ht
  · exact finish_calm (s.beginStart_act _ _).toCalm ht
  · exact next_act (.refl s) ht

theorem execStartDecided_calm {s t : State} (ht : execStartDecided s = .next t) : Calm s t := by
  unfold execStartDecided at ht
  split at ht
  · exact next_act (.refl s) ht
  · exact finish_calm ((s.decideStart_act _ _).trans (State.endStart_act _ _ _)).toCalm ht

theorem execSmokeTimer_calm (code : BitVec 10) {s t : State} (ht : execSmokeTimer code s = .next t) : Calm s t := by
  refine ite_calm (fun h => next_act ?_) (fun _ => next_act (.refl s)) ht
  have ha : (s.convertTemp code.toNat).smokeActs = true := by rw [State.convertTemp_smokeActs]; exact h.2
  refine ((s.convertTemp_act _).trans (State.evalSmoke_act ha)).trans ((State.useFluid_act ?_).trans (State.formHeater_act _))
  exact ha

theorem execKickEnd_calm {s t : State} (ht : execKickEnd s = .next t) : Calm s t := by
  unfold execKickEnd at ht
  split at ht
  · exact ite_calm (fun _ h => next_silent h) (fun _ => next_act (.refl s)) ht
  · exact next_act (.refl s) ht

theorem execFrameArrival_calm (time bits : Nat) (bytes : List Byte) {s t : State} (ht : execFrameArrival time bits bytes s = .next t) :
    Calm s t := by
  unfold execFrameArrival at ht
  split at ht
  · exact next_act (.refl s) ht
  · have h : Act s (s.endFrame time) := Act.silent rfl
    exact finish_calm (h.trans (State.arrive_act _ _ _ _)).toCalm ht

theorem execSupplyTimer_calm (vsen hsen : Nat) {s t : State} (ht : execSupplyTimer vsen hsen s = .next t) : Calm s t := by
  refine finish_calm ?_ ht
  have h : Act s (s.takeSample vsen hsen) := Act.silent rfl
  split
  · exact (h.trans (State.judgeSupply_act _)).toCalm
  · exact h.toCalm

theorem execDrvfltQualified_calm (level : Level) {s t : State} (ht : execDrvfltQualified level s = .next t) : Calm s t :=
  finish_calm ((s.setDrvflt_act _).trans (State.checkDriver_act _)).toCalm ht

theorem State.dropSqueal_act (s : State) : Act s s.dropSqueal := Act.silent rfl

/-- Every command but those of leads keeps the promises, HALTED, and the bridge direction. -/
theorem exec_calm {c : Instr} {s t : State} (hc : leads c = false) (ht : exec c s = .next t) : Calm s t := by
  have stay : Act s s := .refl s
  cases c with
  | readMemory l a n late => exact execReadMemory_calm l a n late ht
  | writeMemory l a data tail delays => exact execWriteMemory_calm l a data tail delays ht
  | readRegister l reg => exact execReadRegister_calm l reg ht
  | portCommandInvalid => exact next_silent ht
  | start => cases hc
  | haltSoft u => exact execHaltSoft_calm u ht
  | haltHard u => exact execHaltHard_calm u ht
  | reset => cases hc
  | pctlNoCommand => exact next_act stay ht
  | pctlReservedCommand => exact ite_calm (fun _ => next_act stay) (fun _ => next_act (s.recordCommand_act _ _)) ht
  | nlatWrite => exact ite_calm (fun _ => next_act stay) (fun _ h => next_silent h) ht
  | nenWrite => exact ite_calm (fun _ => next_act stay) (fun _ h => next_silent h) ht
  | registerWriteIgnored => exact next_act stay ht
  | arbiterGrant => exact next_act s.grant_act ht
  | powerOnReset => cases hc
  | memoryClearDone => exact next_silent ht
  | adoptionGroupRead => cases hc
  | scanTimer => exact execScanTimer_calm ht
  | scanWorkDeferred => exact execScanWorkDeferred_calm ht
  | atChuffSlotTake => exact execAtChuffSlotTake_calm ht
  | inboxWrite => exact next_act s.inboxFinish_act ht
  | boardTimer => exact execBoardTimer_calm ht
  | boardWriteDeferred => exact execBoardWriteDeferred_calm ht
  | regulationTimer => cases hc
  | settleTimeElapsed => exact execSettleTimeElapsed_calm ht
  | tickCompletion => exact execTickCompletion_calm _ _ ht
  | turnTimeout => exact ite_calm (fun _ h => next_silent h) (fun _ => next_act stay) ht
  | pwmPeriodStart => exact ite_calm (fun _ => next_act s.periodStart_act) (fun _ => next_act stay) ht
  | deadTimeElapsed m leg => exact next_act (s.onChan_act m (Channel.onLeg_elapse_calm leg)) ht
  | currentSample m => exact ite_calm (fun _ => next_act (s.onChan_act m (Channel.sample_calm _ _ _))) (fun _ => next_act stay) ht
  | cbcLimit => exact execCbcLimit_calm _ ht
  | shortDetected => exact execShortDetected_calm _ ht
  | drvfltQualified => exact execDrvfltQualified_calm _ ht
  | axsSample => exact ite_calm (fun _ => next_act (s.sampleAxs_act _)) (fun _ => next_act stay) ht
  | lostTimerExpiry => exact ite_calm (fun _ h => next_silent h) (fun _ => next_act stay) ht
  | outputSampleTimer =>
    exact ite_calm (fun _ => next_act stay)
      (fun _ => next_act (s.handOutput_act.trans ((State.formOutput_act _).trans (State.countSqueal_act _)))) ht
  | carrierPeriodStart => exact ite_calm (fun _ h => next_silent h) (fun _ => next_act stay) ht
  | startBegin => exact execStartBegin_calm ht
  | startDecided => exact execStartDecided_calm ht
  | squealCheck => exact ite_calm (fun _ => next_act ((State.dropSqueal_act s).trans (State.checkSqueal_act _))) (fun _ => next_act stay) ht
  | smokeTimer => exact execSmokeTimer_calm _ ht
  | kickEnd => exact execKickEnd_calm ht
  | puffEnd => exact ite_calm (fun _ h => next_silent h) (fun _ => next_act stay) ht
  | effectTimer => exact ite_calm (fun _ => next_act s.effectExpiry_act) (fun _ => next_act stay) ht
  | frameBegin => exact ite_calm (fun _ => next_act (s.setRrx_act (Rrx.beginFrame_holder _ _))) (fun _ => next_act stay) ht
  | frameArrival => exact execFrameArrival_calm _ _ _ ht
  | failsafeExpiry => exact ite_calm (fun _ => next_act (s.freeHolder_act.trans (State.latch_act _ _))) (fun _ => next_act stay) ht
  | supplyTimer => exact execSupplyTimer_calm _ _ ht
  | holdupTimerExpiry => exact ite_calm (fun _ => finish_calm s.holdupExpires_act.toCalm) (fun _ => next_act stay) ht
  | shareTimer => exact ite_calm (fun _ => next_act (s.setHlim_act _)) (fun _ => next_act stay) ht
  | lampPwmPeriodStart => exact next_silent ht

theorem execStart_kept (u : BitVec 13) {s t : State} (ht : execStart u s = .next t) : Kept s t := by
  unfold execStart at ht
  split at ht
  · cases ht; exact (Act.refl s).toKept
  · split at ht
    · next hp =>
      cases ht
      refine (((s.recordCommand_act _ _).trans (State.leaveIdle_act _)).toKept).trans (State.beginAdoption_kept false ?_)
      show s.exc.part.driving = false
      rw [hp]
      rfl
    · next hp =>
      cases ht
      refine ((s.recordCommand_act _ _).toKept).trans (State.beginAdoption_kept true ?_)
      show s.exc.part.driving = false
      rw [hp]
      rfl
    · cases ht
      exact (s.recordCommand_act _ _).toKept

theorem finish_kept {s u t : State} (h : Kept s u) (ht : finish u = .next t) : Kept s t :=
  h.trans (finish_calm (Act.refl u).toCalm ht).toKept

/-- What a grant leaves of EXC: the part state, the scan work, and whether adoption is in progress. -/
structure GrantKeeps (s t : State) : Prop where
  part     : t.exc.part = s.exc.part
  scan     : t.exc.scan = s.exc.scan
  adoption : t.exc.adoption.isSome = s.exc.adoption.isSome

theorem GrantKeeps.trans {s t u : State} (h : GrantKeeps s t) (h' : GrantKeeps t u) : GrantKeeps s u :=
  ⟨h'.part.trans h.part, h'.scan.trans h.scan, h'.adoption.trans h.adoption⟩

theorem State.class3Grant_keeps (s : State) (x : Class3) : GrantKeeps s (s.class3Grant x) := by
  cases x with
  | board =>
    unfold State.class3Grant
    cases s.exc.board with
    | none => exact ⟨rfl, rfl, rfl⟩
    | some k =>
      show GrantKeeps s ((s.noteGrant .board).boardGrant k)
      unfold State.boardGrant
      split
      · exact ⟨rfl, rfl, rfl⟩
      · split <;> exact ⟨rfl, rfl, rfl⟩
  | inbox =>
    show GrantKeeps s (s.noteGrant .inbox).inboxGrant
    unfold State.inboxGrant
    split
    · exact ⟨rfl, rfl, rfl⟩
    · split
      · unfold State.readSeen
        split <;> exact ⟨rfl, rfl, rfl⟩
      · exact ⟨rfl, rfl, rfl⟩

theorem State.grant_keeps (s : State) : GrantKeeps s s.grant := by
  unfold State.grant
  split
  · exact ⟨rfl, rfl, rfl⟩
  · split
    · unfold State.portGrant
      split <;> exact ⟨rfl, rfl, rfl⟩
    · split
      · unfold State.writerGrant
        split
        · exact GrantKeeps.trans (t := { s with exc := { s.exc with class3Last := some (Class3.turn s.exc.class3Last) } })
            ⟨rfl, rfl, rfl⟩ (State.class3Grant_keeps _ _)
        · split <;> exact State.class3Grant_keeps _ _
      · split
        · exact ⟨rfl, rfl, by simp [State.readerGrant]⟩
        · exact ⟨rfl, rfl, rfl⟩

theorem State.serveLower_keeps (s : State) : GrantKeeps s s.serveLower :=
  State.grantWhile_induct (P := GrantKeeps s) (fun u h => h.trans u.grant_keeps) _ s ⟨rfl, rfl, rfl⟩

theorem State.readerTurn_keeps (s : State) : GrantKeeps s s.readerTurn := by
  unfold State.readerTurn
  split
  · exact s.serveLower_keeps
  · exact ⟨rfl, rfl, rfl⟩

theorem execAdoptionGroupRead_kept {s t : State} (ht : execAdoptionGroupRead s = .next t) : Kept s t := by
  unfold execAdoptionGroupRead at ht
  split at ht
  · cases ht; exact (Act.refl s).toKept
  · next a ha =>
    have h1 := s.readerTurn_act.toKept
    have h2 : s.readerTurn.exc.adoption.isSome = true := by rw [s.readerTurn_keeps.adoption, ha]; rfl
    generalize s.readerTurn = u at ht h1 h2
    unfold State.judgeGroup at ht
    split at ht
    · exact finish_kept (h1.trans (State.adoptRefused_kept h2 a _ _)) ht
    · split at ht
      · exact finish_kept (h1.trans (u.adoptAccepted_kept _)) ht
      · cases ht
        have h3 : Act u (u.nextGroup a ‹_›) := Act.silent (by simp [State.view, State.nextGroup, h2])
        exact h1.trans h3.toKept

/-- Every command keeps the promises of Safety.lean. -/
theorem exec_kept {c : Instr} {s t : State} (ht : exec c s = .next t) : Kept s t := by
  cases hc : leads c with
  | false => exact (exec_calm hc ht).toKept
  | true =>
    cases c with
    | start u => exact execStart_kept u ht
    | reset u =>
      change execReset u s = .next t at ht
      unfold execReset at ht
      split at ht
      · cases ht; exact (Act.refl s).toKept
      · cases ht; exact s.softReset_kept
    | powerOnReset => cases ht; exact Kept.ofReset (fun _ => resetIsSafe.1.1) _ _ _ _ _ _
    | adoptionGroupRead => exact execAdoptionGroupRead_kept ht
    | regulationTimer =>
      change execRegulationTimer s = .next t at ht
      unfold execRegulationTimer at ht
      split at ht
      · obtain ⟨u, hu, h⟩ := s.beginTick_act
        exact finish_kept (hu.kept.trans h.toKept) ht
      · cases ht; exact (Act.refl s).toKept
    | _ => cases hc

/-! ### Steps -/

theorem State.pwmTick_act (s : State) : Act s s.pwmTick := s.onChans_act (Channel.tick_calm s.cfg.traction)

/-- A step is the front command on the state with the queue's rest, which no promise speaks of, or 50 ns that pass. -/
theorem step_cases {s t : State} (ht : step s = .next t) :
    (∃ c rest, s.pending = c :: rest ∧ exec c { s with pending := rest } = .next t) ∨ (s.pending = [] ∧ t = s.pwmTick) := by
  unfold step at ht
  split at ht
  · next h => cases ht; exact .inr ⟨h, rfl⟩
  · next c rest h => exact .inl ⟨c, rest, h, ht⟩

/-- What every command keeps, but for the queue, every step keeps. -/
theorem step_kept {s t : State} (ht : step s = .next t) : ∃ u, Kept u t ∧ ∃ q, u = { s with pending := q } := by
  rcases step_cases ht with ⟨c, rest, -, h⟩ | ⟨-, rfl⟩
  · exact ⟨_, exec_kept h, rest, rfl⟩
  · exact ⟨s, s.pwmTick_act.toKept, s.pending, rfl⟩

/-- Settles O4, by what every operation keeps of exchange memory (`Base.mem`). -/
theorem stepsKeepMemory : Obligations.StepsKeepMemory := by
  intro s t h ht
  obtain ⟨u, hk, q, rfl⟩ := step_kept ht
  exact hk.mem h

/-- Settles O5, by what every operation of a channel keeps (`Channel.Calm`). -/
theorem stepsPreventShootThrough : Obligations.StepsPreventShootThrough := by
  intro s t h ht
  obtain ⟨u, hk, q, rfl⟩ := step_kept ht
  exact hk.safe h

/-- Settles O6, by the evaluations of the smoke state wherever the supply, the fluid or the part state changes. -/
theorem stepsKeepHeater : Obligations.StepsKeepHeater := by
  intro s t ha hh ht
  obtain ⟨u, hk, q, rfl⟩ := step_kept ht
  exact ⟨hk.adoption ha, hk.heater ha ⟨hh.allowance, hh.below, hh.heats, hh.lit, hh.fluid⟩⟩

/-- Settles O7: the entries to STANDING, E_HELD and TRIPPED set R and the trip reason, and each reports to EXC. -/
theorem stepsKeepTrip : Obligations.StepsKeepTrip := by
  intro s t ht
  obtain ⟨u, hk, q, rfl⟩ := step_kept ht
  exact ⟨hk.trip, hk.stopping⟩

/-- Settles O8: each entry to a state in which nothing may drive hands duty 0, and no operation raises a duty there. -/
theorem stepsKeepUndriven : Obligations.StepsKeepUndriven := by
  intro s t ha hu ht
  obtain ⟨u, hk, q, rfl⟩ := step_kept ht
  exact ⟨hk.adoption ha, hk.undriven ha hu⟩

/-- Settles O9, by the ends and the starts of voices. -/
theorem stepsKeepStartOrder : Obligations.StepsKeepStartOrder := by
  intro s t ho hg ht
  obtain ⟨u, hk, q, rfl⟩ := step_kept ht
  exact hk.order ho hg

/-- Settles O10, by what every operation keeps of each (`Base`). -/
theorem stepsKeepHolderFlickerBoard : Obligations.StepsKeepHolderFlickerBoard := by
  refine ⟨fun s t h ht => ?_, fun s t h ht => ?_, fun s t h ht => ?_⟩
  · obtain ⟨u, hk, q, rfl⟩ := step_kept ht
    exact hk.holder h
  · obtain ⟨u, hk, q, rfl⟩ := step_kept ht
    exact hk.lfsr h
  · obtain ⟨u, hk, q, rfl⟩ := step_kept ht
    exact hk.board h

/-! ### HALTED and the bridge direction -/

theorem State.adopting_of {s : State} (h : s.adoptionOk) (hp : s.exc.part ≠ .adopting) : s.exc.adoption = none := by
  cases ha : s.exc.adoption with
  | none => rfl
  | some a => exact absurd (h.mp (by rw [ha]; rfl)) hp

/-- Outside ADOPTING no group is read. -/
theorem execAdoptionGroupRead_idle {s : State} (h : s.adoptionOk) (hp : s.exc.part ≠ .adopting) : execAdoptionGroupRead s = .next s := by
  unfold execAdoptionGroupRead
  rw [State.adopting_of h hp]

/-- Settles O11: of the commands that `exec_calm` leaves out, only START and the resets leave HALTED. -/
theorem haltedLeftOnlyByCommand : Obligations.HaltedLeftOnlyByCommand := by
  intro c s t ha hp ht hl
  cases hc : leads c with
  | false => exact absurd ((exec_calm hc ht).halted hp) hl
  | true =>
    cases c with
    | start u => exact .inl ⟨u, rfl⟩
    | reset u => exact .inr (.inl ⟨u, rfl⟩)
    | powerOnReset => exact .inr (.inr rfl)
    | adoptionGroupRead =>
      rw [show exec .adoptionGroupRead s = .next s from execAdoptionGroupRead_idle ha (by rw [hp]; decide)] at ht
      cases ht
      exact absurd hp hl
    | regulationTimer =>
      change execRegulationTimer s = .next t at ht
      unfold execRegulationTimer at ht
      rw [if_neg (by simp [hp, PartState.driving])] at ht
      cases ht
      exact absurd hp hl
    | _ => cases hc

/-- Settles O12: a flip is settled only at R = 0, and the other operations of a tick leave the bridge direction. -/
theorem bridgeTurnsOnlyAtTick : Obligations.BridgeTurnsOnlyAtTick := by
  intro c s t ha hr hp ht hq hd
  cases hc : leads c with
  | false => exact absurd (exec_calm hc ht).dir hd
  | true =>
    cases c with
    | start u =>
      change execStart u s = .next t at ht
      unfold execStart at ht
      split at ht
      · cases ht; exact absurd rfl hd
      · split at ht
        · next h => rw [h] at hp; cases hp
        · next h => rw [h] at hp; cases hp
        · cases ht; exact absurd rfl hd
    | reset u =>
      change execReset u s = .next t at ht
      unfold execReset at ht
      split at ht
      · cases ht; exact absurd rfl hd
      · cases ht; cases hq
    | powerOnReset => cases ht; cases hq
    | adoptionGroupRead =>
      rw [show exec .adoptionGroupRead s = .next s from
        execAdoptionGroupRead_idle ha (by intro e; rw [e] at hp; cases hp)] at ht
      cases ht
      exact absurd rfl hd
    | regulationTimer =>
      change execRegulationTimer s = .next t at ht
      unfold execRegulationTimer at ht
      split at ht
      · obtain ⟨u, hu, h⟩ := s.beginTick_act
        have hdir : t.srg.bridgeDir = u.srg.bridgeDir := (finish_calm h.toCalm ht).dir
        rcases hu with rfl | ⟨rfl, hz⟩
        · exact absurd hdir hd
        · exact ⟨rfl, hz hr⟩
      · cases ht; exact absurd rfl hd
    | _ => cases hc

end Sys2Proof.Machine
end

section
/-!
PROOF. The scan work over every command (O2, R119): a command that may hand a start's outcome to a PLAY cue goes on with the scan before it
ends, and every other one leaves the scan work as it was.
-/
set_option Elab.async false

namespace Sys2Proof.Machine

/-! ### Commands that go on with the scan -/

/-- A scan that goes on keeps no outcome (R119). -/
theorem State.resumeScan_quiet {s : State} {k : Byte} {n : Nat} {o : StartOutcome} (h : s.exc.scan = some ⟨k, n, some o⟩) :
    s.resumeScan.scanQuiet := by
  unfold State.resumeScan
  rw [h]
  exact (State.takeCues_calm n _).2 ((State.writeBack_act { s with exc := { s.exc with scan := none } } k (outcomeReason o)).scan rfl)

/-- A command that is carried out leaves no scan with an outcome. -/
theorem finish_quiet {u t : State} (ht : finish u = .next t) : t.scanQuiet := by
  unfold finish at ht
  split at ht
  · next k n o h =>
    cases ht
    exact State.resumeScan_quiet (u.serveLower_keeps.scan.trans h)
  · next h =>
    cases ht
    intro w hw
    obtain ⟨k, n, o⟩ := w
    cases o with
    | none => rfl
    | some o => exact absurd hw (h k n o)

/-! ### Operations that leave the scan work -/

theorem State.recordEnd_scan (s : State) (tag : Half) (reason : EndReason) (v : Fin 8) :
    (s.recordEnd tag reason v).exc.scan = s.exc.scan := by
  unfold State.recordEnd
  split <;> rfl

theorem State.endVoice_scan (s : State) (v : Fin 8) (reason : EndReason) : (s.endVoice v reason).exc.scan = s.exc.scan := by
  unfold State.endVoice
  dsimp only
  split
  · exact s.recordEnd_scan _ _ _
  · rfl

theorem State.handBack_scan (s : State) {a : Requester} (o : StartOutcome) (h : a ≠ .playCue) :
    (s.handBack a o).exc.scan = s.exc.scan := by
  unfold State.handBack
  cases a <;> cases o <;> first | rfl | exact absurd rfl h

theorem State.requestStart_scan (s : State) {r : StartReq} (h : r.asker ≠ .playCue) : (s.requestStart r).exc.scan = s.exc.scan := by
  unfold State.requestStart
  split
  · exact s.handBack_scan _ h
  · rfl

theorem State.releaseTag_scan (s : State) (tag : Half) : (s.releaseTag tag).exc.scan = s.exc.scan := by
  unfold State.releaseTag
  split
  · rfl
  · dsimp only
    split
    · split <;> rfl
    · rfl

theorem State.checkSqueal_scan (s : State) : s.checkSqueal.exc.scan = s.exc.scan := by
  unfold State.checkSqueal
  split
  · unfold State.requestSqueal
    split
    · rfl
    · exact State.requestStart_scan _ (fun h => by cases h)
  · exact s.releaseTag_scan _
  · rfl
  · rfl

theorem State.chuffVoice_scan (s : State) (index : Nat) : (s.chuffVoice index).exc.scan = s.exc.scan := by
  unfold State.chuffVoice
  dsimp only
  split
  · exact s.endVoice_scan _ _
  · exact s.requestStart_scan (fun h => by cases h)

theorem State.puffChuff_exc (s : State) (p : Nat) : (s.puffChuff p).exc = s.exc := by
  unfold State.puffChuff
  split
  · dsimp only
    split <;> rfl
  · rfl

theorem State.chuffToSlot_scan (s : State) : s.chuffToSlot.exc.scan = s.exc.scan := by
  unfold State.chuffToSlot
  split <;> rfl

theorem State.chuffEvent_scan (s : State) : s.chuffEvent.exc.scan = s.exc.scan := by
  unfold State.chuffEvent
  dsimp only
  rw [State.chuffToSlot_scan]
  show (State.puffChuff _ _).exc.scan = _
  rw [State.puffChuff_exc]
  exact State.chuffVoice_scan _ _

theorem State.sensorEvent_scan (s : State) : s.sensorEvent.exc.scan = s.exc.scan := by
  unfold State.sensorEvent
  dsimp only
  split
  · rfl
  · exact State.chuffEvent_scan _
  · split
    · exact State.chuffEvent_scan _
    · rfl

theorem State.sampleAxs_scan (s : State) (level : Level) : (s.sampleAxs level).exc.scan = s.exc.scan := by
  unfold State.sampleAxs
  dsimp only
  split
  · unfold State.qualifiedEdge
    split
    · split
      · exact State.sensorEvent_scan _
      · rfl
    · rfl
  · rfl

theorem State.playVoices_scan (l : List (Fin 8)) (s : State) (n : Int) : (State.playVoices l (s, n)).1.exc.scan = s.exc.scan := by
  have one (v : Fin 8) (s : State) (n : Int) : (State.playVoice v (s, n)).1.exc.scan = s.exc.scan := by
    unfold State.playVoice
    dsimp only
    split
    · dsimp only
      split
      · exact State.endVoice_scan _ _ _
      · rfl
    · rfl
  induction l generalizing s n with
  | nil => rfl
  | cons v rest ih => exact (ih _ _).trans (one v s n)

theorem State.formOutput_scan (s : State) : s.formOutput.exc.scan = s.exc.scan := by
  have h := State.playVoices_scan octetIndices s 0
  unfold State.formOutput
  generalize State.playVoices octetIndices (s, 0) = r at h
  exact h

theorem State.countSqueal_scan (s : State) : s.countSqueal.exc.scan = s.exc.scan := by
  rcases s.countSqueal_cases with ⟨-, e⟩ | ⟨-, -, e⟩ | ⟨-, -, e⟩ <;> rw [e]

theorem State.smokeExpiry_scan (s : State) (c : Nat) : (s.convertTemp c).evalSmoke.useFluid.formHeater.exc.scan = s.exc.scan := by
  have hu (u : State) : u.useFluid.exc.scan = u.exc.scan := by
    unfold State.useFluid
    split
    · dsimp only
      split <;> rfl
    · rfl
  have hc : (s.convertTemp c).exc.scan = s.exc.scan := by
    unfold State.convertTemp State.judgeHot
    split
    · rfl
    · split
      · rfl
      · dsimp only
        split
        · split <;> rfl
        · split <;> rfl
  exact (hu _).trans hc

theorem State.freeHolder_exc (s : State) : s.freeHolder.exc = s.exc := by
  unfold State.freeHolder State.holderFreed
  split <;> rfl

theorem State.inboxFinish_scan (s : State) : s.inboxFinish.exc.scan = s.exc.scan := by
  have hd (u : State) : u.inboxDone.exc.scan = u.exc.scan := by
    unfold State.inboxDone
    split <;> rfl
  unfold State.inboxFinish
  split
  · rfl
  · have hs : s.serveInbox.exc.scan = s.exc.scan :=
      (State.grantWhile_induct (P := GrantKeeps s) (fun u h => h.trans u.grant_keeps) _ s ⟨rfl, rfl, rfl⟩).scan
    dsimp only
    split
    · exact (hd _).trans hs
    · exact (hd _).trans hs

theorem State.serveSound_keeps (s : State) : GrantKeeps s s.serveSound :=
  State.grantWhile_induct (P := GrantKeeps s) (fun u h => h.trans u.grant_keeps) _ s ⟨rfl, rfl, rfl⟩

theorem State.portGrant_exc (s : State) : s.portGrant.exc = s.exc := by
  unfold State.portGrant
  split <;> rfl

theorem State.periodStart_exc (s : State) : s.periodStart.exc = s.exc := by
  unfold State.periodStart
  dsimp only
  split
  · rfl
  · split <;> rfl

/-! ### Every command -/

/-- What a command may do with the scan work: leave it, or leave none with an outcome. -/
def ScanLeft (s t : State) : Prop := t.exc.scan = s.exc.scan ∨ t.scanQuiet

theorem next_scan {s u t : State} (h : u.exc.scan = s.exc.scan) (ht : (Host.Outcome.next u : Host.Outcome State Fault Refusal) = .next t) :
    ScanLeft s t := by
  cases ht
  exact .inl h

theorem ite_scan {p : Prop} [Decidable p] {s t : State} {x y : Host.Outcome State Fault Refusal} (hx : x = .next t → ScanLeft s t)
    (hy : y = .next t → ScanLeft s t) (h : (if p then x else y) = .next t) : ScanLeft s t := by
  split at h
  · exact hx h
  · exact hy h

theorem finish_scan {s u t : State} (ht : finish u = .next t) : ScanLeft s t := .inr (finish_quiet ht)

/-- A command that changes nothing of the scan work, by computation. -/
theorem next_kept {s u t : State} (ht : (Host.Outcome.next u : Host.Outcome State Fault Refusal) = .next t)
    (h : u.exc.scan = s.exc.scan := by rfl) : ScanLeft s t :=
  next_scan h ht

theorem execReadMemory_scan (l : Lanes) (a : BitVec 24) (n : Nat) (late : List Nat) {s t : State}
    (ht : execReadMemory l a n late s = .next t) : ScanLeft s t := by
  refine next_scan ?_ ht
  show (if n = 0 then s else s.serveSound.portGrant).exc.scan = s.exc.scan
  split
  · rfl
  · rw [State.portGrant_exc]
    exact s.serveSound_keeps.scan

theorem execWriteMemory_scan (l : Lanes) (a : BitVec 24) (data : List Byte) (tail : Nat) (delays : List Nat) {s t : State}
    (ht : execWriteMemory l a data tail delays s = .next t) : ScanLeft s t := by
  refine ite_scan (fun h => next_kept h) (next_scan ?_) ht
  show (if s.writeNeedsGrant data then s.serveSound else s).exc.scan = s.exc.scan
  split
  · exact s.serveSound_keeps.scan
  · rfl

theorem execStart_scan (u : BitVec 13) {s t : State} (ht : execStart u s = .next t) : ScanLeft s t := by
  refine ite_scan (fun h => next_kept h) (fun h => ?_) ht
  split at h
  · exact next_kept h
  · exact next_kept h
  · exact next_kept h

theorem execAdoptionGroupRead_scan {s t : State} (ht : execAdoptionGroupRead s = .next t) : ScanLeft s t := by
  unfold execAdoptionGroupRead at ht
  split at ht
  · exact next_kept ht
  · have hr := s.readerTurn_keeps.scan
    unfold State.judgeGroup at ht
    split at ht
    · exact finish_scan ht
    · refine ite_scan finish_scan (next_scan ?_) ht
      exact hr

theorem execReadRegister_scan (l : Lanes) (reg : Byte) {s t : State} (ht : execReadRegister l reg s = .next t) : ScanLeft s t := by
  refine next_scan ?_ ht
  split <;> rfl

theorem execBoardTimer_scan {s t : State} (ht : execBoardTimer s = .next t) : ScanLeft s t :=
  ite_scan (fun h => next_kept h) (ite_scan (fun h => next_kept h) (fun h => next_kept h)) ht

/-- Every command leaves the scan work, or none with an outcome (R119). -/
theorem exec_scan {c : Instr} {s t : State} (ht : exec c s = .next t) : ScanLeft s t := by
  cases c with
  | readMemory l a n late => exact execReadMemory_scan l a n late ht
  | writeMemory l a data tail delays => exact execWriteMemory_scan l a data tail delays ht
  | readRegister l reg => exact execReadRegister_scan l reg ht
  | portCommandInvalid => exact next_kept ht
  | start u => exact execStart_scan u ht
  | haltSoft => exact ite_scan (fun h => next_kept h) (ite_scan finish_scan (fun h => next_kept h)) ht
  | haltHard => exact ite_scan (fun h => next_kept h) (ite_scan finish_scan (fun h => next_kept h)) ht
  | reset => exact ite_scan (fun h => next_kept h) (fun h => by cases h; exact .inr (State.scanQuiet_none rfl)) ht
  | pctlNoCommand => exact next_kept ht
  | pctlReservedCommand => exact ite_scan (fun h => next_kept h) (fun h => next_kept h) ht
  | nlatWrite => exact ite_scan (fun h => next_kept h) (fun h => next_kept h) ht
  | nenWrite => exact ite_scan (fun h => next_kept h) (fun h => next_kept h) ht
  | registerWriteIgnored => exact next_kept ht
  | arbiterGrant => exact next_scan s.grant_keeps.scan ht
  | powerOnReset => cases ht; exact .inr (State.scanQuiet_none rfl)
  | memoryClearDone => exact next_kept ht
  | adoptionGroupRead => exact execAdoptionGroupRead_scan ht
  | scanTimer => exact ite_scan (fun h => next_kept h) finish_scan ht
  | scanWorkDeferred => exact ite_scan finish_scan (fun h => next_kept h) ht
  | atChuffSlotTake => exact ite_scan finish_scan (fun h => next_kept h) ht
  | inboxWrite => exact next_scan s.inboxFinish_scan ht
  | boardTimer => exact execBoardTimer_scan ht
  | boardWriteDeferred => exact ite_scan (fun h => next_kept h) (fun h => next_kept h) ht
  | regulationTimer => exact ite_scan finish_scan (fun h => next_kept h) ht
  | settleTimeElapsed =>
    change execSettleTimeElapsed s = .next t at ht
    unfold execSettleTimeElapsed at ht
    split at ht
    · exact next_kept ht
    · exact next_kept ht
  | tickCompletion emfA emfB =>
    change execTickCompletion emfA emfB s = .next t at ht
    unfold execTickCompletion at ht
    split at ht
    · exact next_kept ht
    · exact ite_scan finish_scan (fun h => next_kept h) ht
  | turnTimeout => exact ite_scan (fun h => next_kept h) (fun h => next_kept h) ht
  | pwmPeriodStart => exact ite_scan (next_scan (by rw [State.periodStart_exc])) (fun h => next_kept h) ht
  | deadTimeElapsed => exact next_kept ht
  | currentSample => exact ite_scan (fun h => next_kept h) (fun h => next_kept h) ht
  | cbcLimit => exact ite_scan (fun h => next_kept h) (fun h => next_kept h) ht
  | shortDetected => exact ite_scan finish_scan (fun h => next_kept h) ht
  | drvfltQualified => exact finish_scan ht
  | axsSample level => exact ite_scan (next_scan (s.sampleAxs_scan level)) (fun h => next_kept h) ht
  | lostTimerExpiry => exact ite_scan (fun h => next_kept h) (fun h => next_kept h) ht
  | outputSampleTimer =>
    exact ite_scan (fun h => next_kept h) (next_scan ((State.countSqueal_scan _).trans s.handOutput.formOutput_scan)) ht
  | carrierPeriodStart => exact ite_scan (fun h => next_kept h) (fun h => next_kept h) ht
  | startBegin =>
    change execStartBegin s = .next t at ht
    unfold execStartBegin at ht
    split at ht
    · exact finish_scan ht
    · exact next_kept ht
  | startDecided =>
    change execStartDecided s = .next t at ht
    unfold execStartDecided at ht
    split at ht
    · exact next_kept ht
    · exact finish_scan ht
  | squealCheck => exact ite_scan (next_scan (State.checkSqueal_scan s.dropSqueal)) (fun h => next_kept h) ht
  | smokeTimer => exact ite_scan (next_scan (s.smokeExpiry_scan _)) (fun h => next_kept h) ht
  | kickEnd =>
    change execKickEnd s = .next t at ht
    unfold execKickEnd at ht
    split at ht
    · exact ite_scan (fun h => next_kept h) (fun h => next_kept h) ht
    · exact next_kept ht
  | puffEnd => exact ite_scan (fun h => next_kept h) (fun h => next_kept h) ht
  | effectTimer => exact ite_scan (fun h => next_kept h) (fun h => next_kept h) ht
  | frameBegin => exact ite_scan (fun h => next_kept h) (fun h => next_kept h) ht
  | frameArrival time bits bytes =>
    change execFrameArrival time bits bytes s = .next t at ht
    unfold execFrameArrival at ht
    split at ht
    · exact next_kept ht
    · exact finish_scan ht
  | failsafeExpiry =>
    exact ite_scan (next_scan (by show s.freeHolder.exc.scan = _; rw [State.freeHolder_exc])) (fun h => next_kept h) ht
  | supplyTimer => exact finish_scan ht
  | holdupTimerExpiry => exact ite_scan finish_scan (fun h => next_kept h) ht
  | shareTimer => exact ite_scan (fun h => next_kept h) (fun h => next_kept h) ht
  | lampPwmPeriodStart => exact next_kept ht

/-- Settles O2, by what every operation keeps of the queue, and `exec_scan`. -/
theorem commandsKeepQueue : Obligations.CommandsKeepQueue := by
  intro c s t hq ht
  refine ⟨(exec_kept ht).pending, ?_⟩
  rcases exec_scan ht with h | h
  · intro w hw
    exact hq w (h ▸ hw)
  · exact h

end Sys2Proof.Machine
end

section
/-!
PROOF. Steps and the memory port (O1, O13 to O17): transactions, reads and writes of exchange memory, registers, and the commands that are
refused or dropped (R2 to R5, R7).
-/
set_option Elab.async false

namespace Sys2Proof.Machine

theorem step_empty {s : State} (h : s.pending = []) : step s = .next s.pwmTick := by
  unfold step
  split
  · rfl
  · next h' => rw [h] at h'; cases h'

/-- Settles O1, by the definition of a step. -/
theorem stepRunsFrontCommand : Obligations.StepRunsFrontCommand :=
  ⟨fun _ _ _ => rfl, fun _ h => step_empty h⟩

/-! ### Transactions (R2) -/

theorem addressOf_toNat (a2 a1 a0 : Byte) : (addressOf a2 a1 a0).toNat = 65536 * a2.toNat + 256 * a1.toNat + a0.toNat := by
  unfold addressOf
  simp only [BitVec.toNat_append, Nat.shiftLeft_eq]
  rw [← Nat.shiftLeft_eq, ← Nat.shiftLeft_eq, ← Nat.shiftLeft_add_eq_or_of_lt a1.isLt, ← Nat.shiftLeft_add_eq_or_of_lt a0.isLt]
  simp only [Nat.shiftLeft_eq]
  omega

theorem registerValue_toNat (lo hi : Byte) : (hi ++ lo : Half).toNat = lo.toNat + 256 * hi.toNat := by
  rw [BitVec.toNat_append, ← Nat.shiftLeft_add_eq_or_of_lt lo.isLt, Nat.shiftLeft_eq]
  omega

/-- The code of a PCTL write is its value's low three bits, and the rest stands above them (R4). -/
theorem pctlCommand_eq (value : Half) : pctlCommand value =
    match value.extractLsb' 0 3 with
    | 0 => .pctlNoCommand (value.extractLsb' 3 13)
    | 1 => .start (value.extractLsb' 3 13)
    | 2 => .haltSoft (value.extractLsb' 3 13)
    | 3 => .haltHard (value.extractLsb' 3 13)
    | 4 => .reset (value.extractLsb' 3 13)
    | c => .pctlReservedCommand c (value.extractLsb' 3 13) := by
  unfold pctlCommand
  generalize value.extractLsb' 3 13 = u
  generalize value.extractLsb' 0 3 = c
  revert c
  dsimp only
  intro c
  obtain h | h | h | h | h | h | h | h : c = 0 ∨ c = 1 ∨ c = 2 ∨ c = 3 ∨ c = 4 ∨ c = 5 ∨ c = 6 ∨ c = 7 := by
    revert c
    decide
  all_goals subst h; rfl

/-- The port operation of a command byte's upper half (R2). -/
def upperOp : Nat → Option PortOp
  | 0xA => some .readMemory
  | 0xB => some .writeMemory
  | 0xC => some .readRegister
  | 0xD => some .writeRegister
  | _ => none

theorem portOpOf_upper {cmd : Byte} {k : Nat} (h : cmd.toNat / 16 = k) : portOpOf cmd = upperOp k := by
  rw [← h]
  rfl

theorem lanesOf_cmd {cmd : Byte} {lanes : Lanes} (h : cmd.toNat % 16 = (match lanes with | .one => 1 | .four => 4)) :
    lanesOf cmd = some lanes := by
  unfold lanesOf
  rw [h]
  cases lanes <;> rfl

/-- The command of a transaction whose command byte names a port operation and a lane count (R2). -/
theorem Transaction.command_of {x : Transaction} {cmd : Byte} {rest : List Byte} {op : PortOp} {lanes : Lanes} (h : x.bytes = cmd :: rest)
    (ho : portOpOf cmd = some op) (hl : lanesOf cmd = some lanes) : x.command = op.command lanes rest x := by
  unfold Transaction.command
  rw [h]
  dsimp only
  rw [ho, hl]

theorem registerWrite_ignored {reg : Byte} (h : 3 ≤ reg.toNat) (value : Half) : registerWrite reg value = .registerWriteIgnored reg value true := by
  have ne (k : Byte) (hk : k.toNat < 3) : reg ≠ k := fun e => by rw [e] at h; omega
  unfold registerWrite
  rw [if_neg (ne 0 (by decide)), if_neg (ne 1 (by decide)), if_neg (ne 2 (by decide))]

/-- Settles O13, by the two tables of the command byte and what follows it. -/
theorem portTransactions : Obligations.PortTransactions := by
  refine ⟨fun x cmd lanes rest hb hl => ?_, fun x cmd rest hb hc => ?_, fun s x c hs hc => ?_⟩
  · have hlanes := lanesOf_cmd hl
    refine ⟨fun a2 a1 a0 more hr => ⟨addressOf a2 a1 a0, addressOf_toNat a2 a1 a0, fun h => ?_, fun h => ?_⟩, fun reg more hr h => ?_,
      fun reg lo hi more hr h => ?_, fun reg more hr hm h => ?_⟩
    · rw [Transaction.command_of hb (portOpOf_upper h) hlanes, hr]
      rfl
    · rw [Transaction.command_of hb (portOpOf_upper h) hlanes, hr]
      rfl
    · rw [Transaction.command_of hb (portOpOf_upper h) hlanes, hr]
      rfl
    · have hcmd : x.command = some (registerWrite reg (hi ++ lo)) := by
        rw [Transaction.command_of hb (portOpOf_upper h) hlanes, hr]
        rfl
      refine ⟨hi ++ lo, BitVec.extractLsb' 3 13 (hi ++ lo), BitVec.extractLsb' 0 3 (hi ++ lo), registerValue_toNat lo hi, ?_, ?_,
        fun e => ?_, fun e => ?_, fun e => ?_, fun e => ?_⟩
      · simp [BitVec.extractLsb'_toNat]
      · have := (hi ++ lo : Half).isLt
        rw [BitVec.extractLsb'_toNat, Nat.shiftRight_eq_div_pow]
        omega
      · subst e
        exact hcmd.trans (congrArg some (pctlCommand_eq _))
      · rw [hcmd, e]; rfl
      · rw [hcmd, e]; rfl
      · rw [hcmd, registerWrite_ignored e]
    · rw [Transaction.command_of hb (portOpOf_upper h) hlanes, hr]
      match more, hm with
      | [], _ => exact ⟨_, rfl⟩
      | [lo], _ => exact ⟨_, rfl⟩
  · unfold Transaction.command
    rw [hb]
    dsimp only
    split
    · next op lanes ho hl =>
      exfalso
      unfold portOpOf at ho
      unfold lanesOf at hl
      split at ho
      all_goals split at hl
      all_goals first | (cases ho; done) | (cases hl; done) | skip
      all_goals omega
    · rfl
  · unfold State.transact
    rw [hc]
    dsimp only
    rw [hs]
    exact congrArg (exec c) (show ({ s with pending := [] } : State) = s by rw [← hs])

end Sys2Proof.Machine
end

section
/-!
PROOF. What the port reads and writes (O14 to O16), the commands that are refused or dropped (O17), START (O18) and the resets (O20), and
the three timers of the bridge and the turn (O42).
-/
set_option Elab.async false

namespace Sys2Proof.Machine

/-! ### Registers (R2, R4, R5) -/

/-- A field of a value that a mask shows, where the mask has the field's bits all set. -/
theorem and_field {a b n k : Nat} (h : b / 2 ^ n % 2 ^ k = 2 ^ k - 1) : (a &&& b) / 2 ^ n % 2 ^ k = a / 2 ^ n % 2 ^ k := by
  rw [Nat.and_div_two_pow, Nat.and_mod_two_pow, h, Nat.and_two_pow_sub_one_eq_mod, Nat.mod_mod]

/-- The listed bits of PCTL read as they stand (R4). -/
theorem State.readPctl_listed (s : State) : s.readPctl &&& pctlListed = s.pctlBits &&& pctlListed := by
  have mask (p x m : Half) : ((p &&& m) ||| (x &&& ~~~m)) &&& m = p &&& m := by
    ext i hi
    simp only [BitVec.getElem_and, BitVec.getElem_or, BitVec.getElem_not]
    cases p[i] <;> cases x[i] <;> cases m[i] <;> rfl
  exact mask _ _ _

/-- A field of PCTL that lies within its listed bits. -/
theorem State.readPctl_field (s : State) (n k : Nat) (h : pctlListed.toNat / 2 ^ n % 2 ^ k = 2 ^ k - 1) :
    s.readPctl.toNat / 2 ^ n % 2 ^ k = s.pctlBits.toNat / 2 ^ n % 2 ^ k := by
  have := congrArg BitVec.toNat s.readPctl_listed
  rw [BitVec.toNat_and, BitVec.toNat_and] at this
  rw [← and_field h, this, and_field h]

theorem State.pctlBits_toNat (s : State) : s.pctlBits.toNat
    = s.exc.part.code + (if s.exc.clearing then 8 else 0) + 16 * s.exc.lastResult.code + 256 * s.exc.lastCmd.toNat := by
  have h1 : s.exc.part.code ≤ 4 := by cases s.exc.part <;> decide
  have h2 : s.exc.lastResult.code ≤ 1 := by cases s.exc.lastResult <;> decide
  have h3 := s.exc.lastCmd.isLt
  unfold State.pctlBits
  rw [BitVec.toNat_ofNat, Nat.mod_eq_of_lt]
  split <;> omega

theorem halfBytes_toNat (v : Half) : (v.setWidth 8 : Byte).toNat = v.toNat % 256 ∧ ((v >>> 8).setWidth 8 : Byte).toNat = v.toNat / 256 := by
  have := v.isLt
  rw [BitVec.toNat_setWidth, BitVec.toNat_setWidth, BitVec.toNat_ushiftRight, Nat.shiftRight_eq_div_pow]
  omega

theorem Notice.exists_bit (i : Nat) (h : i < 15) : ∃ k : Notice, k.bit = i := by
  match i, h with
  | 0, _ => exact ⟨.configResult, rfl⟩
  | 1, _ => exact ⟨.slotTaken, rfl⟩
  | 2, _ => exact ⟨.cueRefused, rfl⟩
  | 3, _ => exact ⟨.stripOverrun, rfl⟩
  | 4, _ => exact ⟨.voiceEnd, rfl⟩
  | 5, _ => exact ⟨.radioFrame, rfl⟩
  | 6, _ => exact ⟨.inboxFull, rfl⟩
  | 7, _ => exact ⟨.trip, rfl⟩
  | 8, _ => exact ⟨.estop, rfl⟩
  | 9, _ => exact ⟨.failsafe, rfl⟩
  | 10, _ => exact ⟨.slip, rfl⟩
  | 11, _ => exact ⟨.sensorLost, rfl⟩
  | 12, _ => exact ⟨.smokeAlert, rfl⟩
  | 13, _ => exact ⟨.supplyChange, rfl⟩
  | 14, _ => exact ⟨.halted, rfl⟩

theorem Notice.bit_lt (k : Notice) : k.bit < 15 := by
  cases k <;> decide

/-- ATTN is low exactly while a kind is latched and enabled (R5). -/
theorem State.attnLow_iff (s : State) :
    s.attnLow = true ↔ ∃ k : Notice, s.exc.nlat.getLsbD k.bit = true ∧ s.exc.nen.getLsbD k.bit = true := by
  have zero : s.exc.nlat &&& s.exc.nen = 0 ↔ ∀ k : Notice, ¬ (s.exc.nlat.getLsbD k.bit = true ∧ s.exc.nen.getLsbD k.bit = true) := by
    constructor
    · intro h k hk
      have := congrArg (fun x => x.getLsbD k.bit) h
      simp [hk.1, hk.2] at this
    · intro h
      apply BitVec.eq_of_getLsbD_eq
      intro i hi
      obtain ⟨k, rfl⟩ := Notice.exists_bit i hi
      rw [show (0 : BitVec 15).getLsbD k.bit = false from BitVec.getLsbD_zero, BitVec.getLsbD_and, ← Bool.not_eq_true, Bool.and_eq_true]
      exact h k
  unfold State.attnLow
  rw [bne_iff_ne, ne_eq, zero]
  exact Classical.not_forall_not

theorem State.readNlat_low (s : State) : s.readNlat.toNat % 32768 = s.exc.nlat.toNat := by
  have h : s.readNlat.setWidth 15 = s.exc.nlat := by
    unfold State.readNlat
    rw [BitVec.setWidth_or, BitVec.setWidth_and, show BitVec.setWidth 15 (0x8000 : Half) = 0#15 from by decide, BitVec.and_zero,
      BitVec.or_zero]
    exact BitVec.setWidth_setWidth_of_le _ (by decide)
  rw [← congrArg BitVec.toNat h, BitVec.toNat_setWidth]

/-- Settles O16, by the registers' listed bits. -/
theorem registerReadsAndWrites : Obligations.RegisterReadsAndWrites := by
  refine ⟨fun lanes reg s => ?_, fun value s hc => ⟨?_, ?_⟩⟩
  · obtain ⟨hlo, hhi⟩ := halfBytes_toNat (s.readRegister reg)
    have hex : ∃ t, exec (.readRegister lanes reg) s = .next t
        ∧ t = { s with port := { s.port with out := halfBytes (s.readRegister reg), hiZ := false }, freeCount := t.freeCount } := by
      show ∃ t, execReadRegister lanes reg s = .next t ∧ _
      unfold execReadRegister
      split
      · exact ⟨_, rfl, rfl⟩
      · exact ⟨_, rfl, rfl⟩
    obtain ⟨t, ht, hs⟩ := hex
    refine ⟨t, _, _, ht, hs, fun e => ?_, fun e => ?_, fun e => ?_, fun e => ?_, fun e => ?_⟩
    · subst e
      rw [show s.readRegister 3 = 7140 from rfl]
      decide
    · have ne (k : Byte) (hk : k.toNat ≤ 3) : reg ≠ k := fun h => by rw [h] at e; omega
      unfold State.readRegister
      rw [if_neg (ne 0 (by decide)), if_neg (ne 1 (by decide)), if_neg (ne 2 (by decide)), if_neg (ne 3 (by decide))]
      exact ⟨rfl, rfl⟩
    · rw [hlo, hhi]
      subst e
      show s.readNen.toNat % 256 + 256 * (s.readNen.toNat / 256) = _
      have : s.readNen.toNat = s.exc.nen.toNat := by
        have := s.exc.nen.isLt
        unfold State.readNen
        rw [BitVec.toNat_setWidth]
        omega
      omega
    · rw [hlo, hhi]
      subst e
      show s.readNlat.toNat % 256 + 256 * (s.readNlat.toNat / 256 % 128) = _
      have := s.readNlat_low
      omega
    · rw [hlo, hhi]
      subst e
      show s.readPctl.toNat % 256 % 8 = _ ∧ s.readPctl.toNat % 256 / 8 % 2 = _ ∧ s.readPctl.toNat % 256 / 16 % 2 = _
        ∧ s.readPctl.toNat / 256 % 8 = _
      have f0 : s.readPctl.toNat / 1 % 8 = s.pctlBits.toNat / 1 % 8 := s.readPctl_field 0 3 (by decide)
      have f3 : s.readPctl.toNat / 8 % 2 = s.pctlBits.toNat / 8 % 2 := s.readPctl_field 3 1 (by decide)
      have f4 : s.readPctl.toNat / 16 % 2 = s.pctlBits.toNat / 16 % 2 := s.readPctl_field 4 1 (by decide)
      have f8 : s.readPctl.toNat / 256 % 8 = s.pctlBits.toNat / 256 % 8 := s.readPctl_field 8 3 (by decide)
      rw [s.pctlBits_toNat] at f0 f3 f4 f8
      have h1 : s.exc.part.code ≤ 4 := by cases s.exc.part <;> decide
      have h2 : s.exc.lastResult.code ≤ 1 := by cases s.exc.lastResult <;> decide
      have h3 := s.exc.lastCmd.isLt
      by_cases hc : s.exc.clearing = true
      · rw [if_pos hc] at f0 f3 f4 f8 ⊢
        omega
      · rw [if_neg hc] at f0 f3 f4 f8 ⊢
        omega
  · refine ⟨{ s with exc := { s.exc with nlat := s.exc.nlat &&& ~~~(value.setWidth 15) } }, if_neg (by simp [hc]), rfl, fun k => ?_,
      State.attnLow_iff _⟩
    have := k.bit_lt
    simp [this, show k.bit < 16 by omega]
  · refine ⟨{ s with exc := { s.exc with nen := value.setWidth 15 } }, if_neg (by simp [hc]), rfl, fun k => ?_, State.attnLow_iff _⟩
    simp [k.bit_lt]

/-! ### Refused and dropped commands (R3, R4, R7) -/

/-- Settles O17, by the conditions that the commands test first. -/
theorem refusedAndDroppedCommands : Obligations.RefusedAndDroppedCommands := by
  refine ⟨fun u code s hc => ⟨fun hi hh => ?_, fun hr => ?_, fun hr hs => ?_, ?_⟩, fun u code value s hc => ?_, fun _ _ _ _ _ _ => ⟨rfl, rfl, rfl⟩⟩
  · show execStart u s = _
    unfold execStart
    rw [if_neg (by simp [hc])]
    split
    · next h => exact absurd h hi
    · next h => exact absurd h hh
    · rfl
  · show execHaltSoft u s = _
    unfold execHaltSoft
    rw [if_neg (by simp [hc]), if_neg hr]
    rfl
  · have hd : s.exc.part.driving = false := by
      cases h : s.exc.part <;> simp_all [PartState.driving]
    show execHaltHard u s = _
    unfold execHaltHard
    rw [if_neg (by simp [hc]), if_neg (by simp [hd])]
    rfl
  · show execPctlReservedCommand code u s = _
    unfold execPctlReservedCommand
    rw [if_neg (by simp [hc])]
    rfl
  · exact ⟨if_pos hc, if_pos hc, if_pos hc, if_pos hc, if_pos hc, if_pos hc, if_pos hc⟩

/-! ### Reads of exchange memory (R2, R3) -/

/-- The bytes shifted out from an address on, the first of them at place `j` among those due of its word (R3). -/
theorem readOut_getElem (m : Memory) (n a j : Nat) (late : List Nat) (i : Nat) (h : i < n) :
    (readOut m n a j late)[i]? = some
      (if (if (a % 4 + i) / 4 = 0 then j + i else (a % 4 + i) % 4) < late.getD ((a % 4 + i) / 4) 0 then 0 else m.read (wrapAddr (a + i))) := by
  induction n generalizing a j late i with
  | zero => omega
  | succ n ih =>
    have ha : a % 4 < 4 := Nat.mod_lt _ (by decide)
    unfold readOut
    dsimp only
    cases i with
    | zero =>
      have h0 : (a % 4 + 0) / 4 = 0 := by omega
      rw [h0]
      split <;> simp [List.head?_eq_getElem?, List.headD_eq_head?_getD]
    | succ i =>
      split
      · next hw =>
        rw [List.getElem?_cons_succ, ih _ _ _ _ (by omega)]
        have e1 : (a % 4 + (i + 1)) / 4 = ((a + 1) % 4 + i) / 4 + 1 := by omega
        have e2 : (a % 4 + (i + 1)) % 4 = ((a + 1) % 4 + i) % 4 := by omega
        have e3 : (if ((a + 1) % 4 + i) / 4 = 0 then 0 + i else ((a + 1) % 4 + i) % 4) = ((a + 1) % 4 + i) % 4 := by
          split <;> omega
        rw [e1, e2, e3, if_neg (by omega : ¬ ((a + 1) % 4 + i) / 4 + 1 = 0), Nat.add_assoc a 1 i, Nat.add_comm 1 i]
        simp [List.getD_eq_getElem?_getD]
      · next hw =>
        rw [List.getElem?_cons_succ, ih _ _ _ _ (by omega)]
        have e1 : (a + 1) % 4 + i = a % 4 + (i + 1) := by omega
        rw [e1, Nat.add_assoc a 1 i, Nat.add_comm 1 i, Nat.add_assoc j 1 i, Nat.add_comm 1 i]

theorem readOut_length (m : Memory) (n a j : Nat) (late : List Nat) : (readOut m n a j late).length = n := by
  induction n generalizing a j late with
  | zero => rfl
  | succ n ih =>
    unfold readOut
    dsimp only
    split <;> simp [ih]

/-- With no request of the sound engine waiting, a run of its grants is empty. -/
theorem State.serveSound_idle' {s : State} (h : s.soundWaits = false) : s.serveSound = s := State.grantWhile_idle h _

theorem State.portGrant_eq (s : State) :
    s.portGrant = { s with mem := s.mem.writeCells (s.port.awaiting.getD []), port := { s.port with awaiting := none } } := by
  unfold State.portGrant
  split
  · next q h => rw [h]; rfl
  · next h =>
    have : s.port = { s.port with awaiting := none } := by rw [← h]
    rw [h, ← this]
    rfl

theorem wrapAddr_add (a i : Nat) : wrapAddr (wrapAddr a + i) = (a + i) % 524288 := by
  simp [wrapAddr, memorySize, Nat.add_mod]

/-- Settles O14, by the bytes that a read shifts out (`readOut_getElem`). -/
theorem readMemoryDelivers : Obligations.ReadMemoryDelivers := by
  intro lanes addr n late s
  refine ⟨fun hc hn hs => ?_, ?_, fun hc ha hs => ?_⟩
  · refine ⟨_, rfl, ?_⟩
    rw [if_neg (by omega), State.serveSound_idle' hs, State.portGrant_eq, hc]
    refine ⟨rfl, rfl, rfl, readOut_length _ _ _ _ _, fun i hi => ?_⟩
    show (readOut _ n (wrapAddr addr.toNat) 0 late)[i]? = _
    rw [readOut_getElem _ _ _ _ _ _ hi]
    have e : wrapAddr addr.toNat % 4 = addr.toNat % 4 := by unfold wrapAddr memorySize; omega
    have hd : (if (addr.toNat % 4 + i) / 4 = 0 then 0 + i else (addr.toNat % 4 + i) % 4) = portDue addr.toNat i := by
      unfold portDue portWord
      rw [Nat.zero_add]
    rw [e, hd, wrapAddr_add]
    rfl
  · show execReadMemory lanes addr 0 late s = _
    unfold execReadMemory readBytesOut
    cases s.exc.clearing <;> rfl
  · show execReadMemory lanes addr n late s = _
    have hp : (if n = 0 then s else s.serveSound.portGrant) = s := by
      split
      · rfl
      · rw [State.serveSound_idle' hs]
        unfold State.portGrant
        rw [ha]
    unfold execReadMemory
    rw [hp, hc]
    rfl

/-! ### Writes of exchange memory (R3) -/

/-- The words gathered are the bytes at their addresses, in order. -/
theorem gather_flatten (data : List Byte) (a : Nat) (w : List Host.Cell) :
    (gather data a w).flatten = w.reverse ++ (List.range data.length).map fun i => (wrapAddr (a + i), data.getD i 0) := by
  induction data generalizing a w with
  | nil => cases w <;> simp [gather]
  | cons b rest ih =>
    have hr : ((List.range (rest.length + 1)).map fun i => (wrapAddr (a + i), (b :: rest).getD i 0))
        = (wrapAddr a, b) :: (List.range rest.length).map fun i => (wrapAddr (a + 1 + i), rest.getD i 0) := by
      rw [List.range_succ_eq_map, List.map_cons, List.map_map]
      congr 1
      refine List.map_congr_left fun i _ => ?_
      simp [Nat.add_assoc, Nat.add_comm 1 i]
    rw [List.length_cons, hr]
    unfold gather
    split
    · rw [List.flatten_cons, ih]
      simp
    · rw [ih]
      simp

/-- With every grant given before the next word boundary, the words are written in order (R3). -/
theorem passWords_prompt (ws : List (List Host.Cell)) (q : Option (List Host.Cell)) (m : Memory) :
    settleWrite (passWords ws [] (q.map fun x => (x, 0)) m).1 (passWords ws [] (q.map fun x => (x, 0)) m).2
      = (none, (m.writeCells (q.getD [])).writeCells ws.flatten) := by
  induction ws generalizing q m with
  | nil => cases q <;> rfl
  | cons w ws ih =>
    cases q with
    | none =>
      show settleWrite (passWords ws [] (some (w, 0)) m).1 (passWords ws [] (some (w, 0)) m).2 = _
      have := ih (some w) m
      rw [List.flatten_cons, Memory.writeCells_append]
      exact this
    | some q =>
      show settleWrite (passWords ws [] (some (w, 0)) (m.writeCells q)).1 (passWords ws [] (some (w, 0)) (m.writeCells q)).2 = _
      have := ih (some w) (m.writeCells q)
      rw [List.flatten_cons, Memory.writeCells_append]
      exact this

theorem awaitedAt_prompt (w : Option (List Host.Cell)) : awaitedAt w [] = (w.map fun x => (x, 0), []) := by
  cases w <;> rfl

/-- A transaction of the port outside CLEARING, with no request of the sound engine waiting. -/
theorem execWriteMemory_eq (lanes : Lanes) (addr : BitVec 24) (data : List Byte) (tail : Nat) (delays : List Nat) {s : State}
    (hc : s.exc.clearing = false) (hs : s.soundWaits = false) :
    exec (.writeMemory lanes addr data tail delays) s = .next (s.portWrite (wrapAddr addr.toNat) data delays) := by
  show execWriteMemory lanes addr data tail delays s = _
  unfold execWriteMemory
  rw [if_neg (by simp [hc]), State.serveSound_idle' hs, ite_self]

/-- Eight bytes from an aligned address are two words (R3). -/
theorem gather_two_words {a : Nat} (h : a % 4 = 0) (ha : a < 524288) (b0 b1 b2 b3 c0 c1 c2 c3 : Byte) :
    ∃ second, gather [b0, b1, b2, b3, c0, c1, c2, c3] a [] = [[(a, b0), (a + 1, b1), (a + 2, b2), (a + 3, b3)], second] := by
  have m1 : ¬ (a + 1) % 4 = 0 := by omega
  have m2 : ¬ (a + 1 + 1) % 4 = 0 := by omega
  have m3 : ¬ (a + 1 + 1 + 1) % 4 = 0 := by omega
  have m4 : (a + 1 + 1 + 1 + 1) % 4 = 0 := by omega
  have m5 : ¬ (a + 1 + 1 + 1 + 1 + 1) % 4 = 0 := by omega
  have m6 : ¬ (a + 1 + 1 + 1 + 1 + 1 + 1) % 4 = 0 := by omega
  have m7 : ¬ (a + 1 + 1 + 1 + 1 + 1 + 1 + 1) % 4 = 0 := by omega
  have m8 : (a + 1 + 1 + 1 + 1 + 1 + 1 + 1 + 1) % 4 = 0 := by omega
  have w (i : Nat) (hi : i < 4) : wrapAddr (a + i) = a + i := by
    unfold wrapAddr memorySize
    omega
  refine ⟨[(wrapAddr (a + 1 + 1 + 1 + 1), c0), (wrapAddr (a + 1 + 1 + 1 + 1 + 1), c1), (wrapAddr (a + 1 + 1 + 1 + 1 + 1 + 1), c2),
    (wrapAddr (a + 1 + 1 + 1 + 1 + 1 + 1 + 1), c3)], ?_⟩
  simp only [gather, m1, m2, m3, m4, m5, m6, m7, m8, if_true, if_false]
  simp only [List.reverse_cons, List.reverse_nil, List.nil_append, List.cons_append]
  rw [show wrapAddr a = a from w 0 (by decide), w 1 (by decide), show a + 1 + 1 = a + 2 from rfl, w 2 (by decide),
    show a + 2 + 1 = a + 3 from rfl, w 3 (by decide)]

/-- Settles O15, by the words gathered and the order in which they are passed to the arbiter. -/
theorem writeMemoryStores : Obligations.WriteMemoryStores := by
  refine ⟨⟨fun lanes addr data tail s hc hs => ⟨?_, fun k => ?_⟩, fun lanes addr data tail delays s hc => if_pos hc⟩,
    fun lanes addr b0 b1 b2 b3 c0 c1 c2 c3 tail s ha hc hw hs => ?_⟩
  · rw [execWriteMemory_eq _ _ _ _ _ hc hs]
    unfold State.portWrite writeTransaction
    dsimp only
    rw [awaitedAt_prompt, passWords_prompt, gather_flatten]
    simp only [List.reverse_nil, List.nil_append, wrapAddr_add]
  · rw [execWriteMemory_eq _ _ _ _ _ hc hs]
    unfold State.portWrite writeTransaction
    cases hq : s.port.awaiting with
    | none =>
      refine congrArg Host.Outcome.next ?_
      show { s with port := { s.port with awaiting := none } } = s
      rw [← hq]
    | some q =>
      refine congrArg Host.Outcome.next ?_
      show { s with port := { s.port with awaiting := some q } } = s
      rw [← hq]
  · have hwrap : wrapAddr addr.toNat = addr.toNat % 524288 := rfl
    obtain ⟨second, hg⟩ := gather_two_words (a := addr.toNat % 524288) (by omega) (Nat.mod_lt _ (by decide)) b0 b1 b2 b3 c0 c1 c2 c3
    dsimp only
    rw [execWriteMemory_eq _ _ _ _ _ hc hs, execWriteMemory_eq _ _ _ _ _ hc hs]
    unfold State.portWrite writeTransaction
    dsimp only
    rw [hw, hwrap, hg]
    have hport : { s.port with awaiting := none } = s.port := by rw [← hw]
    refine ⟨congrArg Host.Outcome.next ?_, rfl⟩
    exact congrArg (fun p => ({ s with mem := s.mem.writeCells _, port := p } : State)) hport

/-! ### START and the resets (R7, R22, R23) -/

/-- The directory at a START: the part state's mirror, and the result NONE with group, index and reason 0 (R7). -/
theorem State.adoptionMirror_read {m : Memory} (h : m.wf = true) (p a : Nat) :
    ((m.writeCells (leCells 0x10 1 p)).writeCells (leCells 0x11 1 0 ++ leCells 0x12 1 0 ++ leCells 0x13 1 0 ++ leCells 0x14 1 0)).read a
      = if a = 0x10 then BitVec.ofNat 8 p else if 0x11 ≤ a ∧ a ≤ 0x14 then 0 else m.read a := by
  have h0 := Memory.wf_writeCells (q := leCells 0x10 1 p) (leCells_inside (by decide)) h
  have h1 := Memory.wf_writeCells (q := leCells 0x11 1 0) (leCells_inside (by decide)) h0
  have h2 := Memory.wf_writeCells (q := leCells 0x12 1 0) (leCells_inside (by decide)) h1
  have h3 := Memory.wf_writeCells (q := leCells 0x13 1 0) (leCells_inside (by decide)) h2
  rw [Memory.writeCells_append, Memory.writeCells_append, Memory.writeCells_append, Memory.read_writeField (by decide) h3,
    Memory.read_writeField (by decide) h2, Memory.read_writeField (by decide) h1, Memory.read_writeField (by decide) h0,
    Memory.read_writeField (by decide) h]
  by_cases e : a = 0x10
  · subst e
    simp
  · rw [if_neg e]
    by_cases e1 : 0x11 ≤ a ∧ a ≤ 0x14
    · rw [if_pos e1]
      obtain rfl | rfl | rfl | rfl : a = 0x11 ∨ a = 0x12 ∨ a = 0x13 ∨ a = 0x14 := by omega
      all_goals simp
    · rw [if_neg e1, if_neg (by omega), if_neg (by omega), if_neg (by omega), if_neg (by omega), if_neg (by omega)]

/-- Settles O18, by the directory's bytes at a START. -/
theorem startBeginsAdoption : Obligations.StartBeginsAdoption := by
  intro u s hm hc hp
  rcases hp with hp | hp
  · refine ⟨((s.recordCommand startCode .accepted).leaveIdle.beginAdoption false), ?_, rfl, ?_, State.adoptionMirror_read hm _, ?_, fun _ => ⟨rfl, rfl⟩⟩
    · show execStart u s = _
      unfold execStart
      rw [if_neg (by simp [hc]), hp]
    · rw [hp]; rfl
    · intro h
      rw [hp] at h
      cases h
  · refine ⟨((s.recordCommand startCode .accepted).beginAdoption true), ?_, rfl, ?_, State.adoptionMirror_read hm _, fun _ => ⟨rfl, rfl⟩, ?_⟩
    · show execStart u s = _
      unfold execStart
      rw [if_neg (by simp [hc]), hp]
    · rw [hp]; rfl
    · intro h
      rw [hp] at h
      cases h

theorem identityMemory_read {a : Nat} (h : 4 ≤ a) : identityMemory.read a = 0 := by
  unfold identityMemory
  simp only [Memory.read]
  rw [if_neg (by omega), if_neg (by omega), if_neg (by omega)]

/-- Settles O20, by the values of State.reset and what a soft reset clears. -/
theorem resetValues : Obligations.ResetValues := by
  refine ⟨fun u s hc => ⟨s.softReset, if_neg (by simp [hc]), rfl, rfl, rfl, fun a => ?_⟩, fun s => ⟨rfl, rfl⟩, by decide, by decide,
    fun a h => identityMemory_read h, rfl, rfl, rfl, rfl, rfl, rfl, rfl, rfl⟩
  show s.mem.softCleared.read a = _
  unfold Memory.softCleared
  rw [Memory.read_clear, Memory.read_clear]
  by_cases h1 : 0x100 ≤ a ∧ a ≤ 0x4FF
  · rw [if_pos (by omega), if_pos (.inr h1)]
  · rw [if_neg (by omega)]
    by_cases h2 : 0x04 ≤ a ∧ a ≤ 0x16
    · rw [if_pos (by omega), if_pos (.inl h2)]
    · rw [if_neg (by omega), if_neg (by omega)]

/-! ### The timers of the bridge and the turn (R56, R70, R72) -/

theorem Leg.elapse_stays {g : Leg} (h : g.delayed = none ∨ (g.delayed = some .high ∧ g.low = true) ∨ (g.delayed = some .low ∧ g.high = true)) :
    g.elapse = g := by
  unfold Leg.elapse
  rcases h with h | ⟨h, h'⟩ | ⟨h, h'⟩
  · rw [h]
  · rw [h]
    exact if_pos h'
  · rw [h]
    exact if_pos h'

theorem Leg.elapse_high {g : Leg} (h : g.delayed = some .high) (h' : g.low = false) :
    g.elapse = { g with high := true, deadHigh := 0, delayed := none } := by
  unfold Leg.elapse
  rw [h]
  exact if_neg (by simp [h'])

theorem Leg.elapse_low {g : Leg} (h : g.delayed = some .low) (h' : g.high = false) :
    g.elapse = { g with low := true, deadLow := 0, delayed := none } := by
  unfold Leg.elapse
  rw [h]
  exact if_neg (by simp [h'])

theorem State.onChan_self (s : State) (m : Motor) {f : Channel → Channel} (h : f (s.chan m) = s.chan m) : s.onChan m f = s := by
  have e : s.bfu.chans.set m (s.bfu.chans.get m) = s.bfu.chans := by cases m <;> rfl
  unfold State.onChan
  rw [show f (s.bfu.chans.get m) = s.bfu.chans.get m from h, e]

/-- Settles O42, by the acts of a half-bridge at the end of its dead time. -/
theorem bridgeAndTurnTimers : Obligations.BridgeAndTurnTimers := by
  refine ⟨fun s => ⟨fun f h => ?_, fun h => ?_, fun w h hw => ?_, fun h => ?_, fun h => ?_⟩, fun s m l => ?_⟩
  · show execSettleTimeElapsed s = _
    unfold execSettleTimeElapsed
    rw [h]
  · show execSettleTimeElapsed s = _
    unfold execSettleTimeElapsed
    rw [h]
  · show execSettleTimeElapsed s = _
    obtain ⟨p, f⟩ := w
    unfold execSettleTimeElapsed
    rw [h]
    cases p with
    | settling => exact absurd rfl hw
    | converting => rfl
    | ending => rfl
  · exact if_pos (Option.isSome_iff_ne_none.mpr h)
  · exact if_neg (by rw [h]; decide)
  · cases l with
    | leg1 =>
      refine ⟨fun h => ?_, fun h h' => ?_, fun h h' => ?_⟩
      · refine congrArg Host.Outcome.next (s.onChan_self m ?_)
        show { s.chan m with leg1 := (s.chan m).leg1.elapse } = _
        rw [Leg.elapse_stays h]
      · exact congrArg (fun x => Host.Outcome.next (s.onChan m fun c => { c with leg1 := x })) (Leg.elapse_high h h')
      · exact congrArg (fun x => Host.Outcome.next (s.onChan m fun c => { c with leg1 := x })) (Leg.elapse_low h h')
    | leg2 =>
      refine ⟨fun h => ?_, fun h h' => ?_, fun h h' => ?_⟩
      · refine congrArg Host.Outcome.next (s.onChan_self m ?_)
        show { s.chan m with leg2 := (s.chan m).leg2.elapse } = _
        rw [Leg.elapse_stays h]
      · exact congrArg (fun x => Host.Outcome.next (s.onChan m fun c => { c with leg2 := x })) (Leg.elapse_high h h')
      · exact congrArg (fun x => Host.Outcome.next (s.onChan m fun c => { c with leg2 := x })) (Leg.elapse_low h h')

end Sys2Proof.Machine
end

section
/-!
PROOF. HALT_SOFT and HALT_HARD (O19), by what an entry to HALTED looks at of the state before it; and the scans that leave the cue strip
alone (O27 to O30) with the AT_CHUFF take (O34), by what each judgement of the drive slot makes of the state.
-/
set_option Elab.async false

namespace Sys2Proof.Machine

/-! ### What an entry to HALTED looks at (R13) -/

/-- The speed regulator as an entry to HALTED leaves it, but for its motors (R62). -/
def Srg.halted (x : Srg) (p : PerMotor SrgMotor) : Srg :=
  { x with
    traction := if x.traction.ends then x.traction else .standing, r := 0, brakeOrder := false, tick := none, regTimer := false,
    turnTimer := none, turnMark := false, motors := p }

/-- Two states that an entry to HALTED makes the same facts of: they agree in everything that the entry keeps. -/
structure HaltSame (s u : State) : Prop where
  mem    : ∀ a, a ≠ 0x10 → u.mem.read a = s.mem.read a
  srg    : ∀ p, u.srg.halted p = s.srg.halted p
  motors : ∀ m, (u.srg.motors.get m).vf = (s.srg.motors.get m).vf
  bfu    : u.bfu.trip = s.bfu.trip ∧ u.bfu.drvflt = s.bfu.drvflt
  dir    : ∀ m, (u.chan m).dir = (s.chan m).dir
  chk    : u.chk.lastSensor = s.chk.lastSensor ∧ u.chk.source = s.chk.source ∧ u.chk.interval = s.chk.interval
    ∧ u.chk.lastChuff = s.chk.lastChuff ∧ u.chk.count = s.chk.count
  snd    : u.snd.voices = s.snd.voices ∧ u.snd.current = s.snd.current ∧ u.snd.endCount = s.snd.endCount
  smk    : u.smk = s.smk
  lgt    : u.lgt = s.lgt
  rest   : u.cfg = s.cfg ∧ u.rrx = s.rrx ∧ u.sup = s.sup ∧ u.port = s.port
  exc    : u.exc.lastTaken = s.exc.lastTaken ∧ u.exc.cueTake = s.exc.cueTake ∧ u.exc.inboxPut = s.exc.inboxPut
    ∧ u.exc.slotState = s.exc.slotState

theorem VoicesShed.of {s u t : State} (hv : ∀ v, u.voice v = s.voice v) (hc : u.snd.current = s.snd.current)
    (hn : u.snd.endCount = s.snd.endCount) (h : VoicesShed u t) : VoicesShed s t := by
  obtain ⟨h1, h2, h3⟩ := h
  simp only [hv, hc, hn] at h1 h2 h3
  exact ⟨h1, h2, h3⟩

theorem HaltedFacts.of {s u t : State} (h : HaltSame s u) (f : HaltedFacts u t) : HaltedFacts s t := by
  obtain ⟨drive, motors⟩ := f.drive
  obtain ⟨bridges, chans⟩ := f.bridges
  obtain ⟨k1, k2, k3, k4, k5⟩ := h.chk
  obtain ⟨lamps, pwm⟩ := f.lamps
  obtain ⟨cfg, rrx, sup, port, e1, e2, e3, e4⟩ := f.untouched
  obtain ⟨c1, c2, c3, c4⟩ := h.rest
  obtain ⟨x1, x2, x3, x4⟩ := h.exc
  have sound : ∀ v, u.voice v = s.voice v := fun v => congrArg (fun p => Octet.get p v) h.snd.1
  refine ⟨f.part, fun a => ?_, f.notice, ⟨drive.trans (h.srg _), fun m => ?_⟩, ⟨?_, fun m => ?_⟩, ?_,
    f.voices.of sound h.snd.2.1 h.snd.2.2, f.squeal, ?_, ⟨?_, fun k => ?_⟩,
    cfg.trans c1, rrx.trans c2, sup.trans c3, port.trans c4, e1.trans x1, e2.trans x2, e3.trans x3, e4.trans x4⟩
  · rw [f.mirror]
    by_cases ha : a = 0x10
    · rw [if_pos ha, if_pos ha]
    · rw [if_neg ha, if_neg ha, h.mem a ha]
  · rw [motors]
    exact congrArg (fun x => ({ vf := x } : SrgMotor)) (h.motors m)
  · rw [bridges]
    simp only [h.bfu.1, h.bfu.2]
  · rw [← h.dir]
    exact chans m
  · rw [f.chuff]
    simp only [k1, k2, k3, k4, k5]
  · rw [f.smoke, h.smk]
  · rw [lamps, h.lgt]
  · rw [pwm, h.lgt]

theorem State.setPart_read {s : State} (p : PartState) (hw : s.mem.wf = true) (a : Nat) :
    (s.setPart p).mem.read a = if a = 0x10 then BitVec.ofNat 8 p.code else s.mem.read a := by
  show (s.mem.writeCells (leCells 0x10 1 _)).read a = _
  rw [Memory.read_writeField (by decide) hw]
  by_cases h : a = 0x10
  · subst h
    simp
  · rw [if_neg (by omega), if_neg h]

/-- STOPPING begun with the stop order (R12, R31). -/
def State.softHalt (s : State) : State := ((s.recordCommand haltSoftCode .accepted).setPart .stopping).dropChuff.stopOrder

theorem State.softHalt_same {s : State} (hw : s.mem.wf = true) : HaltSame s s.softHalt :=
  ⟨fun a ha => by
    have := State.setPart_read (s := s.recordCommand haltSoftCode .accepted) .stopping hw a
    rw [if_neg ha] at this
    exact this,
    fun _ => rfl, fun _ => rfl, ⟨rfl, rfl⟩, fun _ => rfl, ⟨rfl, rfl, rfl, rfl, rfl⟩, ⟨rfl, rfl, rfl⟩, rfl, rfl, ⟨rfl, rfl, rfl, rfl⟩,
    ⟨rfl, rfl, rfl, rfl⟩⟩

theorem State.recordCommand_same (s : State) (code : BitVec 3) (r : CmdResult) : HaltSame s (s.recordCommand code r) :=
  ⟨fun _ _ => rfl, fun _ => rfl, fun _ => rfl, ⟨rfl, rfl⟩, fun _ => rfl, ⟨rfl, rfl, rfl, rfl, rfl⟩, ⟨rfl, rfl, rfl⟩, rfl, rfl,
    ⟨rfl, rfl, rfl, rfl⟩, ⟨rfl, rfl, rfl, rfl⟩⟩

/-- SMK's and LGT's shares of an entry to HALTED, and the notice (R13, R144, R156). -/
def State.haltLast (s : State) : State :=
  { s.haltSmoke.haltLights with exc := { s.haltSmoke.haltLights.exc with chuffHeld := false } }.latch .halted

theorem State.haltLast_exc (s : State) : s.haltLast.exc = { s.exc with chuffHeld := false, nlat := s.exc.nlat ||| 0x4000 } := rfl

/-- An entry to HALTED keeps EXC but for the part state, the notices, the AT_CHUFF take and the outcome a scan keeps (R13). -/
theorem State.enterHalted_exc (s : State) : ∃ nlat scan, s.enterHalted.exc = { s.exc with
    part := .halted, nlat := nlat, chuffHeld := false, scan := scan } := by
  have e : s.enterHalted = ((s.setPart .halted).haltTraction.haltBridge.haltChuff).haltSound.haltLast := rfl
  obtain ⟨-, -, -, -, -, -, -, -, -, a⟩ := s.haltDrive_spec.fields
  generalize (s.setPart .halted).haltTraction.haltBridge.haltChuff = u at e a
  obtain ⟨-, -, -, -, -, -, -, -, -, -, -, b⟩ := (State.haltSound_soundOnly u).fields
  rw [e, State.haltLast_exc, b, a]
  exact ⟨_, _, rfl⟩

theorem finish_idle {s : State} (h : s.scanQuiet) : finish s = .next s := by
  unfold finish
  split
  · next hk => exact absurd (h _ hk) (by simp)
  · rfl

theorem State.enterHalted_lastCmd (s : State) : s.enterHalted.exc.lastCmd = s.exc.lastCmd := by
  obtain ⟨_, _, h⟩ := s.enterHalted_exc
  rw [h]

/-- Where its end condition does not hold STOPPING goes on (R12). -/
theorem State.endStopping_stays {s : State} (ht : s.srg.traction.ends = false) (hd : s.sup.state ≠ .dark) : s.endStopping = s := by
  unfold State.endStopping
  rw [if_neg]
  rintro ⟨-, h | h⟩
  · exact absurd (ht.symm.trans h) (by decide)
  · exact hd h

theorem State.endStopping_ends {s : State} (hp : s.exc.part = .stopping) (h : s.srg.traction.ends = true ∨ s.sup.state = .dark) :
    s.endStopping = s.enterHalted := if_pos ⟨hp, h⟩

/-- HALT_SOFT in RUNNING (R7, R12). -/
theorem exec_haltSoft {u : BitVec 13} {s : State} (hc : s.exc.clearing = false) (hp : s.exc.part = .running) :
    exec (.haltSoft u) s = finish s.softHalt.endStopping := by
  show execHaltSoft u s = _
  unfold execHaltSoft
  rw [if_neg (by simp [hc]), if_pos hp]
  rfl

/-- HALT_HARD in RUNNING and STOPPING (R7, R13). -/
theorem exec_haltHard {u : BitVec 13} {s : State} (hc : s.exc.clearing = false) (hp : s.exc.part.driving = true) :
    exec (.haltHard u) s = finish (s.recordCommand haltHardCode .accepted).enterHalted := by
  show execHaltHard u s = _
  unfold execHaltHard
  rw [if_neg (by simp [hc]), if_pos hp]

/-- Settles O19, by what an entry to HALTED makes of the state that the command has recorded itself in. -/
theorem haltsStopOrHalt : Obligations.HaltsStopOrHalt := by
  refine ⟨fun u s hw hq hc hp ht hd => ?_, fun u s hw hs hc => ?_⟩
  · refine ⟨s.softHalt, ?_, rfl, rfl, State.setPart_read (s := s.recordCommand haltSoftCode .accepted) .stopping hw⟩
    rw [exec_haltSoft hc hp, State.endStopping_stays (s := s.softHalt) ht hd]
    exact finish_idle hq
  · have hard : HaltedFacts s (s.recordCommand haltHardCode .accepted).enterHalted :=
      (State.enterHalted_facts (s := s.recordCommand haltHardCode .accepted) hw).of (s.recordCommand_same _ _)
    have hw' : s.softHalt.mem.wf = true :=
      State.wf_writeField (s := s.recordCommand haltSoftCode .accepted) (a := 0x10) (n := 1) (by decide) hw
    have soft : HaltedFacts s s.softHalt.enterHalted := (State.enterHalted_facts hw').of (State.softHalt_same hw)
    refine ⟨(s.recordCommand haltHardCode .accepted).enterHalted, s.softHalt.enterHalted, fun hp => ⟨?_, hard, ?_, ?_⟩, fun hp ht => ⟨?_, soft, ?_, ?_⟩⟩
    · rw [exec_haltHard hc hp]
      refine finish_none ((State.enterHalted_act ?_).scan hs)
      show s.exc.part ≠ .adopting
      intro h
      rw [h] at hp
      cases hp
    · rw [State.enterHalted_lastCmd]
      rfl
    · exact (State.enterHalted_spec _).1
    · rw [exec_haltSoft hc hp, State.endStopping_ends (s := s.softHalt) rfl ht]
      refine finish_none ((State.enterHalted_act ?_).scan hs)
      show PartState.stopping ≠ .adopting
      decide
    · rw [State.enterHalted_lastCmd]
      rfl
    · exact (State.enterHalted_spec _).1

/-! ### The drive slot (R15, R16) -/

theorem Memory.slotHolds_congr {m m' : Memory} {x : Slot} (h : ∀ a, 0x500 ≤ a → a < 0x507 → m'.read a = m.read a) (hx : m.slotHolds x) :
    m'.slotHolds x := by
  obtain ⟨h0, h1, h2, h3, h4, h5⟩ := hx
  refine ⟨?_, ?_, ?_, ?_, ?_, ?_⟩
  · rw [h _ (by decide) (by decide), h0]
  · rw [h _ (by decide) (by decide), h1]
  · rw [Memory.readLe_congr fun b _ _ => h b (by omega) (by omega), h2]
  · rw [h _ (by decide) (by decide), h3]
  · rw [h _ (by decide) (by decide), h4]
  · rw [h _ (by decide) (by decide), h5]

/-- The request that a valid setpoint makes, before the zero request it may be (R25, R28). -/
def State.slotRequest (s : State) (x : Slot) : State :=
  { s with drq := { s.drq with
      source := .host, origin := if x.form = 0 then .speedUnits (min x.value 4095) else .throttle (min x.value 200),
      dir := if x.direction = 0 then .forward else if x.direction = 1 then .reverse else s.drq.dir,
      s := (if x.form = 0 then min x.value 4095 else curveValue s.cfg.curve (min x.value 200)) / (if s.drq.shunt then 2 else 1) } }

theorem deriveS_speedUnits (points : List Nat) (su : Nat) (shunt : Bool) :
    deriveS points (.speedUnits su) shunt = su / (if shunt then 2 else 1) := by
  cases shunt
  · exact (Nat.div_one _).symm
  · rfl

/-- A valid setpoint is taken (R16). -/
theorem State.judgeSlot_request (s : State) {x : Slot} (he : x.emergency = 0) (hf : x.form ≤ 1) (hd : x.direction ≤ 2) (hm : x.moment ≤ 3) :
    s.judgeSlot x = ((s.slotRequest x).zeroRequest, .taken) := by
  unfold State.judgeSlot
  rw [if_neg (by omega), if_neg (by omega), if_neg (by omega)]
  split
  · next h =>
    unfold State.slotRequest State.request State.derive
    dsimp only
    rw [deriveS_speedUnits, if_pos h, if_pos h]
    rfl
  · next h =>
    unfold State.slotRequest State.request State.derive
    dsimp only
    rw [deriveS_throttle, if_neg h, if_neg h]
    rfl

/-- A state in which a take has ended (R16). -/
def State.slotTaken (s : State) (tally : Byte) (x : SlotState) (m : Memory) : State :=
  { s with exc := { s.exc with lastTaken := tally, slotState := x, nlat := s.exc.nlat ||| 2 }, mem := m }

/-- A take, by the slot's content as judged. -/
theorem State.takeSlot_eq {s u : State} {x : Slot} {r : SlotState} (hx : s.mem.slotHolds x) (hj : s.judgeSlot x = (u, r))
    (hm : u.mem = s.mem) (hw : s.mem.wf = true) :
    s.takeSlot = u.slotTaken x.tally r s.takeSlot.mem
    ∧ ∀ a, s.takeSlot.mem.read a = if a = 0x15 then x.tally else if a = 0x16 then BitVec.ofNat 8 r.code else s.mem.read a := by
  have e : s.takeSlot = ((u.setLastTaken x.tally).setSlotState r).latch .slotTaken := by
    unfold State.takeSlot
    dsimp only
    rw [Memory.readSlot_of_holds hx, hj]
  obtain ⟨h1, -, h3⟩ := State.endTake_spec (s := u) x.tally r (by rw [hm]; exact hw)
  rw [e, ← hm]
  exact ⟨h1, h3⟩

theorem BitVec.or_swap {n : Nat} (a b c : BitVec n) : a ||| b ||| c = a ||| c ||| b := by
  rw [BitVec.or_assoc, BitVec.or_comm b, BitVec.or_assoc]

/-- A take ends alike before and after the request that it hands on has been applied. -/
theorem RequestTaken.slotTaken {s t : State} (h : RequestTaken s t) (tally : Byte) (x : SlotState) (m : Memory) :
    RequestTaken (s.slotTaken tally x m) (t.slotTaken tally x m) := by
  refine ⟨fun hn => by rw [h.1 hn], fun hl hz => ?_⟩
  have c := h.2 hl hz
  have e := c.only
  refine ⟨?_, c.chuff, c.rest, c.slip, c.kept, fun q => ?_, fun q r => ?_, fun q r => ?_⟩
  · unfold State.slotTaken
    dsimp only
    rw [e]
  · obtain ⟨a1, a2, a3, a4⟩ := c.held q
    exact ⟨a1, a2, congrArg (· ||| 2) a3, a4⟩
  · obtain ⟨a1, a2, a3, a4, a5⟩ := c.clear q r
    exact ⟨a1, a2, congrArg (· ||| 2) a3, a4, a5⟩
  · obtain ⟨a1, a2, a3, a4⟩ := c.again q r
    refine ⟨a1, a2, ?_, a4⟩
    show t.exc.nlat ||| 2 = s.exc.nlat ||| 2 ||| 0x80
    rw [a3, BitVec.or_swap]

theorem EmergencyTaken.slotTaken {s t : State} (h : EmergencyTaken s t) (tally : Byte) (x : SlotState) (m : Memory) :
    EmergencyTaken (s.slotTaken tally x m) (t.slotTaken tally x m) := by
  refine ⟨?_, h.brake, h.turn, h.stays, h.chans⟩
  have e := h.only
  unfold State.slotTaken
  dsimp only
  rw [e]
  dsimp only
  rw [BitVec.or_swap]

/-- A valid setpoint taken in RUNNING (R16, R28, R34). -/
theorem State.takeSlot_request {s : State} {x : Slot} (hw : s.mem.wf = true) (hr : s.exc.part = .running) (hx : s.mem.slotHolds x)
    (he : x.emergency = 0) (hf : x.form ≤ 1) (hd : x.direction ≤ 2) (hm : x.moment ≤ 3) :
    RequestTaken ((s.slotRequest x).slotTaken x.tally .taken s.takeSlot.mem) s.takeSlot
    ∧ ∀ a, s.takeSlot.mem.read a = if a = 0x15 then x.tally else if a = 0x16 then 2 else s.mem.read a := by
  have hz : RequestTaken (s.slotRequest x) (s.slotRequest x).zeroRequest := State.zeroRequest_taken hr
  have hmem : (s.slotRequest x).zeroRequest.mem = s.mem :=
    (State.zeroRequest_driveOnly (s := s.slotRequest x) (by rw [show (s.slotRequest x).exc.part = _ from hr]; decide)).fields.2.2.2.2.2.2.2.1
  obtain ⟨h1, h2⟩ := State.takeSlot_eq hx (s.judgeSlot_request he hf hd hm) hmem hw
  refine ⟨?_, h2⟩
  have := hz.slotTaken x.tally .taken s.takeSlot.mem
  rw [← h1] at this
  exact this

/-- An e-stop taken (R16, R33). -/
theorem State.takeSlot_emergency {s : State} {x : Slot} (hw : s.mem.wf = true) (hx : s.mem.slotHolds x) (he : x.emergency = 1) :
    EmergencyTaken (s.slotTaken x.tally .taken s.takeSlot.mem) s.takeSlot
    ∧ ∀ a, s.takeSlot.mem.read a = if a = 0x15 then x.tally else if a = 0x16 then 2 else s.mem.read a := by
  have hj : s.judgeSlot x = (s.eStop, .taken) := if_pos he
  obtain ⟨h1, h2⟩ := State.takeSlot_eq hx hj s.eStop_spec.fields.2.2.2.2.2.2.2.1 hw
  refine ⟨?_, h2⟩
  have := s.eStop_taken.slotTaken x.tally .taken s.takeSlot.mem
  rw [← h1] at this
  exact this

/-- An ill-formed post is refused with nothing handed on (R16). -/
theorem State.takeSlot_refused {s : State} {x : Slot} (hw : s.mem.wf = true) (hx : s.mem.slotHolds x)
    (h : 1 < x.emergency ∨ (x.emergency = 0 ∧ (1 < x.form ∨ 2 < x.direction ∨ 3 < x.moment))) :
    s.takeSlot = s.slotTaken x.tally .refused s.takeSlot.mem
    ∧ ∀ a, s.takeSlot.mem.read a = if a = 0x15 then x.tally else if a = 0x16 then 3 else s.mem.read a := by
  have hj : s.judgeSlot x = (s, .refused) := by
    unfold State.judgeSlot
    rcases h with h | ⟨h, h'⟩
    · rw [if_neg (by omega), if_pos h]
    · rw [if_neg (by omega), if_neg (by omega), if_pos h']
  exact State.takeSlot_eq hx hj rfl hw

/-! ### A scan of a driving part (R14, R15) -/

/-- A post found at a scan, marked PENDING with its take moment and emergency kept (R15). -/
def State.posted (s : State) (x : Slot) : State :=
  { s.markPending with exc := { s.markPending.exc with slotMoment := BitVec.ofNat 8 x.moment, slotEmergency := BitVec.ofNat 8 x.emergency } }

theorem State.posted_spec {s : State} (x : Slot) (hw : s.mem.wf = true) :
    ∃ m : Memory, s.posted x = { s with
        exc := { s.exc with slotState := .pending, slotMoment := BitVec.ofNat 8 x.moment, slotEmergency := BitVec.ofNat 8 x.emergency },
        mem := m } ∧ m.wf = true
      ∧ ∀ a, m.read a = if a = 0x16 ∧ s.exc.slotState ≠ .pending then 1 else s.mem.read a := by
  by_cases h : s.exc.slotState = .pending
  · have e : s.markPending = s := if_pos h
    refine ⟨s.mem, ?_, hw, fun a => by simp [h]⟩
    unfold State.posted
    rw [e, ← h]
  · have e : s.markPending = s.setSlotState .pending := if_neg h
    refine ⟨(s.setSlotState .pending).mem, ?_, State.wf_writeField (by decide) hw, fun a => ?_⟩
    · unfold State.posted
      rw [e]
      rfl
    · show (s.mem.writeCells (leCells 0x16 1 _)).read a = _
      rw [Memory.read_writeField (by decide) hw]
      by_cases ha : a = 0x16
      · subst ha
        simp [h, SlotState.code]
      · rw [if_neg (by omega), if_neg (by simp [ha])]

theorem State.examineSlot_posted {s : State} {x : Slot} (hx : s.mem.slotHolds x) (ht : x.tally ≠ s.exc.lastTaken) :
    s.examineSlot = if takesNow s.exc.part s.srg.traction x.moment x.emergency then (s.posted x).takeSlot else s.posted x := by
  have h1 : s.markPending.exc.part = s.exc.part := by unfold State.markPending; split <;> rfl
  have h2 : s.markPending.srg = s.srg := by unfold State.markPending; split <;> rfl
  unfold State.examineSlot
  dsimp only
  rw [Memory.readSlot_of_holds hx, if_pos ht]
  change (if takesNow s.markPending.exc.part s.markPending.srg.traction _ _ then (s.posted x).takeSlot else s.posted x) = _
  rw [h1, h2]

/-- Scan work of a driving part whose strip is empty is the drive slot's examination (R14). -/
theorem State.scanWork_slot {s : State} (hw : s.mem.wf = true) (hd : s.exc.part.driving = true)
    (hc : s.mem.readLe 0x04 2 = s.exc.cueTake.toNat) : s.scanWork = s.examineSlot := by
  unfold State.scanWork
  cases h : s.exc.part with
  | running =>
    have hk := State.examineSlot_stripKept (s := s) (by rw [h]; decide) hw
    exact State.scanCues_empty (by rw [hk.readAppend, hk.cueTake, hc])
  | stopping => rfl
  | idle => rw [h] at hd; cases hd
  | adopting => rw [h] at hd; cases hd
  | halted => rw [h] at hd; cases hd

theorem execScanTimer_eq {s : State} (hi : s.exc.part ≠ .idle) (hs : s.exc.scan = none) (hl : s.lowerWaits = false) :
    exec .scanTimer s = finish s.advanceMs.scanWork := by
  show execScanTimer s = _
  unfold execScanTimer State.scanExpiry
  rw [if_neg hi, State.serveLower_idle hl, if_neg]
  rw [State.scanBusy, show s.advanceMs.exc.scan = s.exc.scan from rfl, hs]
  decide

theorem PartState.driving_ne_idle {p : PartState} (h : p.driving = true) : p ≠ .idle := by
  rintro rfl
  cases h

/-- SCAN_TIMER of a driving part that finds a post, its strip empty (R14, R15). -/
theorem execScanTimer_posted {s : State} {x : Slot} (hw : s.mem.wf = true) (hs : s.exc.scan = none) (hl : s.lowerWaits = false)
    (hd : s.exc.part.driving = true) (hx : s.mem.slotHolds x) (hc : s.mem.readLe 0x04 2 = s.exc.cueTake.toNat) :
    (x.tally ≠ s.exc.lastTaken → ∃ m : Memory, m.wf = true ∧ m.slotHolds x
      ∧ (∀ a, m.read a = if a = 0x16 ∧ s.exc.slotState ≠ .pending then 1
          else if 0x0C ≤ a ∧ a ≤ 0x0F then msByte (s.exc.ms + 1) a else s.mem.read a)
      ∧ ∀ u : State, u = { s.countMs with
          exc := { s.exc with
            ms := s.exc.ms + 1, slotState := .pending, slotMoment := BitVec.ofNat 8 x.moment, slotEmergency := BitVec.ofNat 8 x.emergency },
          mem := m } →
        exec .scanTimer s = .next (if takesNow s.exc.part s.srg.traction x.moment x.emergency then u.takeSlot else u))
    ∧ (x.tally = s.exc.lastTaken → exec .scanTimer s = .next (s.advanceMs.examineSlot)) := by
  have hw' := State.advanceMs_wf hw
  have hr := State.advanceMs_read (s := s) hw
  have hx' : s.advanceMs.mem.slotHolds x := Memory.slotHolds_congr (fun a _ _ => by rw [hr, if_neg (by omega)]) hx
  have hc' : s.advanceMs.mem.readLe 0x04 2 = s.advanceMs.exc.cueTake.toNat := by
    exact (Memory.readLe_congr (m := s.mem) fun b _ _ => by rw [hr, if_neg (by omega)]).trans hc
  have hq : s.advanceMs.examineSlot.exc.scan = none := (State.examineSlot_act _).scan hs
  have he : exec .scanTimer s = .next s.advanceMs.examineSlot := by
    rw [execScanTimer_eq (PartState.driving_ne_idle hd) hs hl, State.scanWork_slot hw' hd hc', finish_none hq]
  refine ⟨fun ht => ?_, fun _ => he⟩
  obtain ⟨m, h1, h2, h3⟩ := State.posted_spec (s := s.advanceMs) x hw'
  refine ⟨m, h2, Memory.slotHolds_congr (fun a _ _ => by rw [h3, if_neg (by omega)]) hx', fun a => by rw [h3, hr]; rfl, fun u hu => ?_⟩
  rw [he, State.examineSlot_posted hx' ht, h1, hu]
  rfl

end Sys2Proof.Machine
end

section
/-!
PROOF. What SCAN_TIMER and AT_CHUFF_SLOT_TAKE make of a post in the drive slot (O28, O29, O30, O34), and scans that find nothing to take or
wait (O27).
-/
set_option Elab.async false

namespace Sys2Proof.Machine

/-! ### A post at the scan timer -/

/-- Exchange memory after a take at the scan timer: the count, the tally and the slot state (R14, R16). -/
theorem read_after_take {t m n : Memory} {x c : Byte} {z : Nat → Byte} {p : Prop} [Decidable p]
    (ht : ∀ a, t.read a = if a = 0x15 then x else if a = 0x16 then c else m.read a)
    (hm : ∀ a, m.read a = if a = 0x16 ∧ p then 1 else if 0x0C ≤ a ∧ a ≤ 0x0F then z a else n.read a) (a : Nat) :
    t.read a = if 0x0C ≤ a ∧ a ≤ 0x0F then z a else if a = 0x15 then x else if a = 0x16 then c else n.read a := by
  rw [ht]
  by_cases h1 : a = 0x15
  · subst h1
    rfl
  · rw [if_neg h1]
    by_cases h2 : a = 0x16
    · subst h2
      rfl
    · rw [if_neg h2, hm, if_neg (by simp [h2]), if_neg h1, if_neg h2]

theorem takesNow_iff (p : PartState) (t : TractionState) (moment emergency : Nat) :
    takesNow p t moment emergency = true
      ↔ emergency ≠ 0 ∨ 3 < moment ∨ (p = .running ∧ (moment = 0 ∨ (moment = 1 ∧ t = .standing))) := by
  simp [takesNow, or_assoc]

/-- Settles O28, by the take of a valid setpoint in RUNNING. -/
theorem scanTakesSetpoint : Obligations.ScanTakesSetpoint := by
  intro s x hw hs hl hr hx ht he hm hf hd hc
  obtain ⟨m, hm1, hm2, hm3, hm4⟩ := (execScanTimer_posted hw hs hl (by rw [hr]; rfl) hx hc).1 ht
  have hn : takesNow s.exc.part s.srg.traction x.moment x.emergency = true :=
    (takesNow_iff _ _ _ _).mpr (.inr (.inr ⟨hr, hm⟩))
  have e := hm4 _ rfl
  rw [if_pos hn] at e
  obtain ⟨h1, h2⟩ := State.takeSlot_request (s := { s.countMs with
    exc := { s.exc with
      ms := s.exc.ms + 1, slotState := .pending, slotMoment := BitVec.ofNat 8 x.moment, slotEmergency := BitVec.ofNat 8 x.emergency },
    mem := m }) hm1 hr hm2 he hf hd (by omega)
  refine ⟨_, e, ?_, read_after_take h2 hm3⟩
  simp only [he] at h1 ⊢
  exact h1

/-- Settles O29, by the take of an e-stop and of an ill-formed post. -/
theorem scanTakesEmergency : Obligations.ScanTakesEmergency := by
  intro s x hw hs hl hd hx ht hc
  obtain ⟨m, hm1, hm2, hm3, hm4⟩ := (execScanTimer_posted hw hs hl hd hx hc).1 ht
  have e := hm4 _ rfl
  refine ⟨fun he => ?_, fun hj => ?_⟩
  · rw [if_pos ((takesNow_iff _ _ _ _).mpr (.inl (by omega)))] at e
    obtain ⟨h1, h2⟩ := State.takeSlot_emergency (s := { s.countMs with
      exc := { s.exc with
        ms := s.exc.ms + 1, slotState := .pending, slotMoment := BitVec.ofNat 8 x.moment, slotEmergency := BitVec.ofNat 8 x.emergency },
      mem := m }) hm1 hm2 he
    exact ⟨_, e, h1, read_after_take h2 hm3⟩
  · have hn : takesNow s.exc.part s.srg.traction x.moment x.emergency = true := by
      rw [takesNow_iff]
      rcases hj with h | ⟨_, h⟩ | ⟨_, h, _⟩
      · exact .inl (by omega)
      · exact .inr (.inl h)
      · exact .inr (.inr h)
    rw [if_pos hn] at e
    obtain ⟨h1, h2⟩ := State.takeSlot_refused (s := { s.countMs with
      exc := { s.exc with
        ms := s.exc.ms + 1, slotState := .pending, slotMoment := BitVec.ofNat 8 x.moment, slotEmergency := BitVec.ofNat 8 x.emergency },
      mem := m }) (x := x) hm1 hm2 (by
        rcases hj with h | ⟨h, h'⟩ | ⟨h, _, h' | h'⟩
        · exact .inl h
        · exact .inr ⟨h, .inr (.inr h')⟩
        · exact .inr ⟨h, .inl h'⟩
        · exact .inr ⟨h, .inr (.inl h')⟩)
    exact ⟨_, e, h1, read_after_take h2 hm3⟩

/-- Settles O30, by the examination of a post that is not taken, and of a slot whose post is gone. -/
theorem postsStayPending : Obligations.PostsStayPending := by
  intro s x hw hs hl hd hx hc
  have scan := execScanTimer_posted hw hs hl hd hx hc
  refine ⟨fun ht he hm hn => ?_, fun ht hp => ?_⟩
  · obtain ⟨m, -, -, hm3, hm4⟩ := scan.1 ht
    have e := hm4 _ rfl
    have hno : ¬ takesNow s.exc.part s.srg.traction x.moment x.emergency = true := by
      rw [takesNow_iff]
      rintro (h | h | ⟨h, h'⟩)
      · exact h he
      · omega
      · rcases hn with hn | hn | hn | ⟨hn, hn'⟩
        · rw [h] at hn
          cases hn
        · omega
        · omega
        · rcases h' with h' | ⟨_, h'⟩
          · omega
          · exact hn' h'
    rw [if_neg hno] at e
    refine ⟨_, e, ?_, fun a => ?_⟩
    · rw [he]
      rfl
    · show m.read a = _
      rw [hm3]
      by_cases h1 : 0x0C ≤ a ∧ a ≤ 0x0F
      · rw [if_neg (by omega), if_pos h1, if_pos h1]
      · rw [if_neg h1, if_neg h1]
  · have hr := State.advanceMs_read (s := s) hw
    have hx' : s.advanceMs.mem.slotHolds x := Memory.slotHolds_congr (fun a _ _ => by rw [hr, if_neg (by omega)]) hx
    have e : s.advanceMs.examineSlot = s.advanceMs.setSlotState .empty := by
      unfold State.examineSlot
      dsimp only
      rw [Memory.readSlot_of_holds hx', if_neg (Classical.not_not.mpr (show x.tally = s.advanceMs.exc.lastTaken from ht)),
        if_pos (show s.advanceMs.exc.slotState = .pending from hp)]
    refine ⟨_, scan.2 ht, by rw [e]; rfl, fun a => ?_⟩
    rw [e]
    show (s.advanceMs.mem.writeCells (leCells 0x16 1 0)).read a = _
    rw [Memory.read_writeField (by decide) (State.advanceMs_wf hw), hr]
    by_cases h : a = 0x16
    · subst h
      simp
    · rw [if_neg (by omega), if_neg h]

/-! ### The take at a chuff (R15) -/

/-- Settles O34, by the same takes at a chuff. -/
theorem atChuffTake : Obligations.AtChuffTake := by
  intro s x hw hh hs hl hx
  have hb : s.scanBusy = false := by rw [State.scanBusy, hs]; rfl
  have e : exec .atChuffSlotTake s = finish (if s.exc.part = .running then s.dropChuff.chuffTake else s.dropChuff) := by
    show execAtChuffSlotTake s = _
    unfold execAtChuffSlotTake
    rw [if_pos ⟨hh, hb⟩, State.serveLower_idle hl]
  refine ⟨fun hp => ?_, fun hp => ?_⟩
  · rw [e, if_neg hp]
    exact finish_none hs
  · have hx' : s.dropChuff.mem.slotHolds x := hx
    have hw' : s.dropChuff.mem.wf = true := hw
    have ht : s.dropChuff.chuffTake = if x.tally = s.exc.lastTaken then s.dropChuff.setSlotState .empty else s.dropChuff.takeSlot := by
      unfold State.chuffTake
      rw [Memory.readSlot_of_holds hx']
      rfl
    rw [if_pos hp, ht] at e
    have taken (hn : x.tally ≠ s.exc.lastTaken) : exec .atChuffSlotTake s = .next s.dropChuff.takeSlot := by
      rw [e, if_neg hn]
      exact finish_none ((State.takeSlot_act _).scan hs)
    refine ⟨fun hq => ?_, fun hn he ⟨hf, hd, hm⟩ => ?_, fun hn he => ?_, fun hn hj => ?_⟩
    · rw [if_pos hq, finish_none (show (s.dropChuff.setSlotState .empty).exc.scan = none from hs)] at e
      refine ⟨_, e, rfl, fun a => ?_⟩
      show (s.mem.writeCells (leCells 0x16 1 0)).read a = _
      rw [Memory.read_writeField (by decide) hw]
      by_cases h : a = 0x16
      · subst h
        simp
      · rw [if_neg (by omega), if_neg h]
    · obtain ⟨h1, h2⟩ := State.takeSlot_request hw' hp hx' he hf hd hm
      exact ⟨_, taken hn, h2, h1⟩
    · obtain ⟨h1, h2⟩ := State.takeSlot_emergency hw' hx' he
      exact ⟨_, taken hn, h2, h1⟩
    · obtain ⟨h1, h2⟩ := State.takeSlot_refused hw' hx' (by
        rcases hj with h | ⟨h, h'⟩
        · exact .inl h
        · refine .inr ⟨h, ?_⟩
          refine Classical.byContradiction fun hc => h' ?_
          omega)
      exact ⟨_, taken hn, h2, h1⟩

/-! ### Quiet and held scans (R14, R119) -/

theorem PartState.takesCues_cases {p : PartState} (h : p.takesCues = true) : p = .running ∨ p = .halted := by
  cases p with
  | running => exact .inl rfl
  | halted => exact .inr rfl
  | idle => cases h
  | adopting => cases h
  | stopping => cases h

/-- Scan work that finds nothing to take changes nothing. -/
theorem State.scanWork_nothing {s : State} (h : s.nothingToTake) : s.scanWork = s := by
  obtain ⟨hd, hc⟩ := h
  unfold State.scanWork
  cases hp : s.exc.part with
  | idle => rfl
  | adopting => rfl
  | running =>
    rw [hp] at hd hc
    show s.examineSlot.scanCues = s
    rw [State.examineSlot_idle (hd rfl), State.scanCues_empty (hc rfl)]
  | stopping =>
    rw [hp] at hd
    exact State.examineSlot_idle (hd rfl)
  | halted =>
    rw [hp] at hc
    exact State.scanCues_empty (hc rfl)

theorem State.advanceMs_nothing {s : State} (hw : s.mem.wf = true) (h : s.nothingToTake) : s.advanceMs.nothingToTake := by
  have hr := State.advanceMs_read (s := s) hw
  refine ⟨fun hd => ?_, fun hc => ?_⟩
  · rw [hr, if_neg (by decide)]
    exact h.1 hd
  · exact (Memory.readLe_congr (m := s.mem) fun b _ _ => by rw [hr, if_neg (by omega)]).trans (h.2 hc)

/-- What counts in ms, with the chuff interval by part state (R14). -/
theorem State.countMs_eq (s : State) : s.countMs = { s with
    chk := { s.chk with
      interval := if s.exc.part = .running ∨ s.exc.part = .stopping then min 65535 (s.chk.interval + 1) else s.chk.interval,
      lostTimer := s.chk.lostTimer.map (· - 1) },
    srg := { s.srg with turnTimer := s.srg.turnTimer.map (· - 1) },
    rrx := { s.rrx with failsafe := s.rrx.failsafe.map (· - 1) } } := by
  unfold State.countMs
  cases s.exc.part <;> rfl

/-- Settles O27, by scan work that finds nothing and by what an expiry leaves of a scan that waits. -/
theorem quietAndHeldScans : Obligations.QuietAndHeldScans := by
  refine ⟨fun s hw hs => ⟨fun hp => if_pos hp, fun hp hl hn => ?_⟩, fun s hw hl => ⟨fun w hs ho hp => ?_, fun hh hs hn => ?_⟩,
    fun s hw hl hp hs hh => ?_⟩
  · refine ⟨s.advanceMs, ?_, ?_, State.advanceMs_read hw⟩
    · rw [execScanTimer_eq hp hs hl, State.scanWork_nothing (State.advanceMs_nothing hw hn)]
      exact finish_none hs
    · have e := s.advanceMs_spec
      rw [State.countMs_eq] at e
      exact e
  · refine ⟨s.advanceMs.holdScan true, ?_, rfl, State.advanceMs_read hw⟩
    show execScanTimer s = _
    unfold execScanTimer State.scanExpiry
    rw [if_neg hp, State.serveLower_idle hl, if_pos]
    · exact finish_idle fun w' h => by
        have h' : s.exc.scan = some w' := h
        rw [hs] at h'
        cases h'
        exact ho
    · rw [State.scanBusy, show s.advanceMs.exc.scan = s.exc.scan from rfl, hs]
      rfl
  · show execScanWorkDeferred s = _
    unfold execScanWorkDeferred
    have hb : s.scanBusy = false := by rw [State.scanBusy, hs]; rfl
    rw [if_pos ⟨hh, hb⟩, State.serveLower_idle hl, State.scanWork_nothing (s := s.holdScan false) hn]
    exact finish_none hs
  · refine ⟨s.advanceMs.mem, State.advanceMs_read hw, State.advanceMs_wf hw, ?_⟩
    rw [execScanTimer_eq hp hs hl]
    have e : { s.countMs with exc := { s.exc with ms := s.exc.ms + 1, scanHeld := true }, mem := s.advanceMs.mem } = s.advanceMs.holdScan true :=
      rfl
    have e' : (s.advanceMs.holdScan true).holdScan false = s.advanceMs := by
      have : s.advanceMs.exc = { s.advanceMs.exc with scanHeld := false } := by
        rw [← show s.advanceMs.exc.scanHeld = false from hh]
      exact (congrArg (fun x => ({ s.advanceMs with exc := x } : State)) this).symm
    have hl' : (s.advanceMs.holdScan true).lowerWaits = false := hl
    have hb : (s.advanceMs.holdScan true).scanBusy = false := by
      rw [State.scanBusy, show (s.advanceMs.holdScan true).exc.scan = s.exc.scan from rfl, hs]
      rfl
    rw [e]
    show _ = execScanWorkDeferred (s.advanceMs.holdScan true)
    unfold execScanWorkDeferred
    rw [if_pos ⟨rfl, hb⟩, State.serveLower_idle hl', e']

end Sys2Proof.Machine
end

section
/-!
PROOF. The regulation tick's start (O38 to O41): a tick settles the traction state, ramps R, follows R = 0 in E_BRAKE and in TURNING, and
opens the float windows; each part keeps the rest of the state.
-/
set_option Elab.async false

namespace Sys2Proof.Machine

/-! ### Duties under a changed limit (R51) -/

/-- What the duties' cut to a changed limit does (R51, R71). -/
theorem State.limitDuty_spec (s : State) :
    s.limitDuty = { s with srg := { s.srg with motors := s.limitDuty.srg.motors }, bfu := { s.bfu with chans := s.limitDuty.bfu.chans } }
    ∧ ∀ m, s.limitDuty.srg.motors.get m = { s.srg.motors.get m with d := min (s.srg.motors.get m).d (s.dutyLimit s.cfg.traction m) }
      ∧ s.limitDuty.chan m = (s.chan m).hand s.cfg.traction (min (s.srg.motors.get m).d (s.dutyLimit s.cfg.traction m)) := by
  refine ⟨rfl, fun m => ?_⟩
  cases m <;> exact ⟨rfl, rfl⟩

/-- The base limit in each supply state (R51). -/
theorem State.baseLimit_eq (s : State) (c : Traction) : s.baseLimit c = match s.sup.state with
    | .normal => c.dmax
    | .lean => c.dmax
    | .holdup => min c.dmax s.cfg.power.holdDmax
    | .dark => 0 := by
  unfold State.baseLimit
  cases s.sup.state with
  | normal => exact Nat.min_self _
  | lean => exact Nat.min_self _
  | holdup => rfl
  | dark => exact Nat.min_zero _

theorem Channel.hand_dir (c : Traction) (d : Nat) (ch : Channel) : (ch.hand c d).dir = ch.dir := by
  unfold Channel.hand
  split
  · rfl
  · split
    · rfl
    · split
      · rfl
      · exact (Channel.apply_spec _ _).1.2.2.2.1

/-! ### Modes followed and windows opened (R68, R72) -/

theorem Channel.follow_periodCbc (c : Traction) (m : Mode) (ch : Channel) : (ch.follow c m).periodCbc = ch.periodCbc := by
  unfold Channel.follow Channel.enter
  split
  · rfl
  · split
    · rfl
    · exact (Channel.apply_spec _ _).1.2.2.2.2.2.2.2.2.2.2.2

theorem State.followModes_periodCbc (s : State) (m : Motor) : (s.followModes.chan m).periodCbc = (s.chan m).periodCbc := by
  rw [State.followModes_chan]
  split
  · rfl
  · exact Channel.follow_periodCbc _ _ _

theorem Channel.openFloat_cbcMark (c : Traction) (ch : Channel) : (ch.openFloat c).cbcMark = (ch.cbcMark && !ch.periodCbc) := by
  unfold Channel.openFloat
  dsimp only
  rw [(Channel.apply_spec _ _).1.2.2.2.2.2.2.2.1]
  cases ch.cbcMark <;> cases ch.periodCbc <;> rfl

/-- A channel as a float window leaves it: opened on a present motor (R72). -/
def State.floated (s : State) (m : Motor) : Channel :=
  if s.cfg.traction.present m then (s.chan m).openFloat s.cfg.traction else s.chan m

theorem State.openWindow_eq (s : State) (flip : Option Direction) :
    s.openWindow flip = { s with bfu := { s.bfu with chans := ⟨s.floated .a, s.floated .b⟩, window := some ⟨.settling, flip⟩ } } := by
  have one (u : State) (m : Motor) : (if u.cfg.traction.present m then u.onChan m (Channel.openFloat u.cfg.traction) else u)
      = { u with bfu := { u.bfu with chans := u.bfu.chans.set m (u.floated m) } } := by
    unfold State.floated State.onChan
    split
    · rfl
    · cases m <;> rfl
  unfold State.openWindow
  dsimp only
  rw [one s .a, one]
  rfl

/-- The float windows opened on the present motors, with the tick on its way (R46, R72). -/
theorem State.openTick_spec (s : State) (flip : Option Direction) (z : Bool) :
    s.openTick flip z = { s with
      srg := { s.srg with tick := some ⟨s.cfg.traction, s.srg.bridgeDir, z⟩ },
      bfu := { s.bfu with chans := (s.openTick flip z).bfu.chans, window := some ⟨.settling, flip⟩ } }
    ∧ ∀ m, (s.openTick flip z).chan m
      = if s.cfg.traction.present m then (s.chan m).openFloat s.cfg.traction else s.chan m := by
  unfold State.openTick
  rw [State.openWindow_eq]
  exact ⟨rfl, fun m => by cases m <;> rfl⟩

theorem State.openTick_chan (s : State) (flip : Option Direction) (z : Bool) (m : Motor) :
    ((s.openTick flip z).chan m).duty = (s.chan m).duty ∧ ((s.openTick flip z).chan m).dir = (s.chan m).dir := by
  rw [(s.openTick_spec flip z).2]
  split
  · exact ⟨(Channel.openFloat_spec _ _).2.2.1, (Channel.openFloat_spec _ _).2.2.2.1⟩
  · exact ⟨rfl, rfl⟩

/-! ### The course of a tick's start (R44 to R46) -/

theorem exec_regulationTimer {s : State} (hd : s.exc.part.driving = true) (ht : s.srg.regTimer = true) (hk : s.srg.tick = none) :
    exec .regulationTimer s = finish s.beginTick := if_pos ⟨hd, ht, hk⟩

/-- A tick whose settled state and whose ramp do not end STOPPING goes on to its windows. -/
theorem State.beginTick_opens {s u v : State} (hu : s.settle = u) (hue : u.endStopping = u) (hud : u.exc.part.driving = true)
    (hv : u.ramp = v) (hve : v.endStopping = v) (hvd : v.exc.part.driving = true) :
    s.beginTick = v.openTick (flipOf s v) (turnZeroOf u v) := by
  unfold State.beginTick
  dsimp only
  rw [hu, hue, if_neg (by simp [hud]), hv, hve, if_neg (by simp [hvd])]

/-- A tick whose settled state ends STOPPING is abandoned. -/
theorem State.beginTick_settles_halted {s u : State} (hu : s.settle = u) (hp : u.exc.part = .stopping) (he : u.srg.traction.ends = true) :
    s.beginTick = u.enterHalted := by
  have hx : u.endStopping = u.enterHalted := State.endStopping_ends hp (.inl he)
  unfold State.beginTick
  dsimp only
  rw [hu, hx, if_pos]
  rw [State.enterHalted_stopped]
  rfl

/-- A tick whose ramp ends STOPPING is abandoned. -/
theorem State.beginTick_ramps_halted {s u v : State} (hu : s.settle = u) (hue : u.endStopping = u) (hud : u.exc.part.driving = true)
    (hv : u.ramp = v) (hp : v.exc.part = .stopping) (he : v.srg.traction.ends = true) :
    s.beginTick = v.enterHalted := by
  have hx : v.endStopping = v.enterHalted := State.endStopping_ends hp (.inl he)
  unfold State.beginTick
  dsimp only
  rw [hu, hue, if_neg (by simp [hud]), hv, hx, if_pos]
  rw [State.enterHalted_stopped]
  rfl

/-- The state with R ramped and the modes followed (R46, R68). -/
def State.ramped (s : State) (r : Nat) : State := ({ s with srg := { s.srg with r := r } } : State).followModes

theorem State.ramped_spec (s : State) (r : Nat) :
    s.ramped r = { s with srg := { s.srg with r := r }, bfu := { s.bfu with chans := (s.ramped r).bfu.chans } }
    ∧ ∀ m, ((s.ramped r).chan m).duty = (s.chan m).duty ∧ ((s.ramped r).chan m).dir = (s.chan m).dir
      ∧ ((s.ramped r).chan m).cbcMark = (s.chan m).cbcMark ∧ ((s.ramped r).chan m).periodCbc = (s.chan m).periodCbc := by
  refine ⟨State.followModes_kept _, fun m => ?_⟩
  obtain ⟨h1, -, h3, h4⟩ := State.followModes_fields { s with srg := { s.srg with r := r } } m
  exact ⟨h1, h3, h4, State.followModes_periodCbc _ _⟩

/-- In MOVING and STANDING the ramp moves R and the modes alone, whatever R is (R46). -/
theorem State.ramp_plain {s : State} (h : s.srg.traction = .moving ∨ s.srg.traction = .standing) : s.ramp = s.ramped s.rampedR := by
  unfold State.ramp State.ramped
  dsimp only
  split
  · rcases h with h | h
    · rw [h]
    · rw [h]
  · rfl

/-- A tick settled in MOVING or STANDING, with no turn to wait for: R is ramped and the windows open. -/
theorem State.beginTick_plain {s u : State} (hu : s.settle = u) (hd : u.exc.part.driving = true) (hue : u.endStopping = u)
    (ht : u.srg.traction = .moving ∨ u.srg.traction = .standing) (hve : (u.ramped u.rampedR).endStopping = u.ramped u.rampedR) :
    s.beginTick = (u.ramped u.rampedR).openTick (flipOf s u) false := by
  have hz : turnZeroOf u (u.ramped u.rampedR) = false := by
    have e : (u.ramped u.rampedR).srg.traction = u.srg.traction := by rw [(u.ramped_spec _).1]
    unfold turnZeroOf
    rw [e]
    rcases ht with ht | ht
    · rw [ht]; simp
    · rw [ht]; simp
  have hf : flipOf s (u.ramped u.rampedR) = flipOf s u := by
    have e : (u.ramped u.rampedR).srg.bridgeDir = u.srg.bridgeDir := by rw [(u.ramped_spec _).1]
    unfold flipOf
    rw [e]
  have hp : (u.ramped u.rampedR).exc.part.driving = true := by rw [(u.ramped_spec _).1]; exact hd
  rw [State.beginTick_opens hu hue hd (State.ramp_plain ht) hve hp, hz, hf]

/-- R, the windows and the channels once a tick has opened (R46, R72). -/
theorem State.opened_spec (u : State) (flip : Option Direction) :
    let t := (u.ramped u.rampedR).openTick flip false
    t = { u with srg := t.srg, bfu := t.bfu }
    ∧ t.srg = { u.srg with r := u.rampedR, tick := some ⟨u.cfg.traction, u.srg.bridgeDir, false⟩ }
    ∧ t.bfu = { u.bfu with chans := t.bfu.chans, window := some ⟨.settling, flip⟩ }
    ∧ ∀ m, (t.chan m).duty = (u.chan m).duty ∧ (t.chan m).dir = (u.chan m).dir
      ∧ (u.cfg.traction.present m = true → (t.chan m).mode = .float ∧ deadLegs (t.chan m)
        ∧ (t.chan m).cbcMark = ((u.chan m).cbcMark && !(u.chan m).periodCbc)) := by
  obtain ⟨h1, h2⟩ := u.ramped_spec u.rampedR
  obtain ⟨g1, g2⟩ := (u.ramped u.rampedR).openTick_spec flip false
  have cfg : (u.ramped u.rampedR).cfg = u.cfg := by rw [h1]
  have srg : (u.ramped u.rampedR).srg = { u.srg with r := u.rampedR } := by rw [h1]
  have bfu : (u.ramped u.rampedR).bfu = { u.bfu with chans := (u.ramped u.rampedR).bfu.chans } := by rw [h1]
  generalize u.ramped u.rampedR = v at *
  have ht : (v.openTick flip false).srg = { u.srg with r := u.rampedR, tick := some ⟨u.cfg.traction, u.srg.bridgeDir, false⟩ } := by
    rw [g1, cfg, srg]
  refine ⟨?_, ht, ?_, fun m => ?_⟩
  · rw [g1, h1]
  · rw [g1, bfu]
  · obtain ⟨a1, a2⟩ := v.openTick_chan flip false m
    obtain ⟨b1, b2, b3, b4⟩ := h2 m
    refine ⟨a1.trans b1, a2.trans b2, fun hp => ?_⟩
    rw [g2, cfg, if_pos hp, Channel.openFloat_cbcMark, b3, b4]
    exact ⟨(Channel.openFloat_spec _ _).1, (Channel.openFloat_spec _ _).2.1, rfl⟩

theorem rampStep_rises {r target up down : Nat} (h : r < target) :
    rampStep r target up down = if up = 0 then target else min (r + up) target := if_pos h

theorem rampStep_falls {r target up down : Nat} (h : target < r) :
    rampStep r target up down = if down = 0 then target else max (r - down) target := by
  rw [rampStep, if_neg (by omega), if_pos h]

theorem rampStep_stays (r up down : Nat) : rampStep r r up down = r := by
  rw [rampStep, if_neg (by omega), if_neg (by omega)]

/-- R after the ramp of MOVING (R46). -/
theorem State.rampedR_moving {s : State} (h : s.srg.traction = .moving) :
    let up := if s.drq.momentumOff then 0 else s.cfg.traction.accel
    let down := if s.drq.momentumOff then 0 else s.cfg.traction.decel
    (s.srg.r < s.drq.s → s.rampedR = if up = 0 then s.drq.s else min (s.srg.r + up) s.drq.s)
    ∧ (s.drq.s < s.srg.r → s.rampedR = if down = 0 then s.drq.s else max (s.srg.r - down) s.drq.s)
    ∧ (s.drq.s = s.srg.r → s.rampedR = s.srg.r) := by
  have e : s.rampedR = rampStep s.srg.r s.drq.s (momentumStep s.drq.momentumOff s.cfg.traction.accel)
      (momentumStep s.drq.momentumOff s.cfg.traction.decel) := by
    unfold State.rampedR
    rw [h]
  refine ⟨fun hr => ?_, fun hr => ?_, fun hr => ?_⟩
  · rw [e, rampStep_rises hr]
    rfl
  · rw [e, rampStep_falls hr]
    rfl
  · rw [e, hr, rampStep_stays]

theorem State.otherWay_iff (s : State) : s.otherWay = true ↔ s.drq.dir ≠ s.srg.bridgeDir := by
  simp [State.otherWay]

/-- Settles O38, by the course of a tick that is settled in MOVING. -/
theorem tickRampsMoving : Obligations.TickRampsMoving := by
  intro s hs hd hk ht htick hm hdir
  have ho : s.otherWay = false := by
    have := s.otherWay_iff
    simpa [hdir] using this
  have hu : s.settle = s := by
    unfold State.settle State.settleMoving
    rw [hm, ho]
    rfl
  have ends : s.srg.traction.ends = false := by rw [hm]; rfl
  have stays (r : Nat) : (s.ramped r).endStopping = s.ramped r := by
    apply State.endStopping_stays
    · rw [(s.ramped_spec r).1]; exact ends
    · rw [(s.ramped_spec r).1]; exact hk
  have hb := State.beginTick_plain hu hd (State.endStopping_stays ends hk) (.inl hm) (stays _)
  obtain ⟨h1, h2, h3, h4⟩ := s.opened_spec (flipOf s s)
  obtain ⟨r1, r2, r3⟩ := State.rampedR_moving hm
  have hf : flipOf s s = none := if_pos rfl
  rw [← hb] at h1 h2 h3 h4
  have hr : s.beginTick.srg.r = s.rampedR := by rw [h2]
  refine ⟨s.beginTick, ?_, h1, by rw [h2], ?_, ?_, ?_, by rw [h3, hf], by rw [h3], by rw [h3], fun m hp => ?_⟩
  · rw [exec_regulationTimer hd ht htick]
    exact finish_none (by rw [h1]; exact hs)
  · rw [hr]; exact r1
  · rw [hr]; exact r2
  · rw [hr]; exact r3
  · obtain ⟨a1, a2, a3⟩ := h4 m
    obtain ⟨b1, ⟨c1, c2, c3, c4⟩, b3⟩ := a3 hp
    exact ⟨b1, a1, a2, b3, c1, c2, c3, c4⟩

/-! ### A tick that settles in RUNNING (R45, R54, R55) -/

/-- A tick that settles in MOVING or STANDING in RUNNING, from the settled state `u`. -/
theorem State.beginTick_running {s u : State} (hs : s.exc.scan = none) (hp : s.exc.part = .running) (ht : s.srg.regTimer = true)
    (htick : s.srg.tick = none) (hu : s.settle = u) (h : u.srg.traction = .moving ∨ u.srg.traction = .standing) (hx : u.exc = s.exc) :
    exec .regulationTimer s = .next ((u.ramped u.rampedR).openTick (flipOf s u) false) := by
  have hup : u.exc.part ≠ .stopping := by rw [hx, hp]; decide
  have hd : u.exc.part.driving = true := by rw [hx, hp]; rfl
  have hb := State.beginTick_plain hu hd (State.endStopping_other hup) h
    (State.endStopping_other (by rw [(u.ramped_spec _).1]; exact hup))
  rw [exec_regulationTimer (by rw [hp]; rfl) ht htick, hb]
  exact finish_none (by rw [(u.opened_spec _).1]; show u.exc.scan = none; rw [hx]; exact hs)

/-- The bridge direction as it stands once a flip that is due has been settled (R55). -/
theorem flipOf_turned {s u : State} (h : u.srg.bridgeDir = s.drq.dir) :
    flipOf s u = if s.drq.dir = s.srg.bridgeDir then none else some s.drq.dir := by
  unfold flipOf
  rw [h]
  by_cases e : s.drq.dir = s.srg.bridgeDir
  · rw [if_pos e, if_pos e.symm]
  · rw [if_neg e, if_neg (Ne.symm e)]

/-- The speed regulator with a flip settled, if one is due (R55). -/
def State.turned (s : State) : State := if s.otherWay then s.flipBridge else s

theorem State.turned_spec (s : State) :
    s.turned = { s with srg := s.turned.srg }
    ∧ s.turned.srg = { s.srg with
        bridgeDir := s.drq.dir, motors := s.turned.srg.motors, turnTimer := s.turned.srg.turnTimer, turnMark := s.turned.srg.turnMark }
    ∧ (s.drq.dir ≠ s.srg.bridgeDir → (∀ m, s.turned.srg.motors.get m = { s.srg.motors.get m with i := 0, sat := .zero })
        ∧ s.turned.srg.turnTimer = none ∧ s.turned.srg.turnMark = false)
    ∧ (s.drq.dir = s.srg.bridgeDir → s.turned = s) := by
  by_cases h : s.drq.dir = s.srg.bridgeDir
  · have e : s.turned = s := if_neg (by simp [State.otherWay, h])
    rw [e]
    refine ⟨rfl, ?_, fun hn => absurd h hn, fun _ => rfl⟩
    rw [h]
  · have e : s.turned = s.flipBridge := if_pos (by simp [State.otherWay, h])
    rw [e]
    exact ⟨rfl, rfl, fun _ => ⟨fun m => by cases m <;> rfl, rfl, rfl⟩, fun hn => absurd hn h⟩

/-- The settled states of a tick that may flip at once (R45, R54, R55). -/
theorem State.settle_turned {s : State} :
    (s.srg.traction = .standing → s.settle = if 0 < s.drq.s ∧ s.sup.state ≠ .dark then s.turned.toTraction .moving else s.turned)
    ∧ (s.srg.traction = .moving → s.srg.r = 0 → s.settle = s.turned)
    ∧ (s.srg.traction = .turning → s.drq.dir = s.srg.bridgeDir → s.settle = s.stopTurn.toTraction .moving) := by
  refine ⟨fun h => ?_, fun h hr => ?_, fun h hd => ?_⟩
  · obtain ⟨e, -⟩ := s.turned_spec
    have h1 : s.turned.drq = s.drq := by rw [e]
    have h2 : s.turned.sup = s.sup := by rw [e]
    unfold State.settle
    rw [h]
    show (if 0 < s.turned.drq.s ∧ s.turned.sup.state ≠ .dark then s.turned.toTraction .moving else s.turned) = _
    rw [h1, h2]
  · unfold State.settle
    rw [h]
    unfold State.settleMoving State.turned
    rw [hr]
    rfl
  · unfold State.settle
    rw [h]
    exact if_pos (by simp [State.otherWay, hd])

/-- Settles O39, by the state that each tick settles before its ramp. -/
theorem tickSettles : Obligations.TickSettles := by
  intro s hs hp ht htick c flips up down settles
  have key (x : TractionState) (u : State) (hx : x = .moving ∨ x = .standing) (hu : s.settle = u)
      (huse : u = { s with srg := u.srg })
      (hsrg : u.srg = { s.srg with
        traction := x, bridgeDir := s.drq.dir, motors := u.srg.motors, turnTimer := u.srg.turnTimer, turnMark := u.srg.turnMark })
      (hr : x = .standing → s.srg.r = 0)
      (hfl : flips → ∀ m, u.srg.motors.get m = { s.srg.motors.get m with i := 0, sat := .zero })
      (hnf : ¬ flips → u.srg.motors = s.srg.motors)
      (htu : flips ∨ s.srg.traction = .turning → u.srg.turnTimer = none ∧ u.srg.turnMark = false)
      (hnt : ¬ flips → s.srg.traction ≠ .turning → u.srg.turnTimer = s.srg.turnTimer ∧ u.srg.turnMark = s.srg.turnMark) : settles x := by
    have utr : u.srg.traction = x := by rw [hsrg]
    have ur : u.srg.r = s.srg.r := by rw [hsrg]
    have udrq : u.drq = s.drq := by rw [huse]
    have ucfg : u.cfg = s.cfg := by rw [huse]
    have ubd : u.srg.bridgeDir = s.drq.dir := by rw [hsrg]
    have he := State.beginTick_running hs hp ht htick hu (by rw [utr]; exact hx) (by rw [huse])
    obtain ⟨h1, h2, h3, h4⟩ := u.opened_spec (flipOf s u)
    generalize (u.ramped u.rampedR).openTick (flipOf s u) false = t at *
    have tr : t.srg.r = u.rampedR := by rw [h2]
    have moving (hm : x = .moving) := State.rampedR_moving (s := u) (utr.trans hm)
    simp only [ur, udrq, ucfg] at moving
    refine ⟨t, he, ?_, ?_, fun hst => ?_, fun hm => ?_, fun hm => ?_, fun hm => ?_, ?_, ?_, ?_, ?_, ?_, fun m => ?_⟩
    · rw [h1, huse]
    · rw [h2, hsrg, ucfg]
    · rw [tr]
      have : u.rampedR = u.srg.r := by unfold State.rampedR; rw [utr, hst]
      rw [this, ur, hr hst]
    · rw [tr]; exact (moving hm).1
    · rw [tr]; exact (moving hm).2.1
    · rw [tr]; exact (moving hm).2.2
    · rw [h2]; exact hfl
    · rw [h2]; exact hnf
    · rw [h2]; exact htu
    · rw [h2]; exact hnt
    · rw [h3, flipOf_turned ubd]
    · have uc : u.chan m = s.chan m := by rw [huse]; rfl
      rw [← uc]
      exact ⟨(h4 m).2.1, (h4 m).1⟩
  obtain ⟨e1, e2, e3, e4⟩ := s.turned_spec
  have hfl : flips → ∀ m, s.turned.srg.motors.get m = { s.srg.motors.get m with i := 0, sat := .zero } := fun h => (e3 h).1
  have hnf : ¬ flips → s.turned.srg.motors = s.srg.motors := fun h => by rw [e4 (Classical.not_not.mp h)]
  have htu : flips → s.turned.srg.turnTimer = none ∧ s.turned.srg.turnMark = false := fun h => (e3 h).2
  have hnt : ¬ flips → s.turned.srg.turnTimer = s.srg.turnTimer ∧ s.turned.srg.turnMark = s.srg.turnMark := fun h => by
    rw [e4 (Classical.not_not.mp h)]
    exact ⟨rfl, rfl⟩
  obtain ⟨standing, moving, turning⟩ := State.settle_turned (s := s)
  refine ⟨fun hst hr => ⟨fun h0 hk => ?_, fun h0 => ?_⟩, fun hm hr hf => ?_, fun hm hf => ?_⟩
  · refine key .moving (s.turned.toTraction .moving) (.inl rfl) ((standing hst).trans (if_pos ⟨h0, hk⟩)) ?_ ?_ (fun h => by cases h) hfl hnf
      (fun h => htu (h.resolve_right fun h' => by rw [hst] at h'; cases h')) (fun h _ => hnt h)
    · show State.toTraction s.turned .moving = { s with srg := { s.turned.srg with traction := .moving } }
      rw [State.toTraction, e1]
    · show { s.turned.srg with traction := .moving } = _
      rw [e2]
      rfl
  · refine key .standing s.turned (.inr rfl) ((standing hst).trans (if_neg ?_)) e1 ?_ (fun _ => hr) hfl hnf
      (fun h => htu (h.resolve_right fun h' => by rw [hst] at h'; cases h')) (fun h _ => hnt h)
    · rintro ⟨h1, h2⟩
      rcases h0 with h0 | h0
      · omega
      · exact h2 h0
    · rw [← hst]
      exact e2
  · refine key .moving s.turned (.inl rfl) (moving hm hr) e1 ?_ (fun h => by cases h) hfl hnf
      (fun h => htu (h.resolve_right fun h' => by rw [hm] at h'; cases h')) (fun h _ => hnt h)
    rw [← hm]
    exact e2
  · refine key .moving (s.stopTurn.toTraction .moving) (.inl rfl) (turning hm (Classical.not_not.mp hf)) rfl ?_ (fun h => by cases h)
      (fun h => absurd h hf) (fun _ => rfl) (fun _ => ⟨rfl, rfl⟩) (fun _ h => absurd hm h)
    rw [Classical.not_not.mp hf]
    rfl

end Sys2Proof.Machine
end

section
/-!
PROOF. The regulation ticks that brake and turn (O40, O41): the ramp to R = 0 in E_BRAKE and in TURNING, and the flip at R = 0.
-/
set_option Elab.async false

namespace Sys2Proof.Machine

/-! ### E_BRAKE (R46, R58) -/

theorem State.settle_braking {s : State} (h : s.srg.traction = .eBrake) : s.settle = s := by
  unfold State.settle
  rw [h]

/-- R falls by a step toward 0, and a step of 0 takes it there at once (R46). -/
theorem rampStep_zero (r up down : Nat) : rampStep r 0 up down = if down = 0 then 0 else r - down := by
  unfold rampStep
  split
  · omega
  · split
    · split <;> omega
    · split <;> omega

theorem State.rampedR_braking {s : State} (h : s.srg.traction = .eBrake) :
    s.rampedR = if s.cfg.traction.emergency = 0 then 0 else s.srg.r - s.cfg.traction.emergency := by
  unfold State.rampedR
  rw [h]
  exact rampStep_zero _ _ _

/-- The ramp, while R stays above 0 (R46). -/
theorem State.ramp_above {s : State} (h : 0 < s.rampedR) : s.ramp = s.ramped s.rampedR := by
  unfold State.ramp State.ramped
  dsimp only
  rw [if_neg (by omega)]

/-- E_HELD at the end of E_BRAKE (R58). -/
theorem State.toHeld_spec (s : State) :
    s.toHeld = { s with srg := s.toHeld.srg, bfu := s.toHeld.bfu }
    ∧ s.toHeld.srg = { s.srg with traction := .eHeld, brakeOrder := true, motors := s.srg.motors.map SrgMotor.rest }
    ∧ s.toHeld.bfu = { s.bfu with chans := s.toHeld.bfu.chans, slip := .normal, slipRun := 0, faster := none }
    ∧ ∀ m, (s.toHeld.chan m).dir = (s.chan m).dir := by
  obtain ⟨u, hu⟩ : ∃ u : State, ({ s.zeroDuty with srg := { s.zeroDuty.srg with traction := .eHeld, brakeOrder := true } } : State).endSlip = u := ⟨_, rfl⟩
  have e : s.toHeld = u.followModes := by rw [← hu]; rfl
  have hk := State.followModes_kept u
  have hm := State.followModes_fields u
  have hc (m : Motor) : (u.chan m).dir = (s.chan m).dir := by
    have : u.chan m = (s.chan m).hand s.cfg.traction 0 := by rw [← hu]; cases m <;> rfl
    rw [this, Channel.hand_dir]
  rw [e]
  refine ⟨?_, ?_, ?_, fun m => (hm m).2.2.1.trans (hc m)⟩
  · rw [hk, ← hu]
    rfl
  · rw [hk, ← hu]
    rfl
  · rw [hk, ← hu]
    rfl

/-- An entry to HALTED makes the same facts of E_HELD as of the state before its duties were taken off (R13, R58). -/
theorem State.toHeld_same (s : State) (r : Nat) :
    HaltSame { s with srg := { s.srg with traction := .eHeld } } ({ s with srg := { s.srg with r := r } } : State).toHeld := by
  obtain ⟨h1, h2, h3, h4⟩ := State.toHeld_spec ({ s with srg := { s.srg with r := r } } : State)
  generalize ({ s with srg := { s.srg with r := r } } : State).toHeld = u at *
  refine ⟨fun a _ => by rw [h1], fun p => by rw [h2]; rfl, fun m => ?_, by rw [h3]; exact ⟨rfl, rfl⟩, h4, by rw [h1]; exact ⟨rfl, rfl, rfl, rfl, rfl⟩,
    by rw [h1]; exact ⟨rfl, rfl, rfl⟩, by rw [h1], by rw [h1], by rw [h1]; exact ⟨rfl, rfl, rfl, rfl⟩, by rw [h1]; exact ⟨rfl, rfl, rfl, rfl⟩⟩
  rw [h2]
  cases m <;> rfl

/-- The ramp that takes R to 0 in E_BRAKE (R58). -/
theorem State.ramp_held {s : State} (h : s.srg.traction = .eBrake) (hr : s.rampedR = 0) :
    s.ramp = ({ s with srg := { s.srg with r := 0 } } : State).toHeld := by
  unfold State.ramp
  dsimp only
  rw [if_pos hr, h, hr]

/-- Settles O41, by the ramp of E_BRAKE. -/
theorem tickBrakes : Obligations.TickBrakes := by
  intro s hs hd hk ht htick hb
  have hu := State.settle_braking hb
  have ends : s.srg.traction.ends = false := by rw [hb]; rfl
  have hue := State.endStopping_stays ends hk
  have hr := State.rampedR_braking hb
  have he := exec_regulationTimer hd ht htick
  have zero (h : s.cfg.traction.emergency = 0 ∨ s.srg.r ≤ s.cfg.traction.emergency) : s.rampedR = 0 := by
    rw [hr]
    split <;> omega
  obtain ⟨h1, h2, h3, -⟩ := State.toHeld_spec ({ s with srg := { s.srg with r := 0 } } : State)
  refine ⟨fun h0 h => ?_, fun h hp => ?_, fun h hp hw => ?_⟩
  · have hr' : s.rampedR = s.srg.r - s.cfg.traction.emergency := by rw [hr, if_neg (by omega)]
    have hv := State.ramp_above (s := s) (by omega)
    have hv1 := (s.ramped_spec s.rampedR).1
    have hz : turnZeroOf s (s.ramped s.rampedR) = false := by
      unfold turnZeroOf
      rw [hv1]
      show (_ && s.srg.traction == .turning) = false
      rw [hb]
      simp
    have hf : flipOf s (s.ramped s.rampedR) = none := if_pos (by rw [hv1])
    have hve : (s.ramped s.rampedR).endStopping = s.ramped s.rampedR :=
      State.endStopping_stays (by rw [hv1]; exact ends) (by rw [hv1]; exact hk)
    have hb := State.beginTick_opens hu hue hd hv hve (by rw [hv1]; exact hd)
    rw [hb, hz, hf] at he
    obtain ⟨g1, -⟩ := (s.ramped s.rampedR).openTick_spec none false
    generalize s.ramped s.rampedR = v at *
    refine ⟨v.openTick none false, by rw [he]; exact finish_none (by rw [g1, hv1]; exact hs), ?_, ?_⟩
    · rw [g1, hv1, hr']
    · rw [g1, hv1]
  · have hv := State.ramp_held hb (zero h)
    have hz (v : State) (hv : v.srg.traction = .eHeld) : turnZeroOf s v = false := by
      unfold turnZeroOf
      rw [hv]
      simp
    generalize ({ s with srg := { s.srg with r := 0 } } : State).toHeld = v at *
    have hvx : v.exc = s.exc := by rw [h1]
    have hve : v.endStopping = v := State.endStopping_other (by rw [hvx, hp]; decide)
    have hb := State.beginTick_opens hu hue hd hv hve (by rw [hvx]; exact hd)
    obtain ⟨g1, -⟩ := v.openTick_spec (flipOf s v) (turnZeroOf s v)
    rw [hb] at he
    generalize v.openTick (flipOf s v) (turnZeroOf s v) = t at *
    have srg : t.srg = { s.srg with
        traction := .eHeld, brakeOrder := true, r := 0, motors := s.srg.motors.map SrgMotor.rest, tick := t.srg.tick } := by
      rw [g1, h2]
    refine ⟨t, by rw [he]; exact finish_none (by rw [g1, hvx]; exact hs), by rw [g1, h1], ?_⟩
    rw [srg]
    exact ⟨rfl, rfl, rfl, rfl, rfl, rfl, rfl, rfl, by rw [g1]; rfl⟩
  · have hv := State.ramp_held hb (zero h)
    have same := State.toHeld_same s 0
    generalize ({ s with srg := { s.srg with r := 0 } } : State).toHeld = v at *
    have hb := State.beginTick_ramps_halted hu hue hd hv (by rw [h1]; exact hp) (by rw [h2]; rfl)
    rw [hb] at he
    refine ⟨v.enterHalted, ?_, (State.enterHalted_facts (by rw [h1]; exact hw)).of same⟩
    rw [he]
    exact finish_none ((State.enterHalted_act (by rw [h1]; show s.exc.part ≠ _; rw [hp]; decide)).scan (by rw [h1]; exact hs))

/-! ### TURNING (R45, R54 to R56) -/

theorem State.rampedR_turning {s : State} (h : s.srg.traction = .turning) :
    s.rampedR = if (if s.drq.momentumOff then 0 else s.cfg.traction.decel) = 0 then 0
      else s.srg.r - (if s.drq.momentumOff then 0 else s.cfg.traction.decel) := by
  unfold State.rampedR
  rw [h]
  exact rampStep_zero _ _ _

/-- The ramp that takes R to 0 in TURNING, or leaves it there (R51, R83). -/
theorem State.ramp_turned {s : State} (h : s.srg.traction = .turning) (hr : s.rampedR = 0) :
    s.ramp = ({ s with srg := { s.srg with r := 0 } } : State).stopSlip.followModes := by
  unfold State.ramp
  dsimp only
  rw [if_pos hr, hr]
  split
  · next h' => rw [h] at h'; cases h'
  · rfl
  · next h' => exact absurd h h'

/-- What slip's end between completions does: where SLIPPING ends, each duty is cut to the base limit (R51, R83). -/
theorem State.stopSlip_spec (s : State) :
    s.stopSlip = { s with srg := { s.srg with motors := s.stopSlip.srg.motors }, bfu := s.stopSlip.bfu }
    ∧ s.stopSlip.bfu = { s.bfu with chans := s.stopSlip.bfu.chans, slip := .normal, slipRun := 0, faster := none }
    ∧ (s.bfu.slip = .normal → s.stopSlip.srg.motors = s.srg.motors)
    ∧ (s.bfu.slip = .slipping → ∀ m, s.stopSlip.srg.motors.get m
        = { s.srg.motors.get m with d := min (s.srg.motors.get m).d (s.baseLimit s.cfg.traction) })
    ∧ ∀ m, (s.stopSlip.chan m).dir = (s.chan m).dir := by
  unfold State.stopSlip
  by_cases h : s.bfu.slip = .slipping
  · rw [if_pos h]
    obtain ⟨h1, h2⟩ := s.endSlip.limitDuty_spec
    have hl (m : Motor) : s.endSlip.dutyLimit s.endSlip.cfg.traction m = s.baseLimit s.cfg.traction := by
      unfold State.dutyLimit
      rw [if_neg]
      · rfl
      · rintro ⟨h, -⟩
        cases h
    refine ⟨?_, ?_, fun h' => absurd h (by rw [h']; decide), fun _ m => ?_, fun m => ?_⟩
    · rw [h1]
      rfl
    · rw [h1]
      rfl
    · rw [(h2 m).1, hl]
      rfl
    · rw [(h2 m).2, Channel.hand_dir]
      rfl
  · rw [if_neg h]
    exact ⟨rfl, rfl, fun _ => rfl, fun h' => absurd h' h, fun _ => rfl⟩

/-- A tick that stays in TURNING, or enters it (R45, R54, R56). -/
theorem State.settle_turning {s : State} (ho : s.drq.dir ≠ s.srg.bridgeDir)
    (h : (s.srg.traction = .moving ∧ 0 < s.srg.r) ∨ (s.srg.traction = .turning ∧ 0 < s.srg.r)
      ∨ (s.srg.traction = .turning ∧ s.cfg.traction.standstill < s.srg.vl ∧ s.srg.turnMark = false)) :
    s.settle = { s with srg := { s.srg with traction := .turning } } := by
  have other : s.otherWay = true := s.otherWay_iff.mpr ho
  have stays (ht : s.srg.traction = .turning) (hd : s.turnDone = false) : s.settle = { s with srg := { s.srg with traction := .turning } } := by
    have e : s.settle = s := by
      unfold State.settle
      rw [ht]
      unfold State.settleTurning
      rw [other, hd]
      rfl
    rw [e, ← ht]
  rcases h with ⟨ht, hr⟩ | ⟨ht, hr⟩ | ⟨ht, hv, hm⟩
  · unfold State.settle
    rw [ht]
    unfold State.settleMoving
    rw [other, if_pos rfl, if_pos hr]
    rfl
  · refine stays ht ?_
    unfold State.turnDone
    have : (s.srg.r == 0) = false := by simp; omega
    rw [this]
    rfl
  · refine stays ht ?_
    unfold State.turnDone
    rw [hm, decide_eq_false (by omega)]
    simp

/-- The flip of a TURNING that waits no longer (R45, R55). -/
theorem State.settle_flips {s : State} (ho : s.drq.dir ≠ s.srg.bridgeDir) (ht : s.srg.traction = .turning) (hr : s.srg.r = 0)
    (h : s.srg.vl ≤ s.cfg.traction.standstill ∨ s.srg.turnMark = true) :
    s.settle = if 0 < s.drq.s then s.flipBridge.toTraction .moving else s.flipBridge.toStanding := by
  have other : s.otherWay = true := s.otherWay_iff.mpr ho
  have done : s.turnDone = true := by
    unfold State.turnDone
    rw [hr]
    rcases h with h | h
    · rw [decide_eq_true h]; rfl
    · rw [h]; simp
  unfold State.settle
  rw [ht]
  unfold State.settleTurning
  rw [other, done]
  rfl

/-- An entry to HALTED makes the same facts of the flip's STANDING as of the state before it (R13, R49, R55). -/
theorem State.flipStanding_same (s : State) :
    HaltSame { s with srg := { s.srg with traction := .standing, bridgeDir := s.drq.dir } } s.flipBridge.toStanding := by
  obtain ⟨h1, h2, h3, h4, h5⟩ := s.flipBridge.toStanding_spec
  obtain ⟨f1, -, f3, f4, f5, f6, f7, f8, f9, -⟩ := s.flipBridge.toStanding_driveOnly.fields
  generalize s.flipBridge.toStanding = u at *
  refine ⟨fun a _ => by rw [f8]; rfl, fun p => by rw [h1]; rfl, fun m => ?_, by rw [h3]; exact ⟨rfl, rfl⟩, fun m => (h5 m).2.2.1,
    by rw [h2]; exact ⟨rfl, rfl, rfl, rfl, rfl⟩, by rw [f3]; exact ⟨rfl, rfl, rfl⟩, by rw [f4]; rfl, by rw [f5]; rfl, ⟨f9, f6, f7, f1⟩,
    by rw [h4]; exact ⟨rfl, rfl, rfl, rfl⟩⟩
  rw [h1]
  cases m <;> rfl

theorem State.motors_rest_flipped (s : State) (m : Motor) :
    (s.flipBridge.srg.motors.map SrgMotor.rest).get m = { s.srg.motors.get m with i := 0, sat := .zero, d := 0 } := by
  cases m <;> rfl

/-- Settles O40, by the ramp that TURNING makes and by the flip that ends it. -/
theorem tickTurns : Obligations.TickTurns := by
  intro s hs hd hk ht htick ho c up down base r
  have he := exec_regulationTimer hd ht htick
  have hbase : s.baseLimit s.cfg.traction = base := s.baseLimit_eq _
  refine ⟨fun hc => ?_, fun htr hr hdone => ⟨fun hp => ?_, fun hp hz hw => ?_⟩⟩
  · have hu := State.settle_turning ho hc
    obtain ⟨u, hu'⟩ : ∃ u : State, ({ s with srg := { s.srg with traction := .turning } } : State) = u := ⟨_, rfl⟩
    rw [hu'] at hu
    have utr : u.srg.traction = .turning := by rw [← hu']
    have hue : u.endStopping = u := State.endStopping_stays (by rw [utr]; rfl) (by rw [← hu']; exact hk)
    have hud : u.exc.part.driving = true := by rw [← hu']; exact hd
    have hr : u.rampedR = r := by
      rw [State.rampedR_turning utr, ← hu']
    have hramp : ∃ v : State, u.ramp = v ∧ v = { s with srg := v.srg, bfu := v.bfu }
        ∧ v.srg = { s.srg with traction := .turning, r := r, motors := v.srg.motors }
        ∧ v.bfu.window = s.bfu.window ∧ (∀ m, (v.chan m).dir = (s.chan m).dir)
        ∧ (0 < r ∨ s.bfu.slip = .normal → v.srg.motors = s.srg.motors)
        ∧ (0 < r → v.bfu.slip = s.bfu.slip ∧ v.bfu.slipRun = s.bfu.slipRun ∧ v.bfu.faster = s.bfu.faster)
        ∧ (r = 0 → v.bfu.slip = .normal ∧ v.bfu.slipRun = 0 ∧ v.bfu.faster = none)
        ∧ (r = 0 → s.bfu.slip = .slipping → ∀ m, v.srg.motors.get m = { s.srg.motors.get m with d := min (s.srg.motors.get m).d base }) := by
      by_cases h0 : 0 < r
      · obtain ⟨h1, h2⟩ := u.ramped_spec r
        refine ⟨u.ramped r, by rw [State.ramp_above (by rw [hr]; exact h0), hr], ?_⟩
        generalize u.ramped r = v at *
        refine ⟨by rw [h1, ← hu'], by rw [h1, ← hu'], by rw [h1, ← hu'], fun m => ?_, fun _ => by rw [h1, ← hu'],
          fun _ => by rw [h1, ← hu']; exact ⟨rfl, rfl, rfl⟩, fun h => by omega, fun h => by omega⟩
        rw [(h2 m).2.1, ← hu']
        rfl
      · have hz : r = 0 := by omega
        obtain ⟨w, hw⟩ : ∃ w : State, ({ u with srg := { u.srg with r := 0 } } : State) = w := ⟨_, rfl⟩
        obtain ⟨s1, s2, s3, s4, s5⟩ := w.stopSlip_spec
        have hv : u.ramp = w.stopSlip.followModes := by rw [State.ramp_turned utr (hr.trans hz), hw]
        have hf := State.followModes_kept w.stopSlip
        have hm := State.followModes_fields w.stopSlip
        refine ⟨w.stopSlip.followModes, hv, ?_⟩
        generalize w.stopSlip.followModes = v at *
        have mot : v.srg.motors = w.stopSlip.srg.motors := by rw [hf]
        have wl : w.baseLimit w.cfg.traction = base := by rw [← hw, ← hu']; exact hbase
        refine ⟨?_, ?_, ?_, fun m => ?_, fun h => ?_, fun h => by omega, fun _ => ?_, fun _ h m => ?_⟩
        · rw [hf, s1, ← hw, ← hu']
        · rw [hf, s1, ← hw, ← hu', hz]
        · rw [hf, s2, ← hw, ← hu']
        · rw [(hm m).2.2.1, s5, ← hw, ← hu']
          rfl
        · rw [mot, s3]
          · rw [← hw, ← hu']
          · rw [← hw, ← hu']
            exact h.resolve_left (by omega)
        · rw [hf, s2]
          exact ⟨rfl, rfl, rfl⟩
        · rw [mot, s4 (by rw [← hw, ← hu']; exact h), wl, ← hw, ← hu']
    obtain ⟨v, hv, v1, v2, v3, v4, v5, v6, v7, v8⟩ := hramp
    have hvx : v.exc = s.exc := by rw [v1]
    have hve : v.endStopping = v := State.endStopping_stays (by rw [v2]; rfl) (by rw [v1]; exact hk)
    have hb := State.beginTick_opens hu hue hud hv hve (by rw [hvx]; exact hd)
    have hf : flipOf s v = none := if_pos (by rw [v2])
    obtain ⟨g1, -⟩ := v.openTick_spec none (turnZeroOf u v)
    have gd := v.openTick_chan none (turnZeroOf u v)
    rw [hb, hf] at he
    have hz : turnZeroOf u v = true ↔ 0 < s.srg.r ∧ r = 0 := by
      unfold turnZeroOf
      rw [v2, ← hu']
      simp
    generalize turnZeroOf u v = z at *
    generalize v.openTick none z = t at *
    have tb : t.bfu = { v.bfu with chans := t.bfu.chans, window := some ⟨.settling, none⟩ } := by rw [g1]
    have ts : t.srg = { v.srg with tick := some ⟨v.cfg.traction, v.srg.bridgeDir, z⟩ } := by rw [g1]
    have tm : t.srg.motors = v.srg.motors := by rw [ts]
    refine ⟨t, z, by rw [he]; exact finish_none (by rw [g1, hvx]; exact hs), by rw [g1, v1], ?_, hz, ?_, ?_, ?_, ?_, by rw [tb],
      fun m => (gd m).2.trans (v4 m)⟩
    · rw [ts, v2, v1]
    · rw [tm]; exact v5
    · rw [tb]; exact v6
    · rw [tb]; exact v7
    · rw [tm]; exact v8
  · have hu := State.settle_flips ho htr hr hdone
    by_cases h0 : 0 < s.drq.s
    · rw [if_pos h0] at hu
      have he := State.beginTick_running hs hp ht htick hu (.inl rfl) rfl
      obtain ⟨h1, h2, h3, h4⟩ := (s.flipBridge.toTraction .moving).opened_spec (flipOf s (s.flipBridge.toTraction .moving))
      obtain ⟨r1, -, -⟩ := State.rampedR_moving (s := s.flipBridge.toTraction .moving) rfl
      have hr' : (s.flipBridge.toTraction .moving).rampedR = if up = 0 then s.drq.s else min up s.drq.s := by
        have : (s.flipBridge.toTraction .moving).srg.r = 0 := hr
        rw [r1 (by rw [this]; exact h0), this, Nat.zero_add]
        rfl
      have hf : flipOf s (s.flipBridge.toTraction .moving) = some s.drq.dir := if_neg (Ne.symm ho)
      rw [hf] at he h1 h2 h3 h4
      generalize State.openTick _ (some s.drq.dir) false = t at *
      refine ⟨t, he, by rw [h1]; rfl, ?_, fun m => ?_, ?_, by rw [h3], fun m => (h4 m).2.1⟩
      · rw [h2, hr', if_pos h0]
        rfl
      · rw [h2, if_pos h0]
        cases m <;> rfl
      · rw [h1, if_pos h0]
        rfl
    · rw [if_neg h0] at hu
      obtain ⟨s1, s2, s3, s4, s5⟩ := s.flipBridge.toStanding_spec
      have sd := s.flipBridge.toStanding_driveOnly
      generalize s.flipBridge.toStanding = u at *
      have he := State.beginTick_running hs hp ht htick hu (.inr (by rw [s1])) s4
      obtain ⟨h1, h2, h3, h4⟩ := u.opened_spec (flipOf s u)
      have hr' : u.rampedR = 0 := by
        unfold State.rampedR
        rw [s1]
        exact hr
      have ubd : u.srg.bridgeDir = s.drq.dir := by rw [s1]; rfl
      have hf : flipOf s u = some s.drq.dir := by
        unfold flipOf
        rw [ubd, if_neg (Ne.symm ho)]
      have hcfg : u.cfg = s.cfg := sd.fields.2.2.2.2.2.2.2.2.1
      have hS : s.drq.s = 0 := by omega
      rw [hf] at he h1 h2 h3 h4
      generalize (u.ramped u.rampedR).openTick (some s.drq.dir) false = t at *
      refine ⟨t, he, ?_, ?_, fun m => ?_, ?_, by rw [h3], fun m => (h4 m).2.1.trans (s5 m).2.2.1⟩
      · have e : u = { s with srg := u.srg, bfu := u.bfu, chk := u.chk } := by
          rw [sd, s4]
          rfl
        rw [h1, e]
      · have e : (if up = 0 then s.drq.s else min up s.drq.s) = 0 := by rw [hS]; simp
        rw [h2, s1, hr', e, if_neg h0, hcfg]
        rfl
      · rw [h2, s1, if_neg h0]
        exact s.motors_rest_flipped m
      · rw [h1, if_neg h0, s2]
        rfl
  · have hu := State.settle_flips ho htr hr hdone
    rw [if_neg (by omega)] at hu
    have same := s.flipStanding_same
    obtain ⟨s1, -, -, s4, -⟩ := s.flipBridge.toStanding_spec
    have sm := s.flipBridge.toStanding_driveOnly.fields.2.2.2.2.2.2.2.1
    generalize s.flipBridge.toStanding = u at *
    have ux : u.exc = s.exc := s4
    have hb := State.beginTick_settles_halted hu (by rw [ux]; exact hp) (by rw [s1]; rfl)
    rw [hb] at he
    refine ⟨u.enterHalted, ?_, (State.enterHalted_facts (by rw [sm]; exact hw)).of same⟩
    rw [he]
    exact finish_none ((State.enterHalted_act (by rw [ux, hp]; decide)).scan (by rw [ux]; exact hs))

end Sys2Proof.Machine
end

section
/-!
PROOF. The chuff event and what its four consumers do with it (R93, R94), and the sensor path that makes it (O50).
-/
set_option Elab.async false

namespace Sys2Proof.Machine

/-! ### A chuff in its consumers (R94) -/

theorem clampNat_eq (x : Int) (hi : Nat) : (clampNat x hi : Int) = max 0 (min x hi) := by
  unfold clampNat clampInt
  omega

/-- A CHUFF request enters the start queue while it has a place, and changes nothing otherwise (R101, R125). -/
theorem State.requestStart_chuff (s : State) {r : StartReq} (h : r.asker = .chuff) :
    s.requestStart r = if 32 ≤ s.snd.queue.length then s else { s with snd := { s.snd with queue := s.snd.queue ++ [r] } } := by
  unfold State.requestStart
  rw [h]
  rfl

theorem State.chuffVoice_soundOnly (s : State) (index : Nat) : soundOnly s (s.chuffVoice index) := by
  unfold State.chuffVoice
  dsimp only
  split
  · exact s.endVoice_soundOnly 0 .cut
  · exact s.requestStart_soundOnly _

/-- A voice's end leaves the other voices and the start queue as they are (R110). -/
theorem State.endVoice_others (s : State) (v : Fin 8) (reason : EndReason) :
    (s.endVoice v reason).voice v = (if (s.voice v).active then {} else s.voice v)
    ∧ (∀ w, w ≠ v → (s.endVoice v reason).voice w = s.voice w) ∧ (s.endVoice v reason).snd.queue = s.snd.queue := by
  cases h : (s.voice v).active with
  | false =>
    rw [State.endVoice_free reason h]
    exact ⟨rfl, fun _ _ => rfl, rfl⟩
  | true =>
    obtain ⟨-, hv, -⟩ := State.endVoice_ended (s := s) reason h
    refine ⟨?_, fun w hw => ?_, (State.endVoice_starts s v reason).1⟩
    · show (s.endVoice v reason).snd.voices.get v = _
      rw [hv, Octet.get_set_if, if_pos rfl, if_pos rfl]
    · show (s.endVoice v reason).snd.voices.get w = _
      rw [hv, Octet.get_set_if, if_neg hw]
      rfl

theorem State.puffChuff_only (s : State) (p : Nat) : s.puffChuff p = { s with smk := (s.puffChuff p).smk } := by
  unfold State.puffChuff
  dsimp only
  split
  · split <;> rfl
  · rfl

/-- The state of a chuff event once the chuff clock has counted it (R93). -/
def State.chuffed (s : State) : State :=
  { s with chk := { s.chk with
      lastChuff := s.chk.period, next := (s.chk.next + 1) % s.cfg.chuff.perCycle, first := false, interval := 0,
      count := s.chk.count + 1 } }

/-- What a chuff makes of the light unit, the last consumer but EXC (R154). -/
def State.flashed (s : State) : Lgt :=
  { s.lgt with lamps := Octet.ofFn fun k => (s.lgt.lamps.get k).chuff (s.cfg.lights.get k) s.lgt.cap }

theorem Lamp.chuff_spec (p : Program) (cap : Nat) (l : Lamp) :
    ((∀ low flash, p.effect ≠ .chuffFlash low flash) → l.chuff p cap = l)
    ∧ ∀ low flash, p.effect = .chuffFlash low flash →
      (l.active = false → l.chuff p cap = { l with flash := 10 * flash })
      ∧ (l.active = true → ∃ v, v = (if l.dimmed then p.level * p.dimLevel / 255 else p.level)
        ∧ l.chuff p cap = { l with flash := 10 * flash, program := v, level := min v cap }) := by
  refine ⟨fun h => ?_, fun low flash h => ?_⟩
  · unfold Lamp.chuff
    split
    · next heq => exact absurd heq (h _ _)
    · rfl
  · unfold Lamp.chuff
    rw [h]
    dsimp only
    rw [Nat.mul_comm flash 10]
    refine ⟨fun ha => if_neg (by rw [ha]; decide), fun ha => ⟨_, rfl, ?_⟩⟩
    rw [if_pos ha]
    rfl

/-- A chuff event changes the chuff clock, and the four consumers alone (R93, R94). -/
theorem State.chuffEvent_only (s : State) :
    s.chuffEvent = { s with
      chk := s.chuffed.chk, snd := (s.chuffed.chuffVoice s.chk.next).snd, smk := (s.chuffed.puffChuff s.chk.period).smk, lgt := s.flashed,
      exc := { s.exc with
        nlat := (s.chuffed.chuffVoice s.chk.next).exc.nlat, scan := (s.chuffed.chuffVoice s.chk.next).exc.scan,
        chuffHeld := s.exc.chuffHeld || decide (s.exc.part = .running ∧ s.exc.slotState = .pending
          ∧ s.exc.slotMoment = 2 ∧ s.exc.slotEmergency = 0) } } := by
  have hv := State.chuffVoice_soundOnly s.chuffed s.chk.next
  have hd : s.chuffEvent = (((s.chuffed.chuffVoice s.chk.next).puffChuff s.chk.period).flashChuff).chuffToSlot := rfl
  rw [hd]
  unfold soundOnly at hv
  generalize s.chuffed.chuffVoice s.chk.next = u at hv ⊢
  rw [hv]
  have hp (x : Snd) (n : BitVec 15) (w : Option ScanWork) :
      State.puffChuff { s.chuffed with snd := x, exc := { s.chuffed.exc with nlat := n, scan := w } } s.chk.period
      = { s.chuffed with
        snd := x, exc := { s.chuffed.exc with nlat := n, scan := w }, smk := (s.chuffed.puffChuff s.chk.period).smk } := by
    unfold State.puffChuff
    dsimp only
    split
    · split <;> rfl
    · rfl
  rw [hp]
  unfold State.chuffToSlot
  split
  · next h =>
    have h' : s.exc.part = .running ∧ s.exc.slotState = .pending ∧ s.exc.slotMoment = 2 ∧ s.exc.slotEmergency = 0 := h
    simp only [decide_eq_true h', Bool.or_true]
    rfl
  · next h =>
    have h' : ¬ (s.exc.part = .running ∧ s.exc.slotState = .pending ∧ s.exc.slotMoment = 2 ∧ s.exc.slotEmergency = 0) := h
    simp only [decide_eq_false h', Bool.or_false]
    rfl

theorem State.chuffEvent_chk (s : State) : s.chuffEvent.chk = s.chuffed.chk := by rw [s.chuffEvent_only]

/-- What a chuff event can change (R93, R94). -/
theorem State.chuffEvent_kept (s : State) :
    s.chuffEvent = { s with
      chk := s.chuffEvent.chk, snd := s.chuffEvent.snd, smk := s.chuffEvent.smk, lgt := s.chuffEvent.lgt,
      exc := { s.exc with nlat := s.chuffEvent.exc.nlat, scan := s.chuffEvent.exc.scan, chuffHeld := s.chuffEvent.exc.chuffHeld } } := by
  rw [s.chuffEvent_only]

/-- The clips of the chuff set that a labour and a speed band choose (R117, R125). -/
def State.chuffClips (s : State) : List Nat :=
  s.cfg.sound.sets.getD (3 * s.srg.band + (if s.srg.labour ≤ 2 then 0 else if s.srg.labour ≤ 4 then 1 else 2)) []

/-- A chuff event reaches its four consumers (R94, R125, R142, R154, R15). -/
theorem State.chuffEvent_reaches (s : State) : ChuffReaches s s.chuffEvent s.chk.next s.chk.period s.chuffClips := by
  rw [s.chuffEvent_only]
  have hr (r : StartReq) (h : r.asker = .chuff) := s.chuffed.requestStart_chuff h
  have he : s.chuffed.chuffVoice s.chk.next = if s.chuffClips.length = 0 then s.chuffed.endVoice 0 .cut
      else s.chuffed.requestStart
        { cls := .chuff, asker := .chuff, clip := s.chuffClips.getD (s.chk.next % s.chuffClips.length) 0, pitch := 256,
          volume := s.cfg.sound.chuffVolume.getD s.srg.labour 0, priority := 0, tag := 0, loop := false } := rfl
  have hp : (s.chuffed.puffChuff s.chk.period).smk = if s.smk.state = .ready then
      if (puffOf s.cfg.smoke s.exc.ms s.chk.period s.srg.labour).length = 0 then { s.smk with puff := none, fan := s.cfg.smoke.idle }
      else { s.smk with
        puff := some (puffOf s.cfg.smoke s.exc.ms s.chk.period s.srg.labour),
        fan := if (puffOf s.cfg.smoke s.exc.ms s.chk.period s.srg.labour).kick = 0
          then (puffOf s.cfg.smoke s.exc.ms s.chk.period s.srg.labour).duty else 255 }
      else s.smk := by
    unfold State.puffChuff
    dsimp only
    split
    · next h =>
      rw [if_pos (show s.smk.state = .ready from h)]
      split
      · next hl => exact (if_pos hl).symm
      · next hl => exact (if_neg hl).symm
    · next h => exact (if_neg (show ¬ s.smk.state = .ready from h)).symm
  refine ⟨rfl, fun h => ?_, fun h hq => ?_, fun h hq => ?_, fun h => ?_, fun h => ?_, fun k => ?_, ?_⟩
  · have e := he.trans (if_pos (by rw [h]; rfl))
    rw [e]
    exact s.chuffed.endVoice_others 0 .cut
  · have e := he.trans (if_neg (by simpa using h))
    rw [e, hr _ rfl, if_neg (by show ¬ 32 ≤ s.snd.queue.length; omega)]
    rfl
  · have e := he.trans (if_neg (by simpa using h))
    rw [e, hr _ rfl, if_pos (by exact hq)]
    rfl
  · exact hp.trans (if_neg h)
  · rw [if_pos h] at hp
    refine ⟨_, _, _, rfl, rfl, clampNat_eq _ _, fun hl => ?_, fun hl => ?_⟩
    · exact hp.trans (if_pos hl)
    · refine (hp.trans (if_neg (by show ¬ min s.cfg.smoke.puffMax (s.chk.period * 7 / 10) = 0; omega))).trans ?_
      rfl
  · have e : (s.flashed.lamps.get k) = (s.lgt.lamps.get k).chuff (s.cfg.lights.get k) s.lgt.cap := Octet.get_ofFn _ _
    dsimp only
    rw [e]
    exact Lamp.chuff_spec _ _ _
  · show (s.exc.chuffHeld || _) = true ↔ _
    rw [Bool.or_eq_true, decide_eq_true_iff]

/-- What of a state the consumers of a chuff look at (R94). -/
structure ChuffSame (s u : State) : Prop where
  cfg  : u.cfg = s.cfg
  snd  : u.snd = s.snd
  smk  : u.smk = s.smk
  lgt  : u.lgt = s.lgt
  ms   : u.exc.ms = s.exc.ms
  part : u.exc.part = s.exc.part
  slot : u.exc.slotState = s.exc.slotState ∧ u.exc.slotMoment = s.exc.slotMoment ∧ u.exc.slotEmergency = s.exc.slotEmergency
  held : u.exc.chuffHeld = s.exc.chuffHeld

theorem ChuffReaches.of {s u t t' : State} {i p : Nat} {clips : List Nat} (h : ChuffReaches u t i p clips) (hs : ChuffSame s u)
    (ht : t'.snd = t.snd ∧ t'.smk = t.smk ∧ t'.lgt = t.lgt ∧ t'.exc.chuffHeld = t.exc.chuffHeld)
    (hl : t'.srg.band = t.srg.band ∧ t'.srg.labour = t.srg.labour) : ChuffReaches s t' i p clips := by
  obtain ⟨t1, t2, t3, t4⟩ := ht
  obtain ⟨l1, l2⟩ := hl
  obtain ⟨s1, s2, s3⟩ := hs.slot
  obtain ⟨h1, h2, h3, h4, h5, h6, h7, h8⟩ := h
  simp only [State.voice, hs.cfg, hs.snd, hs.smk, hs.lgt, hs.ms, hs.part, hs.held, s1, s2, s3, ← t1, ← t2, ← t3, ← t4, ← l1, ← l2]
    at h1 h2 h3 h4 h5 h6 h7 h8
  exact ⟨h1, h2, h3, h4, h5, h6, h7, h8⟩

/-! ### The sensor path (R86 to R90) -/

theorem EdgeSelect.admits_iff (e : EdgeSelect) (x : Level) :
    e.admits x = true ↔ e = .both ∨ (e = .rising ∧ x = .high) ∨ (e = .falling ∧ x = .low) := by
  cases e <;> cases x <;> decide

/-- A sensor event that is a chuff (R89). -/
theorem State.sensorEvent_chuffs {s u : State} (hu : u = { s with chk := { s.chk.captureEvent with source := .sensorLive } })
    (h : s.chk.source = .sensorLive
      ∨ (s.chk.source = .sensorLost ∧ s.chk.captureEvent.lastSensor < s.cfg.chuff.lostTime * 1000)) :
    s.sensorEvent = u.chuffEvent.restartLost := by
  unfold State.sensorEvent
  dsimp only
  subst hu
  rcases h with h | ⟨h, hl⟩
  · have e : s.chk.captureEvent.source = .sensorLive := h
    have same : ({ s.chk.captureEvent with source := .sensorLive } : Chk) = s.chk.captureEvent := by rw [← e]
    rw [e, same]
  · have e : s.chk.captureEvent.source = .sensorLost := h
    rw [e]
    exact if_pos hl

/-- A sensor event that is captured only (R89). -/
theorem State.sensorEvent_captured {s : State}
    (h : s.chk.source = .virtual
      ∨ (s.chk.source = .sensorLost ∧ s.cfg.chuff.lostTime * 1000 ≤ s.chk.captureEvent.lastSensor)) :
    s.sensorEvent = { s with chk := s.chk.captureEvent } := by
  unfold State.sensorEvent
  dsimp only
  rcases h with h | ⟨h, hl⟩
  · have e : s.chk.captureEvent.source = .virtual := h
    rw [e]
  · have e : s.chk.captureEvent.source = .sensorLost := h
    rw [e]
    exact if_neg (by omega)

/-- A sample that makes no qualified edge (R86). -/
theorem exec_axsSample_quiet {s : State} {x : Level} {k : Chk} (hd : s.exc.part.driving = true)
    (hq : s.chk.capturePass.qualify s.cfg.chuff.qualifier x = (k, none)) : exec (.axsSample x) s = .next { s with chk := k } := by
  show execAxsSample x s = _
  unfold execAxsSample State.sampleAxs
  rw [if_pos hd, hq]

/-- A sample that makes a qualified edge (R86, R87). -/
theorem exec_axsSample_edge {s : State} {x : Level} {k : Chk} (hd : s.exc.part.driving = true)
    (hq : s.chk.capturePass.qualify s.cfg.chuff.qualifier x = (k, some x)) :
    exec (.axsSample x) s = .next (State.qualifiedEdge { s with chk := k } x) := by
  show execAxsSample x s = _
  unfold execAxsSample State.sampleAxs
  rw [if_pos hd, hq]

/-- Settles O50: a sample's course through the qualifier, the edge selection, the prescaler and the source state. -/
theorem sensorEvents : Obligations.SensorEvents := by
  unfold Obligations.SensorEvents
  intro s x k count counted samples admits edged period event
  have lost : execLostTimerExpiry s = exec .lostTimerExpiry s := rfl
  refine ⟨fun hd => ?_, fun hd => ⟨fun hl => ⟨fun hr => ?_, fun hr => ?_⟩, fun hl => ?_, fun q hl hne => ⟨fun hr => ?_, fun hr => ?_⟩⟩,
    fun hs hn => ?_, fun h => ?_⟩
  · show execAxsSample x s = _
    exact if_neg (by simp [hd])
  · refine exec_axsSample_quiet hd ?_
    have e : s.chk.capturePass.level = none := hl
    unfold Chk.qualify
    rw [e]
    exact if_neg (by exact Nat.not_le_of_lt hr)
  · refine exec_axsSample_quiet hd ?_
    have e : s.chk.capturePass.level = none := hl
    unfold Chk.qualify
    rw [e]
    exact if_pos hr
  · refine exec_axsSample_quiet hd ?_
    have e : s.chk.capturePass.level = some x := hl
    unfold Chk.qualify
    rw [e]
    dsimp only
    rw [if_pos rfl, ← e]
    rfl
  · refine exec_axsSample_quiet hd ?_
    have e : s.chk.capturePass.level = some q := hl
    unfold Chk.qualify
    rw [e]
    dsimp only
    rw [if_neg hne, if_neg (by exact Nat.not_le_of_lt hr), ← e]
    rfl
  · have he : exec (.axsSample x) s = .next (State.qualifiedEdge { s with chk := edged } x) := by
      refine exec_axsSample_edge hd ?_
      have e : s.chk.capturePass.level = some q := hl
      unfold Chk.qualify
      rw [e]
      dsimp only
      rw [if_neg hne]
      exact if_pos hr
    rw [he]
    unfold State.qualifiedEdge
    refine ⟨fun ha => ?_, fun ha hp => ?_, fun ha hp => ?_⟩
    · rw [if_neg (fun h => ha ((EdgeSelect.admits_iff _ _).1 h))]
    · rw [if_pos ((EdgeSelect.admits_iff _ _).2 ha), if_neg (by exact Nat.not_le_of_lt hp)]
    · rw [if_pos ((EdgeSelect.admits_iff _ _).2 ha), if_pos (by exact hp)]
      refine ⟨fun h => ?_, fun h => ?_⟩
      · exact congrArg Host.Outcome.next (State.sensorEvent_captured (s := { s with chk := { edged with prescale := 0 } }) h)
      · obtain ⟨u, hu⟩ : ∃ u, u = ({ s with chk := { event with source := .sensorLive } } : State) := ⟨_, rfl⟩
        rw [State.sensorEvent_chuffs (s := { s with chk := { edged with prescale := 0 } }) hu h]
        have only := u.chuffEvent_kept
        have reaches := u.chuffEvent_reaches
        have hi : u.chk.next = k.next ∧ u.chk.period = if k.first then 65535 else k.interval := by rw [hu]; exact ⟨rfl, rfl⟩
        rw [hi.1, hi.2] at reaches
        have same : ChuffSame s u := by subst hu; exact ⟨rfl, rfl, rfl, rfl, rfl, rfl, ⟨rfl, rfl, rfl⟩, rfl⟩
        refine ⟨_, rfl, ?_, ?_, u.chuffClips, reaches.of same ⟨rfl, rfl, rfl, rfl⟩ ⟨rfl, rfl⟩⟩
        · show { u.chuffEvent.chk with lostTimer := u.chuffEvent.chk.lostTimer.map fun _ => u.chuffEvent.cfg.chuff.lostTime } = _
          rw [u.chuffEvent_chk, congrArg State.cfg only, hu]
          rfl
        · generalize u.chuffEvent = t at only
          rw [only, hu]
          rfl
  · rw [← lost]
    exact if_pos ⟨by simpa [Option.isSome_iff_ne_none] using hn, hs⟩
  · rw [← lost]
    refine if_neg (fun h' => ?_)
    rcases h with h | h
    · exact h h'.2
    · rw [h] at h'
      exact absurd h'.1 (by decide)

end Sys2Proof.Machine
end

section
/-!
PROOF. The completion of a tick, part by part (R47 to R54, R74, R76, R81, R82, R90, R91): BFU's share, the speed estimates, slip,
regulation, labour, the turn timer and the chuff clock, each with what it leaves unchanged.
-/
set_option Elab.async false

namespace Sys2Proof.Machine

/-! ### Notices stay latched (R5) -/

/-- Every notice latched in `s` is latched in `t`. -/
def Latched (s t : State) : Prop := ∀ i, s.exc.nlat.getLsbD i = true → t.exc.nlat.getLsbD i = true

theorem Latched.trans {s t u : State} (h : Latched s t) (h' : Latched t u) : Latched s u := fun i hi => h' i (h i hi)

theorem Latched.same {s t : State} (h : t.exc.nlat = s.exc.nlat) : Latched s t := fun i hi => by rw [h]; exact hi

theorem State.latch_latched (s : State) (k : Notice) : Latched s (s.latch k) := fun i hi => by
  rw [State.latch_exc_nlat, BitVec.getLsbD_or, hi, Bool.true_or]

theorem State.endVoice_latched (s : State) (v : Fin 8) (reason : EndReason) : Latched s (s.endVoice v reason) := by
  have h : Latched s (s.recordEnd (s.voice v).tag reason v) := by
    unfold State.recordEnd
    split
    · exact .same rfl
    · exact State.latch_latched _ _
  unfold State.endVoice
  dsimp only
  split
  · exact h.trans (.same rfl)
  · exact .same rfl

theorem State.endVoices_latched (reason : EndReason) (l : List (Fin 8)) (s : State) : Latched s (State.endVoices reason l s) := by
  induction l generalizing s with
  | nil => exact .same rfl
  | cons v rest ih => exact (s.endVoice_latched v reason).trans (ih _)

theorem State.handBack_nlat (s : State) (a : Requester) (o : StartOutcome) : (s.handBack a o).exc.nlat = s.exc.nlat := by
  unfold State.handBack
  split
  · rfl
  · split <;> rfl
  · rfl

theorem State.handBackAll_nlat (o : StartOutcome) (q : List StartReq) (s : State) : (State.handBackAll o q s).exc.nlat = s.exc.nlat := by
  induction q generalizing s with
  | nil => rfl
  | cons r rest ih => exact (ih _).trans (s.handBack_nlat _ _)

theorem State.shedVoices_latched (s : State) : Latched s s.shedVoices := by
  have h := s.endVoices_latched .shed octetIndices
  unfold State.shedVoices
  dsimp only
  generalize State.endVoices .shed octetIndices s = u at h ⊢
  refine h.trans (.same ?_)
  rw [State.handBackAll_nlat]

theorem State.haltSound_latched (s : State) : Latched s s.haltSound := by
  have h := s.shedVoices_latched
  unfold State.haltSound
  dsimp only
  generalize s.shedVoices = u at h ⊢
  exact h.trans (.same rfl)

/-! ### The entry to HALTED, whatever memory holds (R13) -/

/-- SRG, BFU, CHK and the notices at an entry to HALTED (R62, R84, R95). -/
theorem State.enterHalted_drive (s : State) :
    s.enterHalted.srg = { s.srg with
      traction := if s.srg.traction.ends then s.srg.traction else .standing, r := 0, brakeOrder := false, tick := none,
      regTimer := false, turnTimer := none, turnMark := false, motors := s.srg.motors.map SrgMotor.rest }
    ∧ s.enterHalted.bfu = { s.bfu with
      chans := s.enterHalted.bfu.chans, window := none, slip := .normal, slipRun := 0, faster := none }
    ∧ (∀ m, (s.enterHalted.chan m).dead = true ∧ (s.enterHalted.chan m).persist = 0 ∧ (s.enterHalted.chan m).avg = 0)
    ∧ Latched s s.enterHalted := by
  have e : s.enterHalted = ((s.setPart .halted).haltTraction.haltBridge.haltChuff).haltSound.haltLast := rfl
  obtain ⟨d1, d2, d3, -⟩ := State.haltDrive_facts (s.setPart .halted)
  have dl : Latched s ((s.setPart .halted).haltTraction.haltBridge.haltChuff) := by
    have hs : Latched (s.setPart .halted) ((s.setPart .halted).haltTraction.haltBridge.haltChuff) := by
      refine .same (Eq.trans (b := (s.setPart .halted).haltTraction.exc.nlat) rfl ?_)
      unfold State.haltTraction
      dsimp only
      split
      · exact congrArg Exc.nlat (State.toStanding_spec _).2.2.2.1
      · exact congrArg Exc.nlat (State.toStanding_spec _).2.2.2.1
      · exact congrArg Exc.nlat (State.toStanding_spec _).2.2.2.1
      · rfl
    exact hs
  generalize (s.setPart .halted).haltTraction.haltBridge.haltChuff = u at e d1 d2 d3 dl
  obtain ⟨-, -, b1, b2, -⟩ := (State.haltSound_soundOnly u).fields
  have sl := u.haltSound_latched
  generalize u.haltSound = w at e b1 b2 sl
  have wsrg : w.haltLast.srg = w.srg := rfl
  have wbfu : w.haltLast.bfu = w.bfu := rfl
  rw [e]
  refine ⟨wsrg.trans (b1.trans d1), ?_, fun m => ?_, dl.trans (sl.trans ?_)⟩
  · rw [wbfu, b2]
    exact d2
  · have hc : w.haltLast.chan m = u.chan m := congrArg (fun x => x.chans.get m) (wbfu.trans b2)
    rw [hc]
    obtain ⟨x1, -, -, -, x3, x2, -⟩ := d3 m
    exact ⟨x1, x2, x3⟩
  · intro i hi
    rw [State.haltLast_exc]
    show (w.exc.nlat ||| _).getLsbD i = true
    rw [BitVec.getLsbD_or, hi, Bool.true_or]

theorem State.enterHalted_scan {s : State} (hs : s.exc.scan = none) (hp : s.exc.part ≠ .adopting) : s.enterHalted.exc.scan = none :=
  (State.enterHalted_act hp).scan hs

/-! ### BFU's share of a completion (R72, R74, R76) -/

/-- A completion before its stalls are judged: averages, persistence counts, and the window on its way to its end. -/
def State.bridged (s : State) : State := ({ s with srg := { s.srg with tick := none } } : State).windowEnding.judgeChannels

theorem State.bridged_spec {s : State} {f : Option Direction} (hw : s.bfu.window = some ⟨.converting, f⟩) :
    s.bridged = { s with
      srg := { s.srg with tick := none }, bfu := { s.bfu with chans := s.bridged.bfu.chans, window := some ⟨.ending, f⟩ } }
    ∧ ∀ m, s.bridged.chan m = if s.cfg.traction.present m then (s.chan m).average.persistStep else s.chan m := by
  refine ⟨?_, fun m => by cases m <;> rfl⟩
  have e : s.bfu.window.map (fun w => { w with phase := WindowPhase.ending }) = some ⟨.ending, f⟩ := by rw [hw]; rfl
  show ({ s with
    srg := { s.srg with tick := none },
    bfu := { s.bfu with chans := s.bridged.bfu.chans, window := s.bfu.window.map fun w => { w with phase := .ending } } } : State) = _
  rw [e]

theorem State.bridged_stalled (s : State) (hk : 0 < s.cfg.traction.persist) (m : Motor) :
    s.bridged.stalled m = true ↔ s.cfg.traction.present m = true ∧ (s.chan m).cbcMark = true
      ∧ s.cfg.traction.persist ≤ (s.chan m).persist + 1 := by
  have hc : s.bridged.chan m = if s.cfg.traction.present m then (s.chan m).average.persistStep else s.chan m := by cases m <;> rfl
  have hcfg : s.bridged.cfg = s.cfg := rfl
  unfold State.stalled
  rw [hc, hcfg, Bool.and_eq_true, decide_eq_true_iff]
  constructor
  · rintro ⟨hp, h⟩
    rw [if_pos hp] at h
    cases hm : (s.chan m).cbcMark with
    | false =>
      have z : (s.chan m).average.persistStep.persist = 0 := by unfold Channel.persistStep Channel.average; simp [hm]
      omega
    | true =>
      have z : (s.chan m).average.persistStep.persist = (s.chan m).persist + 1 := by unfold Channel.persistStep Channel.average; simp [hm]
      exact ⟨hp, rfl, by omega⟩
  · rintro ⟨hp, hm, h⟩
    rw [if_pos hp]
    have z : (s.chan m).average.persistStep.persist = (s.chan m).persist + 1 := by unfold Channel.persistStep Channel.average; simp [hm]
    exact ⟨hp, by omega⟩

/-- Without a stall, BFU's share is its averages and counts alone. -/
theorem State.completeBridge_quiet {s : State} (h : ∀ m, s.bridged.stalled m = false) : s.completeBridge = s.bridged := by
  show s.bridged.judgeStall = _
  unfold State.judgeStall
  rw [if_neg (by simp [h]), if_neg (by simp [h])]

/-! ### Speeds (R47 to R49) -/

/-- The speeds that a completion forms in `t` from those of `s` (R47, R48). -/
structure SpeedsFormed (s t : State) (k : Tick) (ea eb : EmfSet) : Prop where
  a    : 1 ≤ s.cfg.traction.motors →
    t.srg.motors.a.vf = filterSpeed s.srg.motors.a.vf (rawSpeed s.cfg.traction.kc (emfAverage ea k.dir))
  b    : 2 ≤ s.cfg.traction.motors →
    t.srg.motors.b.vf = filterSpeed s.srg.motors.b.vf (rawSpeed s.cfg.traction.kc (emfAverage eb k.dir))
  loco : t.srg.vl = if 2 ≤ s.cfg.traction.motors then (t.srg.motors.a.vf + t.srg.motors.b.vf) / 2 else t.srg.motors.a.vf

theorem SpeedsFormed.of {s s' t t' : State} {k : Tick} {ea eb : EmfSet} (h : SpeedsFormed s t k ea eb) (hc : s'.cfg = s.cfg)
    (hm : ∀ m, (s'.srg.motors.get m).vf = (s.srg.motors.get m).vf) (ht : ∀ m, (t'.srg.motors.get m).vf = (t.srg.motors.get m).vf)
    (hv : t'.srg.vl = t.srg.vl) : SpeedsFormed s' t' k ea eb := by
  have a1 : s'.srg.motors.a.vf = _ := hm .a
  have b1 : s'.srg.motors.b.vf = _ := hm .b
  have a2 : t'.srg.motors.a.vf = _ := ht .a
  have b2 : t'.srg.motors.b.vf = _ := ht .b
  obtain ⟨ha, hb, hl⟩ := h
  refine ⟨?_, ?_, ?_⟩
  · rw [hc, a1, a2]; exact ha
  · rw [hc, b1, b2]; exact hb
  · rw [hc, a2, b2, hv]; exact hl

theorem State.inTick_active {s : State} {k : Tick} (hk : k.cfg = s.cfg.traction) (m : Motor) : s.inTick k.cfg m = s.cfg.traction.present m := by
  unfold State.inTick
  rw [hk, Bool.and_self]

/-- The speed estimates change the filtered speeds and the loco speed alone (R47, R48). -/
theorem State.estimate_spec (s : State) {k : Tick} (ea eb : EmfSet) (hk : k.cfg = s.cfg.traction) :
    s.estimate k ea eb = { s with srg := { s.srg with motors := (s.estimate k ea eb).srg.motors, vl := (s.estimate k ea eb).srg.vl } }
    ∧ (∀ m, (s.estimate k ea eb).srg.motors.get m
      = { s.srg.motors.get m with vf := ((s.estimate k ea eb).srg.motors.get m).vf })
    ∧ SpeedsFormed s (s.estimate k ea eb) k ea eb := by
  have ha : (s.estimate k ea eb).srg.motors.a = if s.cfg.traction.present .a
      then s.srg.motors.a.estimate s.cfg.traction.kc (emfAverage ea k.dir) else s.srg.motors.a := by
    rw [← State.inTick_active hk, ← hk]; rfl
  have hb : (s.estimate k ea eb).srg.motors.b = if s.cfg.traction.present .b
      then s.srg.motors.b.estimate s.cfg.traction.kc (emfAverage eb k.dir) else s.srg.motors.b := by
    rw [← State.inTick_active hk, ← hk]; rfl
  have hl : (s.estimate k ea eb).srg.vl = locoSpeed (s.inTick k.cfg .b) (s.estimate k ea eb).srg.motors := rfl
  refine ⟨rfl, fun m => ?_, fun h => ?_, fun h => ?_, ?_⟩
  · cases m with
    | a => show (s.estimate k ea eb).srg.motors.a = { s.srg.motors.a with vf := (s.estimate k ea eb).srg.motors.a.vf }
           rw [ha]; split <;> rfl
    | b => show (s.estimate k ea eb).srg.motors.b = { s.srg.motors.b with vf := (s.estimate k ea eb).srg.motors.b.vf }
           rw [hb]; split <;> rfl
  · rw [ha, if_pos (by exact decide_eq_true h)]; rfl
  · rw [hb, if_pos (by exact decide_eq_true h)]; rfl
  · rw [hl, State.inTick_active hk]
    unfold locoSpeed Traction.present
    simp only [decide_eq_true_eq]

end Sys2Proof.Machine
end

section
/-!
PROOF. The rest of a completion (R50 to R54, R81, R82, R90, R91): slip, regulation, labour, the turn timer and the chuff clock, each with
what it leaves unchanged, and the course of a completion.
-/
set_option Elab.async false

namespace Sys2Proof.Machine

/-! ### The chuff clock (R90, R91) -/

/-- The lost timer as a completion judges it (R90). -/
def State.lostJudged (s : State) : Option Nat :=
  if s.chk.source ≠ .sensorLive then s.chk.lostTimer
  else if s.srg.vl < s.cfg.chuff.moving then none else some (s.chk.lostTimer.getD s.cfg.chuff.lostTime)

theorem State.judgeLost_eq (s : State) : s.judgeLost = { s with chk := { s.chk with lostTimer := s.lostJudged } } := by
  unfold State.judgeLost State.lostJudged
  by_cases h : s.chk.source = .sensorLive
  · rw [if_pos h, if_neg (not_not_intro h)]
    cases s.chk.lostTimer <;> rfl
  · rw [if_neg h, if_pos h]

/-- The virtual cam's sum before its wrap (R91). -/
def State.camSum (s : State) : Nat := s.chk.acc + min 65535 (s.srg.vl * s.cfg.chuff.kcam / 64)

theorem State.wrapChuffs_iff (s : State) :
    s.wrapChuffs = true ↔ s.cfg.chuff.mode = .virtual ∨ (s.cfg.chuff.mode = .auto ∧ s.chk.source = .sensorLost) := by
  unfold State.wrapChuffs
  cases s.cfg.chuff.mode <;> simp

/-- The virtual cam's step, but for the chuff of its wrap (R91). -/
def State.camStepped (s : State) : State :=
  { s with chk := { s.chk with
      acc := if s.srg.traction = .standing then s.chk.acc else if 65536 ≤ s.camSum then s.camSum - 65536 else s.camSum } }

theorem State.wrapChuffs_acc (s : State) (n : Nat) : ({ s with chk := { s.chk with acc := n } } : State).wrapChuffs = s.wrapChuffs := rfl

theorem State.camAdvance_eq (s : State) : s.camAdvance =
    if s.srg.traction = .standing then s
    else if 65536 ≤ s.camSum then
      if s.wrapChuffs = true then ({ s with chk := { s.chk with acc := s.camSum - 65536 } } : State).chuffEvent
      else { s with chk := { s.chk with acc := s.camSum - 65536 } }
    else { s with chk := { s.chk with acc := s.camSum } } := by
  have h : s.chk.acc + camIncrement s.cfg.chuff.kcam s.srg.vl = s.camSum := rfl
  unfold State.camAdvance
  dsimp only
  rw [State.wrapChuffs_acc, h]

theorem State.camAdvance_quiet {s : State} (h : ¬ (s.srg.traction ≠ .standing ∧ 65536 ≤ s.camSum ∧ s.wrapChuffs = true)) :
    s.camAdvance = s.camStepped := by
  rw [s.camAdvance_eq]
  unfold State.camStepped
  by_cases ht : s.srg.traction = .standing
  · rw [if_pos ht, if_pos ht]
  · rw [if_neg ht, if_neg ht]
    by_cases hs : 65536 ≤ s.camSum
    · rw [if_pos hs, if_pos hs, if_neg (fun hw => h ⟨ht, hs, hw⟩)]
    · rw [if_neg hs, if_neg hs]

theorem State.camAdvance_chuffs {s : State} (h : s.srg.traction ≠ .standing ∧ 65536 ≤ s.camSum ∧ s.wrapChuffs = true) :
    s.camAdvance = s.camStepped.chuffEvent := by
  obtain ⟨ht, hs, hw⟩ := h
  rw [s.camAdvance_eq, if_neg ht, if_pos hs, if_pos hw]
  unfold State.camStepped
  rw [if_neg ht, if_pos hs]

theorem ClockCompleted.of {s u t t' : State} (h : ClockCompleted u t) (hs : ChuffSame s u) (hk : u.chk = s.chk)
    (ht : t'.chk = t.chk ∧ t'.snd = t.snd ∧ t'.smk = t.smk ∧ t'.lgt = t.lgt ∧ t'.exc.chuffHeld = t.exc.chuffHeld)
    (hl : t'.srg = t.srg) : ClockCompleted s t' := by
  obtain ⟨t0, t1, t2, t3, t4⟩ := ht
  unfold ClockCompleted at *
  simp only [hs.cfg, hs.snd, hs.smk, hs.lgt, hs.held, hk, ← t0, ← t1, ← t2, ← t3, ← t4, ← hl] at h
  refine ⟨h.1, fun hc => ?_⟩
  obtain ⟨h1, clips, h2⟩ := h.2 hc
  exact ⟨h1, clips, h2.of hs ⟨t1, t2, t3, t4⟩ ⟨by rw [hl], by rw [hl]⟩⟩

/-- The chuff clock at a completion (R90, R91, R93). -/
theorem State.clock_completed (s : State) : ClockCompleted s s.judgeLost.camAdvance
    ∧ s.judgeLost.camAdvance = { s with
      chk := s.judgeLost.camAdvance.chk, snd := s.judgeLost.camAdvance.snd, smk := s.judgeLost.camAdvance.smk,
      lgt := s.judgeLost.camAdvance.lgt,
      exc := { s.exc with
        nlat := s.judgeLost.camAdvance.exc.nlat, scan := s.judgeLost.camAdvance.exc.scan,
        chuffHeld := s.judgeLost.camAdvance.exc.chuffHeld } } := by
  obtain ⟨j, hj⟩ : ∃ j, s.judgeLost = j := ⟨_, rfl⟩
  have ej : j = { s with chk := { s.chk with lostTimer := s.lostJudged } } := by rw [← hj]; exact s.judgeLost_eq
  rw [hj]
  have wraps := j.wrapChuffs_iff
  by_cases h : j.srg.traction ≠ .standing ∧ 65536 ≤ j.camSum ∧ j.wrapChuffs = true
  · have e := State.camAdvance_chuffs h
    obtain ⟨u, hu⟩ : ∃ u, j.camStepped = u := ⟨_, rfl⟩
    rw [hu] at e
    rw [e]
    have hc := u.chuffEvent_chk
    have hr := u.chuffEvent_reaches
    have hn := u.chuffEvent_kept
    generalize u.chuffEvent = t at hc hr hn
    have eu : u = { s with chk := { s.chk with lostTimer := s.lostJudged, acc := j.camSum - 65536 } } := by
      rw [← hu]
      unfold State.camStepped
      rw [if_neg h.1, if_pos h.2.1, ej]
    have sum : j.camSum = s.camSum := by rw [ej]; rfl
    have kept : t = { s with
        chk := t.chk, snd := t.snd, smk := t.smk, lgt := t.lgt,
        exc := { s.exc with nlat := t.exc.nlat, scan := t.exc.scan, chuffHeld := t.exc.chuffHeld } } := by
      rw [hn, eu]
    have srg : t.srg = s.srg := by rw [kept]
    refine ⟨⟨fun hq => absurd ?_ hq, fun _ => ⟨?_, u.chuffClips, ?_⟩⟩, kept⟩
    · rw [srg]
      rw [ej] at h wraps
      exact ⟨h.1, h.2.1, wraps.1 h.2.2⟩
    · rw [hc, srg, eu, sum]
      rfl
    · have same : ChuffSame s u := by subst eu; exact ⟨rfl, rfl, rfl, rfl, rfl, rfl, ⟨rfl, rfl, rfl⟩, rfl⟩
      have hi : u.chk.next = s.chk.next ∧ u.chk.period = if s.chk.first then 65535 else s.chk.interval := by rw [eu]; exact ⟨rfl, rfl⟩
      rw [hi.1, hi.2] at hr
      exact hr.of same ⟨rfl, rfl, rfl, rfl⟩ ⟨rfl, rfl⟩
  · rw [State.camAdvance_quiet h]
    have e : j.camStepped = { s with chk := { s.chk with
        lostTimer := s.lostJudged,
        acc := if s.srg.traction = .standing then s.chk.acc else if 65536 ≤ s.camSum then s.camSum - 65536 else s.camSum } } := by
      rw [ej]; rfl
    rw [e]
    refine ⟨⟨fun _ => ⟨rfl, rfl, rfl, rfl, rfl⟩, fun hc => absurd ?_ h⟩, rfl⟩
    rw [ej] at wraps ⊢
    exact ⟨hc.1, hc.2.1, wraps.2 hc.2.2⟩

/-- The notices of a chuff are those before it, with VOICE_END at most latched (R94, R110). -/
theorem State.chuffEvent_nlat (s : State) : s.chuffEvent.exc.nlat = s.exc.nlat ∨ s.chuffEvent.exc.nlat = s.exc.nlat ||| 0x10 := by
  have e : s.chuffEvent.exc.nlat = (s.chuffed.chuffVoice s.chk.next).exc.nlat := by rw [s.chuffEvent_only]
  have hs : s.chuffed.exc.nlat = s.exc.nlat := rfl
  rw [e, ← hs]
  generalize s.chuffed = u
  unfold State.chuffVoice
  dsimp only
  split
  · unfold State.endVoice State.recordEnd
    dsimp only
    split
    · split
      · exact .inl rfl
      · exact .inr rfl
    · exact .inl rfl
  · rw [State.requestStart_chuff _ rfl]
    split <;> exact .inl rfl

theorem State.clock_nlat (s : State) :
    s.judgeLost.camAdvance.exc.nlat = s.exc.nlat ∨ s.judgeLost.camAdvance.exc.nlat = s.exc.nlat ||| 0x10 := by
  have hn : s.judgeLost.camStepped.exc.nlat = s.exc.nlat := by rw [s.judgeLost_eq]; rfl
  rw [← hn]
  by_cases h : s.judgeLost.srg.traction ≠ .standing ∧ 65536 ≤ s.judgeLost.camSum ∧ s.judgeLost.wrapChuffs = true
  · rw [State.camAdvance_chuffs h]
    exact State.chuffEvent_nlat _
  · rw [State.camAdvance_quiet h]
    exact .inl rfl

/-! ### Slip (R81 to R83) -/

/-- What judging slip changes. -/
theorem State.judgeSlip_kept (s : State) (c : Traction) :
    s.judgeSlip c = { s with
      bfu := { s.bfu with slip := (s.judgeSlip c).bfu.slip, slipRun := (s.judgeSlip c).bfu.slipRun, faster := (s.judgeSlip c).bfu.faster },
      exc := { s.exc with nlat := (s.judgeSlip c).exc.nlat } } := by
  unfold State.judgeSlip State.slipNormal State.slipSlipping
  split
  · rfl
  · split
    · rfl
    · split
      · dsimp only
        generalize (if c.slipThresh < speedGap s.srg.motors then s.bfu.slipRun + 1 else 0) = run
        split <;> rfl
      · dsimp only
        generalize (if speedGap s.srg.motors ≤ c.slipThresh / 2 then s.bfu.slipRun + 1 else 0) = run
        split <;> rfl

/-- Slip where it is not in force (R81, R83). -/
theorem State.judgeSlip_off {s : State} {c : Traction} (h : s.slipInForce c = false) : s.judgeSlip c = s.endSlip := if_pos h

/-- Slip is not judged where nothing is regulated (R81). -/
theorem State.judgeSlip_rests {s : State} {c : Traction} (h : s.slipInForce c = true) (hr : s.regulating = false) : s.judgeSlip c = s := by
  unfold State.judgeSlip
  rw [if_neg (by simp [h]), if_pos hr]

/-! ### Regulation (R50 to R52) -/

/-- What regulating a motor changes: its integral, duty and flag, and its channel. -/
theorem State.regulateMotor_spec (s : State) (c : Traction) (m : Motor) :
    s.regulateMotor c m = { s with
      srg := { s.srg with motors := (s.regulateMotor c m).srg.motors }, bfu := { s.bfu with chans := (s.regulateMotor c m).bfu.chans } }
    ∧ ∀ n, (s.regulateMotor c m).srg.motors.get n = (if n = m ∧ s.inTick c m = true
        then (s.srg.motors.get m).regulate c s.srg.r (s.dutyLimit c m) else s.srg.motors.get n)
      ∧ (s.regulateMotor c m).chan n = (if n = m ∧ s.inTick c m = true
        then (s.chan m).hand s.cfg.traction ((s.srg.motors.get m).regulate c s.srg.r (s.dutyLimit c m)).d else s.chan n) := by
  unfold State.regulateMotor
  split
  · next h =>
    refine ⟨by cases m <;> rfl, fun n => ?_⟩
    by_cases hn : n = m
    · subst hn
      rw [if_pos ⟨rfl, h⟩, if_pos ⟨rfl, h⟩]
      cases n <;> exact ⟨rfl, rfl⟩
    · rw [if_neg (fun x => hn x.1), if_neg (fun x => hn x.1)]
      cases n <;> cases m <;> first | exact absurd rfl hn | exact ⟨rfl, rfl⟩
  · next h =>
    refine ⟨rfl, fun n => ?_⟩
    rw [if_neg (fun x => h x.2), if_neg (fun x => h x.2)]
    exact ⟨rfl, rfl⟩

/-- Regulation in the states that have it (R50). -/
theorem State.regulate_spec {s : State} {c : Traction} (h : s.regulating = true) :
    s.regulate c = { s with
      srg := { s.srg with motors := (s.regulate c).srg.motors }, bfu := { s.bfu with chans := (s.regulate c).bfu.chans } }
    ∧ ∀ m, (s.regulate c).srg.motors.get m = (if s.inTick c m = true
        then (s.srg.motors.get m).regulate c s.srg.r (s.dutyLimit c m) else s.srg.motors.get m)
      ∧ (s.regulate c).chan m = (if s.inTick c m = true
        then (s.chan m).hand s.cfg.traction ((s.srg.motors.get m).regulate c s.srg.r (s.dutyLimit c m)).d else s.chan m) := by
  have e : s.regulate c = (s.regulateMotor c .a).regulateMotor c .b := if_pos h
  obtain ⟨k1, h1⟩ := s.regulateMotor_spec c .a
  rw [e]
  obtain ⟨u, hu⟩ : ∃ u, s.regulateMotor c .a = u := ⟨_, rfl⟩
  rw [hu] at k1 h1 ⊢
  obtain ⟨k2, h2⟩ := u.regulateMotor_spec c .b
  have ht : u.inTick c .b = s.inTick c .b := by rw [k1]; rfl
  have hl : u.dutyLimit c .b = s.dutyLimit c .b := by rw [k1]; rfl
  have hr : u.srg.r = s.srg.r := by rw [k1]
  have hc : u.cfg = s.cfg := by rw [k1]
  refine ⟨k2.trans (by rw [k1]), fun m => ?_⟩
  rw [(h2 m).1, (h2 m).2, (h1 m).1, (h1 m).2, (h1 .b).1, (h1 .b).2, ht, hl, hr, hc]
  cases m <;> simp

/-- Regulation in the states without it (R50). -/
theorem State.regulate_rests {s : State} {c : Traction} (h : s.regulating = false) :
    s.regulate c = { s with
      srg := { s.srg with motors := s.srg.motors.map SrgMotor.rest }, bfu := { s.bfu with chans := (s.regulate c).bfu.chans } }
    ∧ ∀ m, (s.regulate c).chan m = (s.chan m).hand s.cfg.traction 0 := by
  have e : s.regulate c = s.zeroDuty := if_neg (by simp [h])
  rw [e]
  exact ⟨rfl, fun m => by cases m <;> rfl⟩

/-! ### The course of a completion -/

/-- The state of a completion once slip is judged and the motors are regulated. -/
def State.regulated (s : State) (c : Traction) : State := (s.judgeSlip c).regulate c

theorem State.regulate_kept (s : State) (c : Traction) :
    s.regulate c = { s with
      srg := { s.srg with motors := (s.regulate c).srg.motors }, bfu := { s.bfu with chans := (s.regulate c).bfu.chans } } := by
  cases h : s.regulating with
  | true => exact (State.regulate_spec h).1
  | false =>
    obtain ⟨e, -⟩ := State.regulate_rests (c := c) h
    have hm := congrArg (fun x => x.srg.motors) e
    dsimp only at hm
    rw [hm]
    exact e

/-- What the rest of a completion leaves, from slip to the chuff clock (R50 to R54, R81, R82, R90, R91). -/
structure DriveCompleted (s t : State) (k : Tick) : Prop where
  only  : t = { s with
    srg := t.srg, bfu := t.bfu, chk := t.chk, snd := t.snd, smk := t.smk, lgt := t.lgt,
    exc := { s.exc with nlat := t.exc.nlat, scan := t.exc.scan, chuffHeld := t.exc.chuffHeld } }
  srg   : t.srg = { s.srg with
    motors := (s.regulated k.cfg).srg.motors,
    labour := labourOf (meanDuty (s.inTick k.cfg .b) (s.regulated k.cfg).srg.motors) (s.srg.r * k.cfg.kff / 1024),
    band := bandOf k.cfg s.srg.vl,
    turnTimer := if k.turnZero = true ∧ s.srg.traction = .turning then some 500 else s.srg.turnTimer,
    turnMark := if k.turnZero = true ∧ s.srg.traction = .turning then false else s.srg.turnMark }
  bfu   : t.bfu = { s.bfu with
    chans := (s.regulated k.cfg).bfu.chans, slip := (s.judgeSlip k.cfg).bfu.slip, slipRun := (s.judgeSlip k.cfg).bfu.slipRun,
    faster := (s.judgeSlip k.cfg).bfu.faster }
  nlat  : t.exc.nlat = (s.judgeSlip k.cfg).exc.nlat ∨ t.exc.nlat = (s.judgeSlip k.cfg).exc.nlat ||| 0x10
  clock : ClockCompleted s t

theorem State.completeDrive_completed (s : State) (k : Tick) : DriveCompleted s (s.completeDrive k) k := by
  have h1 := s.judgeSlip_kept k.cfg
  have h2 := (s.judgeSlip k.cfg).regulate_kept k.cfg
  obtain ⟨d, hd⟩ : ∃ d, (((s.judgeSlip k.cfg).regulate k.cfg).judgeLabour k.cfg).startTurn k = d := ⟨_, rfl⟩
  have hr : (s.judgeSlip k.cfg).regulate k.cfg = s.regulated k.cfg := rfl
  have e : s.completeDrive k = d.judgeLost.camAdvance := by rw [← hd]; rfl
  rw [hr] at h2 hd
  generalize hu : s.judgeSlip k.cfg = u at h1 h2
  generalize hv : s.regulated k.cfg = v at h2 hd
  have eu : v = { s with
      srg := { s.srg with motors := v.srg.motors },
      bfu := { s.bfu with chans := v.bfu.chans, slip := u.bfu.slip, slipRun := u.bfu.slipRun, faster := u.bfu.faster },
      exc := { s.exc with nlat := u.exc.nlat } } := by rw [h2, h1]
  have ed : d = { s with
      srg := { s.srg with
        motors := v.srg.motors,
        labour := labourOf (meanDuty (s.inTick k.cfg .b) v.srg.motors) (s.srg.r * k.cfg.kff / 1024),
        band := bandOf k.cfg s.srg.vl,
        turnTimer := if k.turnZero = true ∧ s.srg.traction = .turning then some 500 else s.srg.turnTimer,
        turnMark := if k.turnZero = true ∧ s.srg.traction = .turning then false else s.srg.turnMark },
      bfu := { s.bfu with chans := v.bfu.chans, slip := u.bfu.slip, slipRun := u.bfu.slipRun, faster := u.bfu.faster },
      exc := { s.exc with nlat := u.exc.nlat } } := by
    rw [← hd]
    rw [eu]
    unfold State.startTurn State.judgeLabour
    dsimp only
    by_cases h : k.turnZero = true ∧ s.srg.traction = .turning
    · rw [if_pos h, if_pos h, if_pos h]
      rfl
    · rw [if_neg h, if_neg h, if_neg h]
      rfl
  obtain ⟨c1, c2⟩ := d.clock_completed
  have c3 := d.clock_nlat
  rw [e]
  generalize d.judgeLost.camAdvance = t at c1 c2 c3
  have ts : t.srg = d.srg := by rw [c2]
  have tb : t.bfu = d.bfu := by rw [c2]
  refine ⟨c2.trans (by rw [ts, tb, ed]), by rw [hv, ts, ed], by rw [hv, hu, tb, ed], by rw [hu]; rw [ed] at c3; exact c3, ?_⟩
  have same : ChuffSame s d := by rw [ed]; exact ⟨rfl, rfl, rfl, rfl, rfl, rfl, ⟨rfl, rfl, rfl⟩, rfl⟩
  exact c1.of same (by rw [ed]) ⟨rfl, rfl, rfl, rfl, rfl⟩ rfl

end Sys2Proof.Machine
end

section
/-!
PROOF. What a completion leaves (O43 to O46): the speeds in every state, the standstill, the states without regulation, and regulation.
-/
set_option Elab.async false

namespace Sys2Proof.Machine

/-! ### What the parts of a completion leave alone -/

/-- A duty handed leaves a channel's average, its counts and its mode (R71). -/
theorem Channel.hand_counts (c : Traction) (d : Nat) (ch : Channel) :
    (ch.hand c d).avg = ch.avg ∧ (ch.hand c d).persist = ch.persist ∧ (ch.hand c d).cbcMark = ch.cbcMark ∧ (ch.hand c d).mode = ch.mode := by
  unfold Channel.hand
  split
  · exact ⟨rfl, rfl, rfl, rfl⟩
  · split
    · exact ⟨rfl, rfl, rfl, rfl⟩
    · split
      · exact ⟨rfl, rfl, rfl, rfl⟩
      · unfold Channel.apply
        cases ch.dir <;> exact ⟨rfl, rfl, rfl, rfl⟩

theorem State.judgeSlip_chan (s : State) (c : Traction) (m : Motor) : (s.judgeSlip c).chan m = s.chan m := by
  rw [s.judgeSlip_kept]
  rfl

theorem State.judgeSlip_srg (s : State) (c : Traction) : (s.judgeSlip c).srg = s.srg := by rw [s.judgeSlip_kept]

theorem State.judgeSlip_regulating (s : State) (c : Traction) : (s.judgeSlip c).regulating = s.regulating := by
  unfold State.regulating
  rw [s.judgeSlip_srg]

/-- Regulation leaves the filtered speeds, and of each channel its average, its counts and its mode. -/
theorem State.regulated_kept (s : State) (c : Traction) (m : Motor) :
    ((s.regulated c).srg.motors.get m).vf = (s.srg.motors.get m).vf
    ∧ ((s.regulated c).chan m).avg = (s.chan m).avg ∧ ((s.regulated c).chan m).persist = (s.chan m).persist
    ∧ ((s.regulated c).chan m).cbcMark = (s.chan m).cbcMark ∧ ((s.regulated c).chan m).mode = (s.chan m).mode := by
  have hm := congrArg Srg.motors (s.judgeSlip_srg c)
  have hc := s.judgeSlip_chan c m
  unfold State.regulated
  generalize s.judgeSlip c = u at hm hc ⊢
  rw [← hm, ← hc]
  cases h : u.regulating with
  | true =>
    obtain ⟨-, h2⟩ := State.regulate_spec (c := c) h
    rw [(h2 m).1, (h2 m).2]
    split
    · exact ⟨rfl, Channel.hand_counts _ _ _⟩
    · exact ⟨rfl, rfl, rfl, rfl, rfl⟩
  | false =>
    obtain ⟨h1, h2⟩ := State.regulate_rests (c := c) h
    rw [h2 m]
    refine ⟨?_, Channel.hand_counts _ _ _⟩
    have e := congrArg (fun x => (x.srg.motors.get m).vf) h1
    refine e.trans ?_
    cases m <;> rfl

/-- The rest of a completion keeps the speeds. -/
theorem DriveCompleted.speeds {s t : State} {k : Tick} (h : DriveCompleted s t k) :
    (∀ m, (t.srg.motors.get m).vf = (s.srg.motors.get m).vf) ∧ t.srg.vl = s.srg.vl := by
  refine ⟨fun m => ?_, by rw [h.srg]⟩
  rw [h.srg]
  exact (s.regulated_kept k.cfg m).1

theorem DriveCompleted.chan {s t : State} {k : Tick} (h : DriveCompleted s t k) (m : Motor) : t.chan m = (s.regulated k.cfg).chan m := by
  unfold State.chan
  rw [h.bfu]

theorem SrgMotor.rest_vf (p : PerMotor SrgMotor) (m : Motor) : ((p.map SrgMotor.rest).get m).vf = (p.get m).vf := by cases m <;> rfl

/-- The standstill's judgement keeps the speeds and the part state (R49). -/
theorem State.judgeStanding_speeds (s : State) (c : Traction) :
    (∀ m, ((s.judgeStanding c).srg.motors.get m).vf = (s.srg.motors.get m).vf) ∧ (s.judgeStanding c).srg.vl = s.srg.vl
    ∧ (s.judgeStanding c).exc = s.exc ∧ (s.judgeStanding c).cfg = s.cfg := by
  unfold State.judgeStanding
  split
  · obtain ⟨h, -, -, he, -⟩ := s.toStanding_spec
    obtain ⟨-, -, -, -, -, -, -, -, hc, -⟩ := s.toStanding_driveOnly.fields
    refine ⟨fun m => ?_, by rw [h], he, hc⟩
    rw [h]
    exact SrgMotor.rest_vf _ _
  · exact ⟨fun _ => rfl, rfl, rfl, rfl⟩

theorem exec_tickCompletion {s : State} {k : Tick} {f : Option Direction} (ea eb : EmfSet) (hk : s.srg.tick = some k)
    (hw : s.bfu.window = some ⟨.converting, f⟩) (hs : s.exc.scan = none) :
    exec (.tickCompletion ea eb) s = .next (s.complete k ea eb) := by
  have hc : s.converting = true := by unfold State.converting; rw [hw]
  have e : exec (.tickCompletion ea eb) s = finish (s.complete k ea eb) := by
    show execTickCompletion ea eb s = _
    unfold execTickCompletion
    rw [hk]
    exact if_pos hc
  rw [e, finish_none ((s.complete_act k ea eb).scan hs)]

/-! ### The speeds (O45) -/

/-- A stall's trip keeps the speeds and the configuration, and in RUNNING the part state (R60, R76). -/
theorem State.completeBridge_running {s : State} (hr : s.exc.part = .running) :
    (∀ m, (s.completeBridge.srg.motors.get m).vf = (s.srg.motors.get m).vf) ∧ s.completeBridge.cfg = s.cfg
    ∧ s.completeBridge.exc.part = .running := by
  have one (r : TripReason) : (∀ m, ((s.bridged.clearPersist.tripNow r).srg.motors.get m).vf = (s.srg.motors.get m).vf)
      ∧ (s.bridged.clearPersist.tripNow r).cfg = s.cfg ∧ (s.bridged.clearPersist.tripNow r).exc.part = .running := by
    have hp : s.bridged.clearPersist.exc.part ≠ .stopping := by show s.exc.part ≠ _; rw [hr]; decide
    have hd := State.tripNow_driveOnly r hp
    obtain ⟨-, -, -, -, -, -, -, -, c, -⟩ := hd.fields
    refine ⟨fun m => ?_, c, hd.part.trans hr⟩
    by_cases ht : s.bridged.clearPersist.bfu.trip = .none
    · rw [(State.tripNow_spec r hp ht).1]
      exact SrgMotor.rest_vf _ _
    · unfold State.tripNow
      rw [if_neg ht]
      rfl
  have e : s.completeBridge = s.bridged.judgeStall := rfl
  rw [e]
  unfold State.judgeStall
  split
  · exact one _
  · split
    · exact one _
    · exact ⟨fun _ => rfl, rfl, hr⟩

/-- A completion whose BFU's share leaves the part RUNNING forms the speeds (R47, R48). -/
theorem State.completeSpeed_running {s : State} {k : Tick} (ea eb : EmfSet) (hr : s.exc.part = .running) :
    s.completeSpeed k ea eb = (s.estimate k ea eb).judgeStanding k.cfg ∧ (s.completeSpeed k ea eb).exc.part = .running := by
  obtain ⟨-, -, he, -⟩ := (s.estimate k ea eb).judgeStanding_speeds k.cfg
  have hp : ((s.estimate k ea eb).judgeStanding k.cfg).exc.part = .running := by rw [he]; exact hr
  have e : s.completeSpeed k ea eb = (s.estimate k ea eb).judgeStanding k.cfg := by
    unfold State.completeSpeed
    exact State.endStopping_other (by rw [hp]; decide)
  exact ⟨e, by rw [e]; exact hp⟩

theorem State.complete_speeds_running {s : State} {k : Tick} (ea eb : EmfSet) (hk : k.cfg = s.cfg.traction) (hr : s.exc.part = .running) :
    SpeedsFormed s (s.complete k ea eb) k ea eb := by
  obtain ⟨b1, b2, b3⟩ := State.completeBridge_running hr
  obtain ⟨b, hb⟩ : ∃ b, s.completeBridge = b := ⟨_, rfl⟩
  rw [hb] at b1 b2 b3
  obtain ⟨e, hv⟩ := State.completeSpeed_running (k := k) ea eb b3
  have ec : s.complete k ea eb = (b.completeSpeed k ea eb).completeDrive k := by
    unfold State.complete
    rw [hb]
    dsimp only
    rw [if_neg (by rw [b3]; decide), if_neg (by rw [hv]; decide)]
  obtain ⟨-, -, sp⟩ := b.estimate_spec (k := k) ea eb (by rw [hk, b2])
  obtain ⟨j1, j2, -⟩ := (b.estimate k ea eb).judgeStanding_speeds k.cfg
  obtain ⟨d1, d2⟩ := ((b.completeSpeed k ea eb).completeDrive_completed k).speeds
  rw [ec]
  rw [e] at d1 d2 ⊢
  exact sp.of b2.symm (fun m => (b1 m).symm) (fun m => (d1 m).trans (j1 m)) (d2.trans j2)

/-- A completion without a stall forms the speeds in every part state (R47, R48). -/
theorem State.complete_speeds_quiet {s : State} {k : Tick} (ea eb : EmfSet) (hk : k.cfg = s.cfg.traction)
    (hq : s.completeBridge = s.bridged) : SpeedsFormed s (s.complete k ea eb) k ea eb ∨ s.exc.part.driving = false := by
  obtain ⟨-, -, sp⟩ := s.bridged.estimate_spec (k := k) ea eb hk
  obtain ⟨j1, j2, -⟩ := (s.bridged.estimate k ea eb).judgeStanding_speeds k.cfg
  have eb' : s.bridged.completeSpeed k ea eb = ((s.bridged.estimate k ea eb).judgeStanding k.cfg).endStopping := rfl
  cases hd : s.exc.part.driving with
  | false => exact .inr rfl
  | true =>
    refine .inl ?_
    have hb : ¬ s.bridged.exc.part.driving = false := by show ¬ s.exc.part.driving = false; rw [hd]; decide
    have ec : s.complete k ea eb = if (s.bridged.completeSpeed k ea eb).exc.part.driving = false
        then s.bridged.completeSpeed k ea eb else (s.bridged.completeSpeed k ea eb).completeDrive k := by
      unfold State.complete
      rw [hq]
      dsimp only
      rw [if_neg hb]
    have formed (t : State) (h1 : ∀ m, (t.srg.motors.get m).vf = (((s.bridged.estimate k ea eb).judgeStanding k.cfg).srg.motors.get m).vf)
        (h2 : t.srg.vl = ((s.bridged.estimate k ea eb).judgeStanding k.cfg).srg.vl) : SpeedsFormed s t k ea eb :=
      sp.of rfl (fun _ => rfl) (fun m => (h1 m).trans (j1 m)) (h2.trans j2)
    rw [ec, eb']
    generalize (s.bridged.estimate k ea eb).judgeStanding k.cfg = v at formed ⊢
    have hv : SpeedsFormed s v.endStopping k ea eb := by
      rcases v.endStopping_cases with ⟨e, -⟩ | ⟨e, -⟩ <;> rw [e]
      · exact formed v (fun _ => rfl) rfl
      · obtain ⟨x, -⟩ := v.enterHalted_drive
        refine formed _ (fun m => ?_) (by rw [x])
        rw [x]
        exact SrgMotor.rest_vf _ _
    split
    · exact hv
    · obtain ⟨d1, d2⟩ := (v.endStopping.completeDrive_completed k).speeds
      exact hv.of rfl (fun _ => rfl) d1 d2

theorem filterSpeed_eq (vf v : Nat) : (filterSpeed vf v : Int) = vf + ((v : Int) - vf) / 4 := by
  unfold filterSpeed
  omega

/-- Settles O45, by the estimates that a completion forms before anything that could end it. -/
theorem completionFilters : Obligations.CompletionFilters := by
  unfold Obligations.CompletionFilters
  intro s k ea eb f hs hk hw hc hp conv raw filtered
  have hf : SpeedsFormed s (s.complete k ea eb) k ea eb := by
    rcases hp with hr | ⟨hp, h0, hn⟩
    · exact State.complete_speeds_running ea eb hc hr
    · have hq : s.completeBridge = s.bridged := State.completeBridge_quiet fun m => by
        rw [Bool.eq_false_iff]
        intro h
        obtain ⟨h1, h2, h3⟩ := (s.bridged_stalled h0 m).1 h
        have := hn m h1 h2
        omega
      exact (State.complete_speeds_quiet ea eb hc hq).resolve_right (by rw [hp]; decide)
  have quarter (vf v : Nat) (h : v ≤ 4095) : (filterSpeed vf v : Int) = vf + ((v : Int) - vf) / 4 ∧ (v < vf → filterSpeed vf v + 1 ≤ vf)
      ∧ (vf ≤ v → v < vf + 4 → filterSpeed vf v = vf) ∧ (vf ≤ 4095 → filterSpeed vf v ≤ 4095) := by
    have e := filterSpeed_eq vf v
    refine ⟨e, ?_, ?_, ?_⟩ <;> omega
  have zero (b : Nat) (h : s.cfg.traction.kc = 0) : rawSpeed s.cfg.traction.kc b = 0 := by unfold rawSpeed; rw [h, Nat.mul_zero]; rfl
  refine ⟨_, exec_tickCompletion ea eb hk hw hs, fun h => ?_, fun h => ?_, hf.loco⟩
  · obtain ⟨q1, q2, q3, q4⟩ := quarter s.srg.motors.a.vf (raw ea) (Nat.min_le_left _ _)
    have e : (s.complete k ea eb).srg.motors.a.vf = filterSpeed s.srg.motors.a.vf (raw ea) := hf.a h
    rw [e]
    exact ⟨q1, q2, q3, q4, zero _⟩
  · obtain ⟨q1, q2, q3, q4⟩ := quarter s.srg.motors.b.vf (raw eb) (Nat.min_le_left _ _)
    have e : (s.complete k ea eb).srg.motors.b.vf = filterSpeed s.srg.motors.b.vf (raw eb) := hf.b h
    rw [e]
    exact ⟨q1, q2, q3, q4, zero _⟩

end Sys2Proof.Machine
end

section
/-!
PROOF. The completions without a stall, by their course (O43, O44).
-/
set_option Elab.async false

namespace Sys2Proof.Machine

/-! ### The course of a completion without a stall -/

/-- A completion with its speeds formed, before the standstill is judged. -/
def State.estimated (s : State) (k : Tick) (ea eb : EmfSet) : State := s.bridged.estimate k ea eb

/-- MOVING at R = 0 at or below the standstill threshold (R49). -/
def State.standsAt (s : State) (c : Traction) : Prop := s.srg.traction = .moving ∧ s.srg.r = 0 ∧ s.srg.vl ≤ c.standstill

/-- What a completion is about: a tick in progress with its conversions, no stall, and nothing that ends STOPPING already. -/
structure Completing (s : State) (k : Tick) (f : Option Direction) : Prop where
  scan    : s.exc.scan = none
  driving : s.exc.part.driving = true
  tick    : s.srg.tick = some k
  window  : s.bfu.window = some ⟨.converting, f⟩
  active  : k.cfg = s.cfg.traction
  quiet   : s.completeBridge = s.bridged
  goes    : s.stoppingOk

theorem State.completeBridge_unstalled {s : State} (h0 : 0 < s.cfg.traction.persist)
    (hn : ∀ m, s.cfg.traction.present m = true → (s.chan m).cbcMark = true → (s.chan m).persist + 1 < s.cfg.traction.persist) :
    s.completeBridge = s.bridged := State.completeBridge_quiet fun m => by
  rw [Bool.eq_false_iff]
  intro h
  obtain ⟨h1, h2, h3⟩ := (s.bridged_stalled h0 m).1 h
  have := hn m h1 h2
  omega

/-- The state once the speeds are formed. -/
theorem State.estimated_spec {s : State} {k : Tick} {f : Option Direction} (ea eb : EmfSet) (h : Completing s k f) :
    s.estimated k ea eb = { s with
      srg := { s.srg with tick := none, motors := (s.estimated k ea eb).srg.motors, vl := (s.estimated k ea eb).srg.vl },
      bfu := { s.bfu with chans := s.bridged.bfu.chans, window := some ⟨.ending, f⟩ } }
    ∧ (∀ m, (s.estimated k ea eb).srg.motors.get m = { s.srg.motors.get m with vf := ((s.estimated k ea eb).srg.motors.get m).vf })
    ∧ SpeedsFormed s (s.estimated k ea eb) k ea eb := by
  obtain ⟨b1, -⟩ := State.bridged_spec h.window
  obtain ⟨e1, e2, e3⟩ := s.bridged.estimate_spec (k := k) ea eb h.active
  refine ⟨?_, e2, e3.of rfl (fun _ => rfl) (fun _ => rfl) rfl⟩
  show s.bridged.estimate k ea eb = _
  refine e1.trans ?_
  rw [show s.bridged.exc = s.exc from rfl, b1]
  rfl

/-- A completion that finds no standstill goes on to regulation; one that does stands first, or in STOPPING enters HALTED. -/
theorem State.complete_cases {s : State} {k : Tick} {f : Option Direction} (ea eb : EmfSet) (h : Completing s k f) :
    (¬ (s.estimated k ea eb).standsAt k.cfg → s.complete k ea eb = (s.estimated k ea eb).completeDrive k)
    ∧ ((s.estimated k ea eb).standsAt k.cfg → s.exc.part = .running →
      s.complete k ea eb = (s.estimated k ea eb).toStanding.completeDrive k)
    ∧ ((s.estimated k ea eb).standsAt k.cfg → s.exc.part = .stopping →
      s.complete k ea eb = (s.estimated k ea eb).toStanding.enterHalted) := by
  obtain ⟨u, hu⟩ : ∃ u, s.estimated k ea eb = u := ⟨_, rfl⟩
  have hp : u.exc.part = s.exc.part := by rw [← hu]; rfl
  have ht : u.srg.traction = s.srg.traction := by rw [← hu]; rfl
  have hsup : u.sup = s.sup := by rw [← hu]; rfl
  have hb : ¬ s.bridged.exc.part.driving = false := by show ¬ s.exc.part.driving = false; rw [h.driving]; decide
  have e : s.complete k ea eb = if ((u.judgeStanding k.cfg).endStopping).exc.part.driving = false
      then (u.judgeStanding k.cfg).endStopping else ((u.judgeStanding k.cfg).endStopping).completeDrive k := by
    rw [← hu]
    unfold State.complete
    rw [h.quiet]
    dsimp only
    rw [if_neg hb]
    rfl
  rw [hu, e]
  refine ⟨fun hn => ?_, fun hs hr => ?_, fun hs hr => ?_⟩
  · have hj : u.judgeStanding k.cfg = u := if_neg hn
    have he : u.endStopping = u := by
      by_cases hst : s.exc.part = .stopping
      · obtain ⟨g1, g2⟩ := h.goes hst
        exact State.endStopping_stays (by rw [ht]; exact g1) (by rw [hsup]; exact g2)
      · exact State.endStopping_other (by rw [hp]; exact hst)
    rw [hj, he, if_neg (by rw [hp, h.driving]; decide)]
  · have hj : u.judgeStanding k.cfg = u.toStanding := if_pos hs
    have hq : u.toStanding.exc.part = .running := (u.toStanding_driveOnly.part.trans hp).trans hr
    rw [hj, State.endStopping_other (by rw [hq]; decide), if_neg (by rw [hq]; decide)]
  · have hj : u.judgeStanding k.cfg = u.toStanding := if_pos hs
    have hq : u.toStanding.exc.part = .stopping := (u.toStanding_driveOnly.part.trans hp).trans hr
    have hx : u.toStanding.endStopping = u.toStanding.enterHalted :=
      State.endStopping_ends hq (.inl (by rw [u.toStanding_spec.1]; rfl))
    rw [hj, hx, if_pos]
    rw [State.enterHalted_stopped]
    rfl

/-! ### The states without regulation (O44) -/

theorem labourOf_zero : labourOf 0 0 = 4 := by decide

theorem meanDuty_rest (two : Bool) (p : PerMotor SrgMotor) : meanDuty two (p.map SrgMotor.rest) = 0 := by
  cases two with
  | true => exact Nat.zero_div 2
  | false => rfl

theorem State.regulating_rests {s : State}
    (h : s.srg.traction = .standing ∨ s.srg.traction = .eHeld ∨ s.srg.traction = .tripped ∨ (s.srg.traction = .turning ∧ s.srg.r = 0)) :
    s.regulating = false := by
  unfold State.regulating
  rcases h with h | h | h | ⟨h, hr⟩ <;> rw [h]
  rw [hr]
  rfl

/-- Without regulation every motor rests, and every channel is handed duty 0 (R50). -/
theorem State.regulated_rests {s : State} {c : Traction} (h : s.regulating = false) (m : Motor) :
    (s.regulated c).srg.motors = s.srg.motors.map SrgMotor.rest ∧ (s.regulated c).chan m = (s.chan m).hand s.cfg.traction 0 := by
  have hr : (s.judgeSlip c).regulating = false := (s.judgeSlip_regulating c).trans h
  obtain ⟨h1, h2⟩ := State.regulate_rests (c := c) hr
  refine ⟨?_, ?_⟩
  · have := congrArg (fun x => x.srg.motors) h1
    refine this.trans ?_
    dsimp only
    rw [s.judgeSlip_srg]
  · refine (h2 m).trans ?_
    rw [s.judgeSlip_chan, s.judgeSlip_kept]

/-- Settles O44: a completion where nothing is regulated goes its course with every duty 0. -/
theorem completionRests : Obligations.CompletionRests := by
  unfold Obligations.CompletionRests
  intro s k ea eb f hs hd hst hk hw hc hn h0 htr c
  have hco : Completing s k f := ⟨hs, hd, hk, hw, hc, State.completeBridge_unstalled h0 hn, hst⟩
  obtain ⟨e1, -, -⟩ := State.estimated_spec ea eb hco
  obtain ⟨goes, -, -⟩ := State.complete_cases ea eb hco
  rw [exec_tickCompletion ea eb hk hw hs]
  obtain ⟨u, hu⟩ : ∃ u, s.estimated k ea eb = u := ⟨_, rfl⟩
  rw [hu] at e1 goes
  have ht : u.srg.traction = s.srg.traction := by rw [e1]
  have hr : u.srg.r = s.srg.r := by rw [e1]
  have hsc : u.cfg = s.cfg := by rw [e1]
  have moves : ¬ u.standsAt k.cfg := by
    rintro ⟨h, -⟩
    rw [ht] at h
    rcases htr with x | x | x | ⟨x, -⟩ <;> rw [h] at x <;> exact absurd x (by decide)
  have rests : u.regulating = false := State.regulating_rests (by rw [ht, hr]; exact htr)
  rw [goes moves]
  have dc := u.completeDrive_completed k
  generalize u.completeDrive k = t at dc
  have motors : t.srg.motors = u.srg.motors.map SrgMotor.rest := by rw [dc.srg]; exact (State.regulated_rests rests .a).1
  have slipForce : u.slipInForce k.cfg = true ↔ 2 ≤ c.motors ∧ 0 < c.slipThresh := by
    unfold State.slipInForce
    rw [State.inTick_active (by rw [hsc]; exact hc), Bool.and_eq_true, decide_eq_true_iff, hc, hsc]
    unfold Traction.present
    rw [decide_eq_true_iff]
  have tsrg : t.srg = { s.srg with
      motors := t.srg.motors, vl := t.srg.vl, labour := t.srg.labour, band := t.srg.band, turnTimer := t.srg.turnTimer,
      turnMark := t.srg.turnMark, tick := none } := by
    rw [dc.srg, e1]
  refine ⟨t, rfl, ?_, tsrg, fun m => ?_, fun h => ?_, fun h1 h2 => ?_, fun h => ?_, ?_, ?_, fun h1 h2 => ?_, fun h => ?_, ?_⟩
  · rw [dc.only, e1]
  · have hz := Channel.hand_zero u.cfg.traction (u.chan m)
    rw [motors, SrgMotor.map_rest_get, dc.chan m, (State.regulated_rests rests m).2]
    exact ⟨rfl, rfl, rfl, hz.1, hz.2.1⟩
  · have hl : t.srg.labour = labourOf (meanDuty (u.inTick k.cfg .b) t.srg.motors) (u.srg.r * k.cfg.kff / 1024) := by
      rw [dc.srg]
    have hm : meanDuty (u.inTick k.cfg .b) t.srg.motors = 0 := by
      rw [motors]
      exact meanDuty_rest _ _
    rw [hl, hm, hr, h, Nat.zero_mul, Nat.zero_div]
    exact labourOf_zero
  · rw [dc.srg]
    rw [← ht] at h1
    exact ⟨if_pos ⟨h2, h1⟩, if_pos ⟨h2, h1⟩⟩
  · have hno : ¬ (k.turnZero = true ∧ u.srg.traction = .turning) := by
      rintro ⟨x, y⟩
      rw [ht] at y
      rcases h with h | h
      · exact h y
      · rw [h] at x; exact absurd x (by decide)
    rw [dc.srg]
    refine ⟨(if_neg hno).trans ?_, (if_neg hno).trans ?_⟩ <;> rw [e1]
  · rw [dc.bfu, e1]
  · rw [dc.bfu, e1]
  · have hj := State.judgeSlip_rests (slipForce.2 ⟨h1, h2⟩) rests
    rw [dc.bfu, hj, e1]
    exact ⟨rfl, rfl, rfl⟩
  · have hj := State.judgeSlip_off (s := u) (c := k.cfg) (by
      rw [Bool.eq_false_iff]
      intro x
      have := slipForce.1 x
      omega)
    rw [dc.bfu, hj]
    exact ⟨rfl, rfl, rfl⟩
  · have same : ChuffSame s u := by rw [e1]; exact ⟨rfl, rfl, rfl, rfl, rfl, rfl, ⟨rfl, rfl, rfl⟩, rfl⟩
    exact dc.clock.of same (by rw [e1]) ⟨rfl, rfl, rfl, rfl, rfl⟩ rfl

/-! ### The standstill (O43) -/

/-- Within a float window an entry to STANDING hands duty 0 and leaves the modes (R49, R68, R72). -/
theorem State.toStanding_chan {s : State} (h : s.bfu.window.isSome = true) (m : Motor) :
    s.toStanding.chan m = (s.chan m).hand s.cfg.traction 0 := by
  have hd : s.toStanding = ({ s with srg := { s.srg with traction := .standing } } : State).zeroDuty.chuffStanding.endSlip.followModes :=
    rfl
  rw [hd, State.followModes_chan, if_pos (by exact h)]
  cases m <;> rfl

theorem filterSpeed_nat (vf v : Nat) : filterSpeed vf v = if vf ≤ v then vf + (v - vf) / 4 else vf - (vf - v + 3) / 4 := by
  unfold filterSpeed
  split <;> omega

/-- What a completed tick leaves of a state `u`, from which regulation went on with `v`: `u` itself, or `u` standing. -/
structure Completed (u v : State) (f : Option Direction) : Prop where
  exc    : v.exc = u.exc
  tick   : v.srg.tick = u.srg.tick ∧ v.srg.r = u.srg.r ∧ v.srg.vl = u.srg.vl
  speeds : ∀ m, (v.srg.motors.get m).vf = (u.srg.motors.get m).vf
  trip   : v.bfu.trip = u.bfu.trip
  window : v.bfu.window = some ⟨.ending, f⟩
  counts : ∀ m, (v.chan m).avg = (u.chan m).avg ∧ (v.chan m).cbcMark = (u.chan m).cbcMark ∧ (v.chan m).persist = (u.chan m).persist
  rest   : v.drq = u.drq ∧ v.sup = u.sup ∧ v.cfg = u.cfg ∧ v.rrx = u.rrx ∧ v.mem = u.mem

theorem Completed.toStanding {u : State} {f : Option Direction} (hw : u.bfu.window = some ⟨.ending, f⟩) : Completed u u.toStanding f := by
  obtain ⟨h1, -, h3, h4, -⟩ := u.toStanding_spec
  obtain ⟨-, d1, -, -, -, d2, d3, d4, d5, -⟩ := u.toStanding_driveOnly.fields
  refine ⟨h4, by rw [h1]; exact ⟨rfl, rfl, rfl⟩, fun m => ?_, by rw [h3], by rw [h3]; exact hw, fun m => ?_, d1, d3, d5, d2, d4⟩
  · rw [h1]
    exact SrgMotor.rest_vf _ _
  · rw [State.toStanding_chan (by rw [hw]; rfl)]
    obtain ⟨c1, c2, c3, -⟩ := Channel.hand_counts u.cfg.traction 0 (u.chan m)
    exact ⟨c1, c3, c2⟩

/-- The channels of the present motors at a completion (R74, R76). -/
def Judged (s t : State) : Prop :=
  ∀ m, s.cfg.traction.present m = true → (t.chan m).avg = (if (s.chan m).count = 0 then 0 else (s.chan m).sum / (s.chan m).count)
    ∧ (t.chan m).cbcMark = false ∧ (t.chan m).persist = if (s.chan m).cbcMark then (s.chan m).persist + 1 else 0

theorem State.estimated_judged {s : State} {k : Tick} {f : Option Direction} (ea eb : EmfSet) (h : Completing s k f) :
    Judged s (s.estimated k ea eb) := fun m hm => by
  have he : (s.estimated k ea eb).chan m = (s.chan m).average.persistStep := by
    have h1 : (s.estimated k ea eb).chan m = s.bridged.chan m := by rw [(State.estimated_spec ea eb h).1]; rfl
    rw [h1, (State.bridged_spec h.window).2, if_pos hm]
  rw [he]
  exact ⟨rfl, rfl, rfl⟩

/-- What a completion that goes on to regulation leaves, whether the locomotive stands or not. -/
structure WentOn (s u t : State) (k : Tick) (f : Option Direction) : Prop where
  drive  : t.srg.tick = none ∧ t.srg.r = s.srg.r ∧ t.bfu.trip = s.bfu.trip
  rest   : t.drq = s.drq ∧ t.sup = s.sup ∧ t.cfg = s.cfg ∧ t.rrx = s.rrx
  speeds : (∀ m, (t.srg.motors.get m).vf = (u.srg.motors.get m).vf) ∧ t.srg.vl = u.srg.vl
  part   : t.exc.part = s.exc.part ∧ t.mem = s.mem ∧ t.bfu.window = some ⟨.ending, f⟩
  band   : t.srg.band = bandOf k.cfg t.srg.vl
  judged : Judged s t

theorem Completed.wentOn {s v t : State} {k : Tick} {f : Option Direction} {ea eb : EmfSet} (h : Completing s k f)
    (cv : Completed (s.estimated k ea eb) v f) (dc : DriveCompleted v t k) : WentOn s (s.estimated k ea eb) t k f := by
  have e1 := (State.estimated_spec ea eb h).1
  have chans := State.estimated_judged ea eb h
  generalize s.estimated k ea eb = u at cv e1 chans
  obtain ⟨r1, r2, r3, r4, r5⟩ := cv.rest
  obtain ⟨t1, t2, t3⟩ := cv.tick
  obtain ⟨d1, d2⟩ := dc.speeds
  have hb : t.srg.band = bandOf k.cfg v.srg.vl := by rw [dc.srg]
  have es : t.srg.tick = v.srg.tick ∧ t.srg.r = v.srg.r := by rw [dc.srg]; exact ⟨rfl, rfl⟩
  have ef : t.bfu.trip = v.bfu.trip ∧ t.bfu.window = v.bfu.window := by rw [dc.bfu]; exact ⟨rfl, rfl⟩
  have eo : t.drq = v.drq ∧ t.sup = v.sup ∧ t.cfg = v.cfg ∧ t.rrx = v.rrx ∧ t.mem = v.mem ∧ t.exc.part = v.exc.part := by
    rw [dc.only]; exact ⟨rfl, rfl, rfl, rfl, rfl, rfl⟩
  have us : u.srg.tick = none ∧ u.srg.r = s.srg.r ∧ u.bfu.trip = s.bfu.trip := by rw [e1]; exact ⟨rfl, rfl, rfl⟩
  have uo : u.drq = s.drq ∧ u.sup = s.sup ∧ u.cfg = s.cfg ∧ u.rrx = s.rrx ∧ u.mem = s.mem ∧ u.exc.part = s.exc.part := by
    rw [e1]; exact ⟨rfl, rfl, rfl, rfl, rfl, rfl⟩
  obtain ⟨o1, o2, o3, o4, o5, o6⟩ := eo
  obtain ⟨p1, p2, p3, p4, p5, p6⟩ := uo
  refine ⟨⟨es.1.trans (t1.trans us.1), es.2.trans (t2.trans us.2.1), ef.1.trans (cv.trip.trans us.2.2)⟩,
    ⟨o1.trans (r1.trans p1), o2.trans (r2.trans p2), o3.trans (r3.trans p3), o4.trans (r4.trans p4)⟩,
    ⟨fun m => (d1 m).trans (cv.speeds m), d2.trans t3⟩,
    ⟨o6.trans ((congrArg Exc.part cv.exc).trans p6), o5.trans (r5.trans p5), ef.2.trans cv.window⟩, by rw [hb, d2], fun m hm => ?_⟩
  obtain ⟨-, g1, g2, g3, -⟩ := v.regulated_kept k.cfg m
  obtain ⟨c1, c2, c3⟩ := cv.counts m
  obtain ⟨x1, x2, x3⟩ := chans m hm
  rw [dc.chan m]
  exact ⟨(g1.trans c1).trans x1, (g3.trans c2).trans x2, (g2.trans c3).trans x3⟩

/-- The standstill in STOPPING enters HALTED with the new speeds (R12, R49, R62). -/
theorem Completing.halted {s : State} {k : Tick} {f : Option Direction} {ea eb : EmfSet} (h : Completing s k f) (hm : s.mem.wf = true)
    {p : PerMotor SrgMotor} (hp : ∀ m, (p.get m).vf = ((s.estimated k ea eb).srg.motors.get m).vf) :
    HaltedFacts { s with srg := { s.srg with traction := .standing, vl := (s.estimated k ea eb).srg.vl, motors := p } }
      (s.estimated k ea eb).toStanding.enterHalted := by
  have e1 := (State.estimated_spec ea eb h).1
  have hb : ∀ m, ((s.estimated k ea eb).chan m).dir = (s.chan m).dir := fun m => by
    have h1 : (s.estimated k ea eb).chan m = s.bridged.chan m := by rw [e1]; rfl
    rw [h1, (State.bridged_spec h.window).2]
    split <;> rfl
  generalize s.estimated k ea eb = u at e1 hp hb ⊢
  obtain ⟨g1, g2, g3, g4, g5⟩ := u.toStanding_spec
  obtain ⟨w1, -, w3, w4, w5, w6, w7, w8, w9, -⟩ := u.toStanding_driveOnly.fields
  have ht : u.srg.traction = s.srg.traction := by rw [e1]
  generalize u.toStanding = v at g1 g2 g3 g4 g5 w1 w3 w4 w5 w6 w7 w8 w9 ⊢
  refine HaltedFacts.of ?_ (State.enterHalted_facts (s := v) (by rw [w8, e1]; exact hm))
  refine ⟨fun a _ => by rw [w8, e1], fun q => ?_, fun m => ?_, by rw [g3, e1]; exact ⟨rfl, rfl⟩,
    fun m => (g5 m).2.2.1.trans (hb m), ?_, ?_, ?_, ?_, ?_, ?_⟩
  · rw [g1, e1]
    rfl
  · rw [g1]
    exact (SrgMotor.rest_vf _ _).trans (hp m).symm
  · rw [g2, e1]
    exact ⟨rfl, rfl, rfl, rfl, rfl⟩
  · rw [w3, e1]
    exact ⟨rfl, rfl, rfl⟩
  · rw [w4, e1]
  · rw [w5, e1]
  · exact ⟨w9.trans (by rw [e1]), w6.trans (by rw [e1]), w7.trans (by rw [e1]), w1.trans (by rw [e1])⟩
  · rw [g4, e1]
    exact ⟨rfl, rfl, rfl, rfl⟩

/-- What a completion that halts leaves of the drive. -/
theorem Completing.halts {s : State} {k : Tick} {f : Option Direction} {ea eb : EmfSet} (h : Completing s k f) (hr : s.srg.r = 0) :
    let t := (s.estimated k ea eb).toStanding.enterHalted
    (t.srg.tick = none ∧ t.srg.r = s.srg.r ∧ t.bfu.trip = s.bfu.trip)
    ∧ (t.drq = s.drq ∧ t.sup = s.sup ∧ t.cfg = s.cfg ∧ t.rrx = s.rrx)
    ∧ (∀ m, (t.srg.motors.get m).vf = ((s.estimated k ea eb).srg.motors.get m).vf) ∧ t.srg.vl = (s.estimated k ea eb).srg.vl := by
  have e1 := (State.estimated_spec ea eb h).1
  generalize s.estimated k ea eb = u at e1 ⊢
  obtain ⟨g1, -, g3, -⟩ := u.toStanding_spec
  obtain ⟨-, w2, -, -, -, w6, w7, -, w9, -⟩ := u.toStanding_driveOnly.fields
  generalize u.toStanding = v at g1 g3 w2 w6 w7 w9 ⊢
  obtain ⟨x1, x2, -⟩ := v.enterHalted_drive
  obtain ⟨y1, y2, y3, y4, -⟩ := v.enterHalted_spec
  generalize v.enterHalted = t at x1 x2 y1 y2 y3 y4 ⊢
  refine ⟨⟨by rw [x1], by rw [x1]; exact hr.symm, by rw [x2, g3, e1]⟩, ⟨y1.trans (w2.trans (by rw [e1])),
    y3.trans (w7.trans (by rw [e1])), y4.trans (w9.trans (by rw [e1])), y2.trans (w6.trans (by rw [e1]))⟩, fun m => ?_, by rw [x1, g1]⟩
  rw [x1, g1]
  exact (SrgMotor.rest_vf _ _).trans (SrgMotor.rest_vf _ _)

/-- The standstill in RUNNING: duties 0, the cam full, and the lost timer judged after it (R49, R90, R92). -/
theorem Completing.stood {s t : State} {k : Tick} {f : Option Direction} {ea eb : EmfSet} (h : Completing s k f)
    (dc : DriveCompleted (s.estimated k ea eb).toStanding t k) :
    t.srg.traction = .standing ∧ t.srg.motors.a.d = 0 ∧ t.srg.motors.b.d = 0
    ∧ ClockCompleted { s with chk := { s.chk with acc := 65535, next := 0, first := true } } t := by
  have e1 := (State.estimated_spec ea eb h).1
  generalize s.estimated k ea eb = u at e1 dc
  obtain ⟨g1, g2, -, g4, -⟩ := u.toStanding_spec
  obtain ⟨-, -, w3, w4, w5, -, -, -, w9, -⟩ := u.toStanding_driveOnly.fields
  generalize u.toStanding = v at dc g1 g2 g4 w3 w4 w5 w9
  have rests : v.regulating = false := State.regulating_rests (by rw [g1]; exact .inl rfl)
  have motors : t.srg.motors = v.srg.motors.map SrgMotor.rest := by
    rw [dc.srg]; exact (State.regulated_rests rests .a).1
  refine ⟨by rw [dc.srg, g1], by rw [motors]; rfl, by rw [motors]; rfl, ?_⟩
  have same : ChuffSame { s with chk := { s.chk with acc := 65535, next := 0, first := true } } v := by
    refine ⟨w9.trans (by rw [e1]), w3.trans (by rw [e1]), w4.trans (by rw [e1]), w5.trans (by rw [e1]), ?_, ?_, ?_, ?_⟩ <;> rw [g4, e1]
    exact ⟨rfl, rfl, rfl⟩
  exact dc.clock.of same (by rw [g2, e1]) ⟨rfl, rfl, rfl, rfl, rfl⟩ rfl

/-- Settles O43, by the three courses of a completion: on to regulation, standing first, or halted. -/
theorem completionEstimates : Obligations.CompletionEstimates := by
  unfold Obligations.CompletionEstimates
  intro s k ea eb f hs hd hst hk hw hc hn h0 c conv speed
  have hco : Completing s k f := ⟨hs, hd, hk, hw, hc, State.completeBridge_unstalled h0 hn, hst⟩
  obtain ⟨e1, -, e3⟩ := State.estimated_spec ea eb hco
  obtain ⟨goes, stands, halts⟩ := State.complete_cases ea eb hco
  rw [exec_tickCompletion ea eb hk hw hs]
  have ht : (s.estimated k ea eb).srg.traction = s.srg.traction := by rw [e1]
  have hr : (s.estimated k ea eb).srg.r = s.srg.r := by rw [e1]
  have uw : (s.estimated k ea eb).bfu.window = some ⟨.ending, f⟩ := by rw [e1]
  have spoken (t : State) (h : (∀ m, (t.srg.motors.get m).vf = ((s.estimated k ea eb).srg.motors.get m).vf)
      ∧ t.srg.vl = (s.estimated k ea eb).srg.vl) :
      (1 ≤ c.motors → t.srg.motors.a.vf = speed ea s.srg.motors.a.vf) ∧ (2 ≤ c.motors → t.srg.motors.b.vf = speed eb s.srg.motors.b.vf)
      ∧ t.srg.vl = if 2 ≤ c.motors then (t.srg.motors.a.vf + t.srg.motors.b.vf) / 2 else t.srg.motors.a.vf := by
    have sp : SpeedsFormed s t k ea eb := e3.of rfl (fun _ => rfl) h.1 h.2
    exact ⟨fun h => (sp.a h).trans (filterSpeed_nat _ _), fun h => (sp.b h).trans (filterSpeed_nat _ _), sp.loco⟩
  have band (t : State) (h : t.srg.band = bandOf k.cfg t.srg.vl) : t.srg.band
      = (if c.t1 ≤ t.srg.vl then 1 else 0) + (if c.t2 ≤ t.srg.vl then 1 else 0) + (if c.t3 ≤ t.srg.vl then 1 else 0) := by
    rw [h, hc]
    rfl
  have stood (t : State) (h : t.srg.vl = (s.estimated k ea eb).srg.vl) : (s.estimated k ea eb).standsAt k.cfg
      ↔ s.srg.traction = .moving ∧ s.srg.r = 0 ∧ t.srg.vl ≤ c.standstill := by
    unfold State.standsAt
    rw [ht, hr, h, hc]
  by_cases hsa : (s.estimated k ea eb).standsAt k.cfg
  · have hr0 : s.srg.r = 0 := by rw [← hr]; exact hsa.2.1
    by_cases hp : s.exc.part = .running
    · rw [stands hsa hp]
      have dc := (s.estimated k ea eb).toStanding.completeDrive_completed k
      have wo := Completed.wentOn hco (.toStanding uw) dc
      have st := hco.stood dc
      generalize (s.estimated k ea eb).toStanding.completeDrive k = t at wo st
      obtain ⟨b1, b2, b3⟩ := wo.drive
      obtain ⟨b4, b5, b6, b7⟩ := wo.rest
      obtain ⟨s1, s2, s3⟩ := spoken t wo.speeds
      refine ⟨t, rfl, b1, b2, b3, b4, b5, b6, b7, s1, s2, s3, fun _ x => ?_, fun _ => ?_, fun _ _ => st, fun hns => ?_⟩
      · rw [hp] at x; exact absurd x (by decide)
      · exact ⟨wo.part.1, wo.part.2.1, wo.part.2.2, band t wo.band, wo.judged⟩
      · exact absurd ((stood t wo.speeds.2).1 hsa) hns
    · have hq : s.exc.part = .stopping := by
        cases h : s.exc.part <;> rw [h] at hd hp <;> first | rfl | exact absurd rfl hp | exact absurd hd (by decide)
      rw [halts hsa hq]
      obtain ⟨⟨b1, b2, b3⟩, ⟨b4, b5, b6, b7⟩, v1, v2⟩ := hco.halts (ea := ea) (eb := eb) hr0
      have hf := fun hm => hco.halted (ea := ea) (eb := eb) hm v1
      rw [← v2] at hf
      generalize (s.estimated k ea eb).toStanding.enterHalted = t at b1 b2 b3 b4 b5 b6 b7 v1 v2 hf
      obtain ⟨s1, s2, s3⟩ := spoken t ⟨v1, v2⟩
      refine ⟨t, rfl, b1, b2, b3, b4, b5, b6, b7, s1, s2, s3, fun _ _ => hf, fun h => ?_, fun _ h => absurd h hp,
        fun hns => absurd ((stood t v2).1 hsa) hns⟩
      rcases h with h | h
      · exact absurd ((stood t v2).1 hsa) h
      · exact absurd h hp
  · rw [goes hsa]
    have dc := (s.estimated k ea eb).completeDrive_completed k
    have wo := Completed.wentOn hco ⟨rfl, ⟨rfl, rfl, rfl⟩, fun _ => rfl, rfl, uw, fun _ => ⟨rfl, rfl, rfl⟩, rfl, rfl, rfl, rfl, rfl⟩ dc
    have tt : ((s.estimated k ea eb).completeDrive k).srg.traction = s.srg.traction := by rw [dc.srg]; exact ht
    generalize (s.estimated k ea eb).completeDrive k = t at wo tt
    obtain ⟨b1, b2, b3⟩ := wo.drive
    obtain ⟨b4, b5, b6, b7⟩ := wo.rest
    obtain ⟨s1, s2, s3⟩ := spoken t wo.speeds
    have isnt := fun h => hsa ((stood t wo.speeds.2).2 h)
    exact ⟨t, rfl, b1, b2, b3, b4, b5, b6, b7, s1, s2, s3, fun h => absurd h isnt,
      fun _ => ⟨wo.part.1, wo.part.2.1, wo.part.2.2, band t wo.band, wo.judged⟩, fun h => absurd h isnt, fun _ => tt⟩

end Sys2Proof.Machine
end

section
/-!
PROOF. Regulation at a completion (O46).
-/
set_option Elab.async false

namespace Sys2Proof.Machine

/-! ### Slip, where it is in force (R81, R82) -/

theorem State.slipInForce_iff {s : State} {k : Tick} (hk : k.cfg = s.cfg.traction) :
    s.slipInForce k.cfg = true ↔ 2 ≤ s.cfg.traction.motors ∧ 0 < s.cfg.traction.slipThresh := by
  unfold State.slipInForce
  rw [State.inTick_active hk, Bool.and_eq_true, decide_eq_true_iff, hk]
  unfold Traction.present
  rw [decide_eq_true_iff]

/-- The slip run count of a completion in NORMAL (R81). -/
def State.normalRun (s : State) (c : Traction) : Nat := if c.slipThresh < speedGap s.srg.motors then s.bfu.slipRun + 1 else 0

/-- The slip run count of a completion in SLIPPING (R81). -/
def State.slippingRun (s : State) (c : Traction) : Nat := if speedGap s.srg.motors ≤ c.slipThresh / 2 then s.bfu.slipRun + 1 else 0

/-- Slip judged in NORMAL: it starts, or its run count goes on (R81, R82). -/
theorem State.judgeSlip_normal {s : State} {c : Traction} (h : s.slipInForce c = true) (hr : s.regulating = true) (hn : s.bfu.slip = .normal) :
    (c.slipTicks ≤ s.normalRun c → (s.judgeSlip c).bfu.slip = .slipping ∧ (s.judgeSlip c).bfu.slipRun = 0
      ∧ (s.judgeSlip c).bfu.faster = fasterMotor s.srg.motors s.bfu.faster ∧ (s.judgeSlip c).exc.nlat.getLsbD 10 = true)
    ∧ (s.normalRun c < c.slipTicks → (s.judgeSlip c).bfu.slip = .normal ∧ (s.judgeSlip c).bfu.slipRun = s.normalRun c
      ∧ (s.judgeSlip c).bfu.faster = s.bfu.faster ∧ (s.judgeSlip c).exc.nlat = s.exc.nlat) := by
  have e : s.judgeSlip c = s.slipNormal c := by
    unfold State.judgeSlip
    rw [if_neg (by simp [h]), if_neg (by simp [hr]), hn]
  have e2 : s.slipNormal c = if c.slipTicks ≤ s.normalRun c then
      ({ s with bfu := { s.bfu with slip := .slipping, slipRun := 0, faster := fasterMotor s.srg.motors s.bfu.faster } } : State).latch .slip
      else { s with bfu := { s.bfu with slipRun := s.normalRun c } } := rfl
  rw [e, e2]
  refine ⟨fun hl => ?_, fun hl => ?_⟩
  · rw [if_pos hl]
    refine ⟨rfl, rfl, rfl, ?_⟩
    rw [State.latch_exc_nlat, BitVec.getLsbD_or]
    simp [Notice.mask, Notice.bit]
  · rw [if_neg (by omega)]
    exact ⟨hn, rfl, rfl, rfl⟩

/-- Slip judged in SLIPPING: it ends, or its run count goes on (R81, R82). -/
theorem State.judgeSlip_slipping {s : State} {c : Traction} (h : s.slipInForce c = true) (hr : s.regulating = true)
    (hn : s.bfu.slip = .slipping) :
    (s.judgeSlip c).exc.nlat = s.exc.nlat
    ∧ (c.slipTicks ≤ s.slippingRun c → (s.judgeSlip c).bfu.slip = .normal ∧ (s.judgeSlip c).bfu.slipRun = 0
      ∧ (s.judgeSlip c).bfu.faster = none)
    ∧ (s.slippingRun c < c.slipTicks → (s.judgeSlip c).bfu.slip = .slipping ∧ (s.judgeSlip c).bfu.slipRun = s.slippingRun c
      ∧ (s.judgeSlip c).bfu.faster = fasterMotor s.srg.motors s.bfu.faster) := by
  have e : s.judgeSlip c = s.slipSlipping c := by
    unfold State.judgeSlip
    rw [if_neg (by simp [h]), if_neg (by simp [hr]), hn]
  have e2 : s.slipSlipping c = if c.slipTicks ≤ s.slippingRun c then s.endSlip
      else { s with bfu := { s.bfu with slipRun := s.slippingRun c, faster := fasterMotor s.srg.motors s.bfu.faster } } := rfl
  rw [e, e2]
  refine ⟨?_, fun hl => ?_, fun hl => ?_⟩
  · split <;> rfl
  · rw [if_pos hl]
    exact ⟨rfl, rfl, rfl⟩
  · rw [if_neg (by omega)]
    exact ⟨hn, rfl, rfl⟩

/-- A notice above VOICE_END is as slip's judgement leaves it (R94). -/
theorem DriveCompleted.notice {s t : State} {k : Tick} (h : DriveCompleted s t k) {i : Nat} (hi : i ≠ 4) :
    t.exc.nlat.getLsbD i = (s.judgeSlip k.cfg).exc.nlat.getLsbD i := by
  rcases h.nlat with e | e <;> rw [e]
  rw [BitVec.getLsbD_or]
  have z : (0x10 : BitVec 15).getLsbD i = false := by
    rw [show (0x10 : BitVec 15) = BitVec.twoPow 15 4 from rfl, BitVec.getLsbD_twoPow, decide_eq_false hi.symm, Bool.and_false]
  rw [z, Bool.or_false]

/-! ### Regulation (O46) -/

theorem State.baseLimit_same {s u : State} (hc : u.cfg = s.cfg) (hs : u.sup = s.sup) (c : Traction) : u.baseLimit c = s.baseLimit c := by
  unfold State.baseLimit
  rw [hc, hs]

theorem regulating_of {s : State} (h : s.srg.traction = .moving ∨ (s.srg.traction = .turning ∧ 0 < s.srg.r) ∨ s.srg.traction = .eBrake) :
    s.regulating = true := by
  unfold State.regulating
  rcases h with h | ⟨h, hr⟩ | h <;> rw [h]
  exact decide_eq_true hr

/-- A present motor at a completion that regulates it (R50 to R52). -/
theorem DriveCompleted.motor {s t : State} {k : Tick} (h : DriveCompleted s t k) (hk : k.cfg = s.cfg.traction) (hr : s.regulating = true)
    {m : Motor} (hm : s.cfg.traction.present m = true) :
    t.srg.motors.get m = (s.srg.motors.get m).regulate k.cfg s.srg.r ((s.judgeSlip k.cfg).dutyLimit k.cfg m)
    ∧ t.chan m = (s.chan m).hand s.cfg.traction (t.srg.motors.get m).d := by
  have hc : (s.judgeSlip k.cfg).cfg = s.cfg := by rw [s.judgeSlip_kept]
  obtain ⟨-, h2⟩ := State.regulate_spec (s := s.judgeSlip k.cfg) (c := k.cfg) ((s.judgeSlip_regulating _).trans hr)
  have hi : (s.judgeSlip k.cfg).inTick k.cfg m = true := by
    rw [State.inTick_active (by rw [hc]; exact hk), hc]; exact hm
  obtain ⟨g1, g2⟩ := h2 m
  rw [if_pos hi, s.judgeSlip_srg] at g1
  rw [if_pos hi, s.judgeSlip_chan, s.judgeSlip_srg, hc] at g2
  have hmot : t.srg.motors.get m = (s.srg.motors.get m).regulate k.cfg s.srg.r ((s.judgeSlip k.cfg).dutyLimit k.cfg m) := by
    rw [h.srg]; exact g1
  refine ⟨hmot, ?_⟩
  rw [hmot, h.chan m]
  exact g2

/-- Settles O46: a completion in MOVING, TURNING or E_BRAKE regulates each present motor under its limit. -/
theorem completionRegulates : Obligations.CompletionRegulates := by
  unfold Obligations.CompletionRegulates
  intro s k ea eb f hs hp hk hw hc h1 h2 hn h0 htr c base
  have hd : s.exc.part.driving = true := by rcases hp with h | ⟨h, -⟩ <;> rw [h] <;> rfl
  have ends : s.srg.traction.ends = false := by rcases htr with h | ⟨h, -⟩ | h <;> rw [h] <;> rfl
  have hst : s.stoppingOk := fun h => ⟨ends, by rcases hp with x | ⟨-, x⟩; (rw [x] at h; exact absurd h (by decide)); exact x⟩
  have hco : Completing s k f := ⟨hs, hd, hk, hw, hc, State.completeBridge_unstalled h0 hn, hst⟩
  obtain ⟨e1, e2, -⟩ := State.estimated_spec ea eb hco
  obtain ⟨goes, stands, halts⟩ := State.complete_cases ea eb hco
  have hchan : ∀ m, ((s.estimated k ea eb).chan m).mode = (s.chan m).mode := fun m => by
    have hb : (s.estimated k ea eb).chan m = s.bridged.chan m := by rw [e1]; rfl
    rw [hb, (State.bridged_spec hw).2]
    split <;> rfl
  rw [exec_tickCompletion ea eb hk hw hs]
  refine ⟨_, rfl, fun hgo => ?_⟩
  have uw : (s.estimated k ea eb).bfu.window = some ⟨.ending, f⟩ := by rw [e1]
  have hsa : ¬ (s.estimated k ea eb).standsAt k.cfg := by
    intro hsa
    have hvl : (s.complete k ea eb).srg.vl = (s.estimated k ea eb).srg.vl := by
      rcases hp with hp | ⟨hp, -⟩
      · rw [stands hsa hp]
        exact (Completed.wentOn hco (.toStanding uw) ((s.estimated k ea eb).toStanding.completeDrive_completed k)).speeds.2
      · rw [halts hsa hp]
        exact (hco.halts (by rw [← hsa.2.1, e1])).2.2.2
    obtain ⟨m1, m2, m3⟩ := hsa
    rw [hvl] at hgo
    rw [hc] at m3
    have t1 : s.srg.traction = .moving := by rw [← m1, e1]
    have t2 : s.srg.r = 0 := by rw [← m2, e1]
    rcases hgo with x | x | x
    · exact x t1
    · omega
    · exact absurd m3 (Nat.not_le_of_lt x)
  rw [goes hsa]
  have dc := (s.estimated k ea eb).completeDrive_completed k
  generalize (s.estimated k ea eb).completeDrive k = t at dc
  generalize s.estimated k ea eb = u at e1 e2 dc hchan
  clear goes stands halts hsa uw hgo
  have ht : u.srg.traction = s.srg.traction := by rw [e1]
  have hr : u.srg.r = s.srg.r := by rw [e1]
  have ucfg : u.cfg = s.cfg := by rw [e1]
  have ubfu : u.bfu.slip = s.bfu.slip ∧ u.bfu.slipRun = s.bfu.slipRun ∧ u.bfu.faster = s.bfu.faster ∧ u.bfu.trip = s.bfu.trip := by
    rw [e1]; exact ⟨rfl, rfl, rfl, rfl⟩
  have unlat : u.exc.nlat = s.exc.nlat := by rw [e1]
  have hku : k.cfg = u.cfg.traction := by rw [ucfg]; exact hc
  have reg : u.regulating = true := regulating_of (by rw [ht, hr]; exact htr)
  have force := State.slipInForce_iff hku
  rw [ucfg] at force
  obtain ⟨v1, v2⟩ := dc.speeds
  have tslip : t.bfu.slip = (u.judgeSlip k.cfg).bfu.slip ∧ t.bfu.slipRun = (u.judgeSlip k.cfg).bfu.slipRun
      ∧ t.bfu.faster = (u.judgeSlip k.cfg).bfu.faster := by rw [dc.bfu]; exact ⟨rfl, rfl, rfl⟩
  have limit (m : Motor) : (u.judgeSlip k.cfg).dutyLimit k.cfg m
      = if t.bfu.slip = .slipping ∧ t.bfu.faster = some m then base * (100 - c.slipCut) / 100 else base := by
    have hb : (u.judgeSlip k.cfg).baseLimit k.cfg = base := by
      have jk := u.judgeSlip_kept k.cfg
      rw [State.baseLimit_same (s := s) (by rw [jk, e1]) (by rw [jk, e1]), hc]
      exact State.baseLimit_eq s c
    unfold State.dutyLimit
    rw [hb, tslip.1, tslip.2.2, hc]
  refine ⟨by rw [dc.srg]; exact ht, by rw [dc.srg]; exact hr, by rw [dc.srg, e1], by rw [dc.bfu]; exact ubfu.2.2.2, fun m hm => ?_, ?_,
    fun h => ?_, fun hm ht => ?_, ?_⟩
  · obtain ⟨g1, g2⟩ := dc.motor hku reg (by rw [ucfg]; exact hm)
    have hx := e2 m
    have hy : (t.srg.motors.get m).vf = (u.srg.motors.get m).vf := v1 m
    rw [limit, hr] at g1
    have gi : (t.srg.motors.get m).i = nextIntegral c.ki ((s.srg.r : Int) - (t.srg.motors.get m).vf) (s.srg.motors.get m).i (s.srg.motors.get m).sat := by
      rw [hy, g1, hx, hc]; rfl
    refine ⟨_, _, _, rfl, rfl, rfl, gi, ?_, ?_, fun hmode => ?_⟩
    · have gd := congrArg (fun x => (x.d : Int)) g1
      refine gd.trans ((clampNat_eq _ _).trans ?_)
      rw [hy, hx, hc]
      rfl
    · have gs := congrArg SrgMotor.sat g1
      refine gs.trans ?_
      rw [hy, hx, hc]
      rfl
    · rw [g2, (Channel.hand_spec _ _ _).kept (by rw [hchan]; exact hmode)]
      exact ⟨rfl, rfl⟩
  · have hl : t.srg.labour = labourOf (meanDuty (u.inTick k.cfg .b) t.srg.motors) (u.srg.r * k.cfg.kff / 1024) := by rw [dc.srg]
    have hmean : meanDuty (u.inTick k.cfg .b) t.srg.motors
        = if c.motors = 2 then (t.srg.motors.a.d + t.srg.motors.b.d) / 2 else t.srg.motors.a.d := by
      rw [State.inTick_active hku, ucfg]
      unfold meanDuty Traction.present
      by_cases hm : c.motors = 2
      · rw [if_pos hm, if_pos (by exact decide_eq_true (show 2 ≤ c.motors by omega))]
      · rw [if_neg hm, if_neg (by
          rw [decide_eq_true_iff]
          have : c.motors ≤ 2 := h2
          show ¬ 2 ≤ c.motors
          omega)]
    rw [hl, hmean, hr, hc]
    exact clampNat_eq _ _
  · have hj := State.judgeSlip_off (s := u) (c := k.cfg) (by
      rw [Bool.eq_false_iff]
      intro x
      have x := force.1 x
      rcases h with h | h
      · have : s.cfg.traction.motors = 1 := h
        omega
      · have : s.cfg.traction.slipThresh = 0 := h
        omega)
    rw [tslip.1, tslip.2.1, tslip.2.2, hj]
    exact ⟨rfl, rfl, rfl⟩
  · have hf : u.slipInForce k.cfg = true := force.2 ⟨by show 2 ≤ c.motors; omega, ht⟩
    have va : t.srg.motors.a.vf = u.srg.motors.a.vf := v1 .a
    have vb : t.srg.motors.b.vf = u.srg.motors.b.vf := v1 .b
    have hnl := dc.notice (i := 10) (by decide)
    intro a b gap faster
    have hgap : speedGap u.srg.motors = gap := by
      show (u.srg.motors.a.vf - u.srg.motors.b.vf) + (u.srg.motors.b.vf - u.srg.motors.a.vf) = (t.srg.motors.a.vf - t.srg.motors.b.vf) + (t.srg.motors.b.vf - t.srg.motors.a.vf)
      rw [va, vb]
    have hfast : fasterMotor u.srg.motors u.bfu.faster = faster := by
      show _ = if t.srg.motors.b.vf < t.srg.motors.a.vf then some Motor.a else if t.srg.motors.a.vf < t.srg.motors.b.vf then some .b else s.bfu.faster
      rw [va, vb, ← ubfu.2.2.1]
      rfl
    rw [tslip.1, tslip.2.1, tslip.2.2, hnl]
    refine ⟨fun hn => ?_, fun hn => ?_⟩
    · obtain ⟨j1, j2⟩ := State.judgeSlip_normal hf reg (by rw [ubfu.1]; exact hn)
      have hrun : u.normalRun k.cfg = if c.slipThresh < gap then s.bfu.slipRun + 1 else 0 := by
        unfold State.normalRun
        rw [hgap, hc, ubfu.2.1]
      rw [hrun, hc, ← hc] at j1 j2
      rw [hfast] at j1
      rw [ubfu.2.2.1, unlat] at j2
      intro run
      rw [hc] at j1 j2 ⊢
      refine ⟨j1, fun hl => ?_⟩
      obtain ⟨x1, x2, x3, x4⟩ := j2 hl
      exact ⟨x1, x2, x3, by rw [x4]⟩
    · obtain ⟨j0, j1, j2⟩ := State.judgeSlip_slipping hf reg (by rw [ubfu.1]; exact hn)
      have hrun : u.slippingRun k.cfg = if gap ≤ c.slipThresh / 2 then s.bfu.slipRun + 1 else 0 := by
        unfold State.slippingRun
        rw [hgap, hc, ubfu.2.1]
      rw [hrun] at j1 j2
      rw [hfast] at j2
      intro run
      rw [hc] at j0 j1 j2 ⊢
      exact ⟨by rw [j0, unlat], j1, j2⟩
  · have same : ChuffSame s u := by rw [e1]; exact ⟨rfl, rfl, rfl, rfl, rfl, rfl, ⟨rfl, rfl, rfl⟩, rfl⟩
    exact dc.clock.of same (by rw [e1]) ⟨rfl, rfl, rfl, rfl, rfl⟩ rfl

end Sys2Proof.Machine
end

section
/-!
PROOF. The trips (O49): what a trip makes of the drive, in RUNNING and as the end of STOPPING, and the completions that stall.
-/
set_option Elab.async false

namespace Sys2Proof.Machine

/-! ### A trip (R60, R79) -/

/-- A trip taken, before it is reported to STOPPING (R60, R79). -/
def State.trippedBy (s : State) (r : TripReason) : State :=
  (({ s.onChans (Channel.tripped s.cfg.traction) with
    bfu := { (s.onChans (Channel.tripped s.cfg.traction)).bfu with trip := r } } : State).latch .trip).tractionTripped

theorem State.tripNow_eq {s : State} {r : TripReason} (h : s.bfu.trip = .none) : s.tripNow r = (s.trippedBy r).endStopping := if_pos h

theorem State.trippedBy_spec (s : State) (r : TripReason) :
    s.trippedBy r = { s with
      srg := { s.srg with
        traction := .tripped, r := 0, brakeOrder := false, turnTimer := none, turnMark := false,
        motors := s.srg.motors.map SrgMotor.rest },
      bfu := { s.bfu with chans := (s.trippedBy r).bfu.chans, trip := r, slip := .normal, slipRun := 0, faster := none },
      exc := { s.exc with nlat := s.exc.nlat ||| 0x80 } }
    ∧ ∀ m, (s.trippedBy r).chan m = ((s.chan m).tripped s.cfg.traction).hand s.cfg.traction 0 :=
  ⟨rfl, fun m => by cases m <;> rfl⟩

/-- A channel after a trip: OFF, no switch conducting, its average and its persistence count 0 (R79). -/
structure Channel.Tripped (x : Channel) : Prop where
  mode    : x.mode = .off
  legs    : x.leg1.high = false ∧ x.leg1.low = false ∧ x.leg2.high = false ∧ x.leg2.low = false
  avg     : x.avg = 0
  persist : x.persist = 0

theorem Channel.Tripped.of_dead {x : Channel} (hd : x.dead = true) (ha : x.avg = 0) (hp : x.persist = 0) : x.Tripped := by
  unfold Channel.dead at hd
  simp only [Bool.and_eq_true, Bool.not_eq_true', beq_iff_eq] at hd
  obtain ⟨⟨⟨⟨⟨h1, h2⟩, h3⟩, h4⟩, h5⟩, -⟩ := hd
  exact ⟨h1, ⟨h2, h3, h4, h5⟩, ha, hp⟩

/-- What a trip leaves of a state without a trip reason that drives (R12, R60, R79). -/
structure TripTaken (s t : State) (r : TripReason) : Prop where
  reason  : t.bfu.trip = r ∧ t.bfu.drvflt = s.bfu.drvflt ∧ t.exc.nlat.getLsbD 7 = true
  drive   : t.srg.traction = .tripped ∧ t.srg.r = 0 ∧ t.srg.motors.a.d = 0 ∧ t.srg.motors.b.d = 0 ∧ t.srg.brakeOrder = false
    ∧ t.srg.turnTimer = none ∧ t.srg.bridgeDir = s.srg.bridgeDir ∧ (s.srg.tick = none → t.srg.tick = none)
  chans   : ∀ n, (t.chan n).Tripped
  running : s.exc.part = .running → t = { s with exc := t.exc, srg := t.srg, bfu := t.bfu }
    ∧ t.exc = { s.exc with nlat := s.exc.nlat ||| 0x80 } ∧ t.bfu.window = s.bfu.window
  halts   : s.exc.part = .stopping → t.exc.part = .halted ∧ (s.mem.wf = true → HaltedFacts
    { s with srg := { s.srg with traction := .tripped }, bfu := { s.bfu with trip := r } } t)

theorem State.trippedBy_same (s : State) (r : TripReason) :
    HaltSame { s with srg := { s.srg with traction := .tripped }, bfu := { s.bfu with trip := r } } (s.trippedBy r) := by
  obtain ⟨e, hc⟩ := s.trippedBy_spec r
  refine ⟨fun _ _ => rfl, fun _ => rfl, fun m => ?_, ⟨rfl, rfl⟩, fun m => ?_, ⟨rfl, rfl, rfl, rfl, rfl⟩, ⟨rfl, rfl, rfl⟩, rfl, rfl,
    ⟨rfl, rfl, rfl, rfl⟩, ⟨rfl, rfl, rfl, rfl⟩⟩
  · exact SrgMotor.rest_vf _ _
  · rw [hc m]
    exact (Channel.tripped_hand s.cfg.traction (s.chan m)).2.2.1

theorem State.tripNow_taken {s : State} (r : TripReason) (ht : s.bfu.trip = .none) :
    TripTaken s (s.tripNow r) r := by
  obtain ⟨e, hc⟩ := s.trippedBy_spec r
  have same := s.trippedBy_same r
  rw [State.tripNow_eq ht]
  generalize s.trippedBy r = u at e hc same
  have hp : u.exc.part = s.exc.part := by rw [e]
  have bit : u.exc.nlat.getLsbD 7 = true := by
    rw [e]
    show (s.exc.nlat ||| 0x80).getLsbD 7 = true
    rw [BitVec.getLsbD_or]
    simp
  by_cases hs : s.exc.part = .stopping
  · have hx : u.endStopping = u.enterHalted := State.endStopping_ends (hp.trans hs) (.inl (by rw [e]; rfl))
    rw [hx]
    obtain ⟨x1, x2, x3, x4⟩ := u.enterHalted_drive
    have part : u.enterHalted.exc.part = .halted := u.enterHalted_spec.2.2.2.2.2.2
    have facts (hm : s.mem.wf = true) := HaltedFacts.of same (State.enterHalted_facts (s := u) (by rw [e]; exact hm))
    generalize u.enterHalted = t at x1 x2 x3 x4 part facts
    have tu : u.srg.traction = .tripped := by rw [e]
    refine ⟨⟨by rw [x2, e], by rw [x2, e], x4 7 bit⟩, ?_, fun n => ?_, fun h => ?_, fun _ => ⟨part, facts⟩⟩
    · rw [x1, tu]
      exact ⟨rfl, rfl, rfl, rfl, rfl, rfl, by rw [e], fun _ => rfl⟩
    · obtain ⟨y1, y2, y3⟩ := x3 n
      exact .of_dead y1 y3 y2
    · rw [hs] at h; exact absurd h (by decide)
  · rw [State.endStopping_other (by rw [hp]; exact hs)]
    refine ⟨⟨by rw [e], by rw [e], bit⟩, ?_, fun n => ?_, fun h => ?_, fun h => absurd h hs⟩
    · rw [e]
      exact ⟨rfl, rfl, rfl, rfl, rfl, rfl, rfl, id⟩
    · obtain ⟨y1, y2, y3, y4, y5, y6, y7, y8, y9, y10, y11⟩ := Channel.tripped_hand s.cfg.traction (s.chan n)
      rw [hc n]
      exact ⟨y6, ⟨y8, y9, y10, y11⟩, y7, y4⟩
    · exact ⟨by rw [e], by rw [e], by rw [e]⟩

/-! ### A completion that stalls (R76) -/

/-- The state in which a completion's stall trips: averages formed, both persistence counts cleared (R76). -/
def State.stalling (s : State) : State := s.bridged.clearPersist

theorem State.stalling_spec {s : State} {f : Option Direction} (hw : s.bfu.window = some ⟨.converting, f⟩) :
    s.stalling = { s with
      srg := { s.srg with tick := none }, bfu := { s.bfu with chans := s.stalling.bfu.chans, window := some ⟨.ending, f⟩ } }
    ∧ ∀ m, (s.stalling.chan m).dir = (s.chan m).dir := by
  obtain ⟨e, hc⟩ := State.bridged_spec hw
  refine ⟨?_, fun m => ?_⟩
  · unfold State.stalling State.clearPersist State.onChans
    rw [e]
  · have h1 : (s.stalling.chan m).dir = (s.bridged.chan m).dir := by cases m <;> rfl
    rw [h1, hc m]
    split <;> rfl

theorem State.completeBridge_stalls {s : State} (h0 : 0 < s.cfg.traction.persist) :
    let stalls := fun m : Motor =>
      s.cfg.traction.present m = true ∧ (s.chan m).cbcMark = true ∧ s.cfg.traction.persist ≤ (s.chan m).persist + 1
    (stalls .a → s.completeBridge = s.stalling.tripNow .stallA)
    ∧ (¬ stalls .a → stalls .b → s.completeBridge = s.stalling.tripNow .stallB) := by
  intro stalls
  have e : s.completeBridge = s.bridged.judgeStall := rfl
  rw [e]
  unfold State.judgeStall
  refine ⟨fun h => ?_, fun h h' => ?_⟩
  · rw [if_pos ((s.bridged_stalled h0 .a).2 h)]
    rfl
  · rw [if_neg (fun x => h ((s.bridged_stalled h0 .a).1 x)), if_pos ((s.bridged_stalled h0 .b).2 h')]
    rfl

/-- The tick that stalls in RUNNING completes in TRIPPED (R76). -/
theorem State.complete_tripped {s b : State} (k : Tick) (ea eb : EmfSet) (hb : s.completeBridge = b) (hr : b.exc.part = .running)
    (ht : b.srg.traction = .tripped) :
    let t := s.complete k ea eb
    t.bfu.trip = b.bfu.trip ∧ t.bfu.window = b.bfu.window ∧ t.exc.nlat.getLsbD 7 = b.exc.nlat.getLsbD 7 ∧ t.srg.traction = .tripped
    ∧ t.srg.r = b.srg.r ∧ t.srg.motors.a.d = 0 ∧ t.srg.motors.b.d = 0 ∧ t.srg.tick = b.srg.tick ∧ t.exc.part = .running
    ∧ ∀ m, (t.chan m).persist = (b.chan m).persist ∧ (t.chan m).mode = (b.chan m).mode := by
  obtain ⟨e, hv⟩ := State.completeSpeed_running (k := k) ea eb hr
  have ec : s.complete k ea eb = (b.completeSpeed k ea eb).completeDrive k := by
    unfold State.complete
    rw [hb]
    dsimp only
    rw [if_neg (by rw [hr]; decide), if_neg (by rw [hv]; decide)]
  have es : (b.estimate k ea eb).judgeStanding k.cfg = b.estimate k ea eb := by
    unfold State.judgeStanding
    rw [if_neg]
    rintro ⟨h, -⟩
    exact absurd (ht.symm.trans h) (by decide)
  rw [ec, e, es]
  have h2 : (b.estimate k ea eb).srg = { b.srg with motors := (b.estimate k ea eb).srg.motors, vl := (b.estimate k ea eb).srg.vl }
      ∧ (b.estimate k ea eb).bfu = b.bfu ∧ (b.estimate k ea eb).exc = b.exc := ⟨rfl, rfl, rfl⟩
  generalize b.estimate k ea eb = v at h2
  obtain ⟨v1, v2, v3⟩ := h2
  have dc := v.completeDrive_completed k
  have rests : v.regulating = false := State.regulating_rests (by rw [v1]; exact .inr (.inr (.inl ht)))
  have hj : (v.judgeSlip k.cfg).exc.nlat = v.exc.nlat := by
    cases hf : v.slipInForce k.cfg with
    | true => rw [State.judgeSlip_rests hf rests]
    | false => rw [State.judgeSlip_off hf]; rfl
  generalize v.completeDrive k = t at dc
  have motors : t.srg.motors = v.srg.motors.map SrgMotor.rest := by rw [dc.srg]; exact (State.regulated_rests rests .a).1
  have tpart : t.exc.part = v.exc.part := by rw [dc.only]
  refine ⟨by rw [dc.bfu, v2], by rw [dc.bfu, v2], by rw [dc.notice (by decide), hj, v3], by rw [dc.srg, v1]; exact ht,
    by rw [dc.srg, v1], by rw [motors]; rfl, by rw [motors]; rfl, by rw [dc.srg, v1], by rw [tpart, v3]; exact hr, fun m => ?_⟩
  obtain ⟨-, -, g1, -, g2⟩ := v.regulated_kept k.cfg m
  have hc : v.chan m = b.chan m := congrArg (fun x => x.chans.get m) v2
  rw [dc.chan m, g1, g2, hc]
  exact ⟨rfl, rfl⟩

/-- A completion that stalls trips, and completes in TRIPPED or halts (R76, R12). -/
theorem exec_tickCompletion_trips {s : State} {k : Tick} {f : Option Direction} {r : TripReason} (ea eb : EmfSet) (hs : s.exc.scan = none)
    (hd : s.exc.part.driving = true) (hk : s.srg.tick = some k) (hw : s.bfu.window = some ⟨.converting, f⟩) (ht : s.bfu.trip = .none)
    (hb : s.completeBridge = s.stalling.tripNow r) :
    ∃ t, exec (.tickCompletion ea eb) s = .next t
      ∧ t.bfu.trip = r ∧ t.exc.nlat.getLsbD 7 = true ∧ t.srg.traction = .tripped ∧ t.srg.r = 0
      ∧ t.srg.motors.a.d = 0 ∧ t.srg.motors.b.d = 0 ∧ (t.chan .a).persist = 0 ∧ (t.chan .b).persist = 0
      ∧ (t.chan .a).mode = .off ∧ (t.chan .b).mode = .off ∧ t.srg.tick = none
      ∧ (s.exc.part = .running → t.exc.part = .running ∧ t.bfu.window = some ⟨.ending, f⟩)
      ∧ (s.exc.part = .stopping → s.mem.wf = true → HaltedFacts
          { s with srg := { s.srg with traction := .tripped }, bfu := { s.bfu with trip := r } } t) := by
  obtain ⟨e, hdir⟩ := State.stalling_spec hw
  have xp : s.stalling.exc.part = s.exc.part := by rw [e]
  have xw : s.stalling.bfu.window = some ⟨.ending, f⟩ := by rw [e]
  have xt : s.stalling.srg.tick = none := by rw [e]
  have tk := State.tripNow_taken (s := s.stalling) r (by rw [e]; exact ht)
  have same : HaltSame { s with srg := { s.srg with traction := .tripped }, bfu := { s.bfu with trip := r } }
      { s.stalling with srg := { s.stalling.srg with traction := .tripped }, bfu := { s.stalling.bfu with trip := r } } := by
    rw [e]
    refine ⟨fun _ _ => rfl, fun _ => rfl, fun _ => rfl, ⟨rfl, rfl⟩, fun m => ?_, ⟨rfl, rfl, rfl, rfl, rfl⟩, ⟨rfl, rfl, rfl⟩, rfl, rfl,
      ⟨rfl, rfl, rfl, rfl⟩, ⟨rfl, rfl, rfl, rfl⟩⟩
    exact hdir m
  have hm : s.stalling.mem = s.mem := by rw [e]
  rw [exec_tickCompletion ea eb hk hw hs]
  generalize s.stalling = x at hb xp xw xt tk same hm
  generalize x.tripNow r = b at hb tk
  obtain ⟨r1, -, r3⟩ := tk.reason
  obtain ⟨d1, d2, d3, d4, -, -, -, d8⟩ := tk.drive
  refine ⟨_, rfl, ?_⟩
  by_cases hp : s.exc.part = .running
  · obtain ⟨-, tr, tw⟩ := tk.running (xp.trans hp)
    have bp : b.exc.part = .running := by rw [tr]; exact xp.trans hp
    obtain ⟨c1, c2, c3, c4, c5, c6, c7, c8, c9, c10⟩ := State.complete_tripped k ea eb hb bp d1
    obtain ⟨pa, ma⟩ := c10 .a
    obtain ⟨pb, mb⟩ := c10 .b
    refine ⟨c1.trans r1, c3.trans r3, c4, c5.trans d2, c6, c7, pa.trans (tk.chans .a).persist, pb.trans (tk.chans .b).persist,
      ma.trans (tk.chans .a).mode, mb.trans (tk.chans .b).mode, c8.trans (d8 xt), fun _ => ⟨c9, c2.trans (tw.trans xw)⟩, fun h => ?_⟩
    rw [hp] at h
    exact absurd h (by decide)
  · have hq : s.exc.part = .stopping := by
      cases h : s.exc.part <;> rw [h] at hd hp <;> first | rfl | exact absurd rfl hp | exact absurd hd (by decide)
    obtain ⟨bp, facts⟩ := tk.halts (xp.trans hq)
    have ec : s.complete k ea eb = b := by
      unfold State.complete
      rw [hb]
      dsimp only
      rw [if_pos (by rw [bp]; rfl)]
    rw [ec]
    exact ⟨r1, r3, d1, d2, d3, d4, (tk.chans .a).persist, (tk.chans .b).persist, (tk.chans .a).mode, (tk.chans .b).mode, d8 xt,
      fun h => absurd h hp, fun _ hw' => (facts (by rw [hm]; exact hw')).of same⟩

/-- Settles O49: a short, DRVFLT and a stall each take the trip, which in STOPPING halts. -/
theorem trips : Obligations.Trips := by
  unfold Obligations.Trips
  refine ⟨fun s m level hs hd => ?_, fun s k ea eb f hs hd hk hw ht h0 => ?_⟩
  · intro tripped
    have taken (u : State) (r : TripReason) (hu : u = { s with bfu := { s.bfu with drvflt := u.bfu.drvflt } }) (ht : s.bfu.trip = .none) :
        tripped (u.tripNow r) r u.bfu.drvflt := by
      have tk := State.tripNow_taken (s := u) r (by rw [hu]; exact ht)
      obtain ⟨r1, r2, r3⟩ := tk.reason
      obtain ⟨d1, d2, d3, d4, d5, d6, d7, -⟩ := tk.drive
      have up : u.exc = s.exc := by rw [hu]
      refine ⟨r1, r2, r3, d1, d2, d3, d4, d5, d6, d7.trans (by rw [hu]), fun n => ?_, fun h => ?_, fun h hw => ?_⟩
      · obtain ⟨m1, ⟨l1, l2, l3, l4⟩, a1, -⟩ := tk.chans n
        exact ⟨m1, l1, l2, l3, l4, a1⟩
      · obtain ⟨g1, g2, -⟩ := tk.running (by rw [up]; exact h)
        exact ⟨by rw [g1, hu], by rw [g2, up]⟩
      · have hf := (tk.halts (by rw [up]; exact h)).2 (by rw [hu]; exact hw)
        rw [hu] at hf
        rw [hu]
        exact hf
    have short (hc : (s.chan m).conducts = true) : exec (.shortDetected m) s = finish (s.tripNow (shortReason m)) := by
      have h1 : (s.chan m).conducting s.cfg.traction = s.chan m := if_pos hc
      show execShortDetected m s = _
      unfold execShortDetected
      dsimp only
      rw [h1, if_pos hc, State.onChan_self s m rfl]
    have nn : shortReason m ≠ .none := shortReason_ne m
    refine ⟨fun hc ht => ⟨s.tripNow (shortReason m), ?_, ?_⟩, fun hc ht => ?_, fun hl ht => ⟨({ s with bfu := { s.bfu with drvflt := some level } } : State).tripNow .driver, ?_, ?_⟩, fun h => ?_⟩
    · rw [short hc, finish_none ((s.tripNow_act nn).scan hs)]
    · have := taken s (shortReason m) rfl ht
      cases m <;> exact this
    · have e : s.tripNow (shortReason m) = s := if_neg ht
      rw [short hc, e, finish_none hs]
    · show finish (State.checkDriver { s with bfu := { s.bfu with drvflt := some level } }) = _
      unfold State.checkDriver State.drvfltActive
      rw [if_pos ⟨by rw [beq_iff_eq]; exact congrArg some hl, hd, ht⟩]
      exact finish_none ((State.tripNow_act _ (by decide)).scan hs)
    · exact taken { s with bfu := { s.bfu with drvflt := some level } } .driver rfl ht
    · show finish (State.checkDriver { s with bfu := { s.bfu with drvflt := some level } }) = _
      unfold State.checkDriver State.drvfltActive
      rw [if_neg]
      · exact finish_none hs
      · rintro ⟨h1, -, h3⟩
        rw [beq_iff_eq] at h1
        rcases h with h | h
        · exact h (Option.some.inj h1)
        · exact h h3
  · intro stalls trips
    obtain ⟨ha, hb⟩ := State.completeBridge_stalls h0
    exact ⟨fun h => exec_tickCompletion_trips ea eb hs hd hk hw ht (ha h), fun h h' => exec_tickCompletion_trips ea eb hs hd hk hw ht (hb h h')⟩

end Sys2Proof.Machine
end

section
/-!
PROOF. Period starts and the steps of the PWM counter (O47).
-/
set_option Elab.async false

namespace Sys2Proof.Machine

/-! ### Half-bridges without a dead time (R70) -/

/-- With a dead time of 0 a settled half-bridge is brought to its switch at once. -/
theorem Leg.bring_settled {want : Option Switch} {g : Leg} (h : g.settled) : (g.bring 0 want).settled := by
  obtain ⟨high, low, _, _, _⟩ := g
  obtain ⟨rfl, rfl, rfl⟩ := h
  rcases want with _ | (_ | _) <;> cases high <;> cases low <;> exact ⟨rfl, rfl, rfl⟩

/-- A settled half-bridge on which no switch conducts. -/
def Leg.idle (g : Leg) : Prop := g.settled ∧ g.high = false ∧ g.low = false

theorem Leg.bring_idle_none (dead : Nat) {g : Leg} (h : g.idle) : (g.bring dead none).idle := by
  obtain ⟨⟨h1, h2, h3⟩, h4, h5⟩ := h
  unfold Leg.bring
  simp only [h4, h5]
  exact ⟨⟨h1, h2, rfl⟩, rfl, rfl⟩

/-- An idle half-bridge takes any switch at once, and keeps it. -/
theorem Leg.bring_idle (dead : Nat) (want : Option Switch) {g : Leg} (h : g.idle) :
    (g.bring dead want).delayed = none ∧ ((g.bring dead want).bring dead want).delayed = none := by
  obtain ⟨⟨h1, h2, h3⟩, h4, h5⟩ := h
  unfold Leg.bring
  simp only [h1, h2, h3, h4, h5]
  rcases want with _ | (_ | _)
  · exact ⟨rfl, rfl⟩
  · exact ⟨rfl, rfl⟩
  · exact ⟨rfl, rfl⟩

theorem Leg.pass_settled (n : Nat) {g : Leg} (h : g.settled) : (g.pass n).settled := by
  obtain ⟨h1, h2, h3⟩ := h
  exact ⟨by show g.deadHigh - n = 0; omega, by show g.deadLow - n = 0; omega, h3⟩

/-- Both half-bridges of a channel. -/
def Channel.bothLegs (p : Leg → Prop) (ch : Channel) : Prop := p ch.leg1 ∧ p ch.leg2

theorem Channel.apply_bothLegs {p : Leg → Prop} {c : Traction} {ch : Channel}
    (hb : ∀ g w, (w = (wanted c ch).1 ∨ w = (wanted c ch).2) → p g → p (g.bring c.deadTime w)) (h : ch.bothLegs p) :
    (ch.apply c).bothLegs p := by
  obtain ⟨h1, h2⟩ := h
  unfold Channel.apply
  cases ch.dir with
  | forward => exact ⟨hb _ _ (.inl rfl) h1, hb _ _ (.inr rfl) h2⟩
  | reverse => exact ⟨hb _ _ (.inr rfl) h1, hb _ _ (.inl rfl) h2⟩

/-- What of both half-bridges is kept by every way a channel goes while its counter moves on. -/
theorem Channel.moveTo_bothLegs {p : Leg → Prop} {c : Traction} {q : Channel → Prop}
    (hq : ∀ x n k, q x → q (x.arrive c n) ∧ q { x.pass k with pos := some n, phase := phaseAt c x.duty n x.phase })
    (hp : ∀ x g w, q x → (w = (wanted c x).1 ∨ w = (wanted c x).2) → p g → p (g.bring c.deadTime w)) (hn : ∀ g n, p g → p (g.pass n))
    (n : Nat) {ch : Channel} (h : q ch) (hl : ch.bothLegs p) : (ch.moveTo c n).bothLegs p ∧ q (ch.moveTo c n) := by
  have arrive (x : Channel) (n : Nat) (h : q x) (hl : x.bothLegs p) : (x.arrive c n).bothLegs p ∧ q (x.arrive c n) := by
    refine ⟨?_, (hq x n 0 h).1⟩
    unfold Channel.arrive
    exact Channel.apply_bothLegs (fun g w hw hg => hp _ g w (hq x n _ h).2 hw hg) ⟨hn _ _ hl.1, hn _ _ hl.2⟩
  have via (qs : List Nat) (x : Channel) (h : q x) (hl : x.bothLegs p) : (x.via c n qs).bothLegs p ∧ q (x.via c n qs) := by
    induction qs generalizing x with
    | nil =>
      unfold Channel.via
      split
      · exact arrive x n h hl
      · exact ⟨hl, h⟩
    | cons y ys ih =>
      unfold Channel.via
      split
      · obtain ⟨h1, h2⟩ := arrive x y h hl
        exact ih _ h2 h1
      · exact ih _ h hl
  unfold Channel.moveTo
  split
  · exact via _ _ h hl
  · exact ⟨hl, h⟩

theorem Channel.moveTo_settled {c : Traction} (hd : c.deadTime = 0) (n : Nat) {ch : Channel} (h : ch.bothLegs Leg.settled) :
    (ch.moveTo c n).bothLegs Leg.settled :=
  (Channel.moveTo_bothLegs (q := fun _ => True) (fun _ _ _ _ => ⟨trivial, trivial⟩)
    (fun _ g w _ _ hg => by rw [hd]; exact Leg.bring_settled hg) (fun _ n hg => Leg.pass_settled n hg) n trivial h).1

theorem wanted_none {c : Traction} {ch : Channel} (h : ch.mode = .off ∨ ch.mode = .float) : wanted c ch = (none, none) := by
  unfold wanted
  rcases h with h | h <;> rw [h]

theorem Channel.moveTo_idle {c : Traction} (n : Nat) {ch : Channel} (hm : ch.mode = .off ∨ ch.mode = .float) (h : ch.bothLegs Leg.idle) :
    (ch.moveTo c n).bothLegs Leg.idle :=
  (Channel.moveTo_bothLegs (q := fun x => x.mode = .off ∨ x.mode = .float)
    (fun x n _ hx => ⟨by rw [(Channel.arrive_spec c n x).1.1]; exact hx, hx⟩)
    (fun x g w hx hw hg => by
      rw [wanted_none hx] at hw
      rcases hw with hw | hw <;> rw [hw] <;> exact Leg.bring_idle_none _ hg)
    (fun g n hg => ⟨Leg.pass_settled n hg.1, hg.2⟩) n hm h).1

/-! ### A mode taken at a period start (R68, R69, R70) -/

theorem Channel.holdMode_spec (c : Traction) (m : Mode) (ch : Channel) :
    (ch.holdMode c m).mode = m ∧ (ch.holdMode c m).duty = ch.duty ∧ (ch.holdMode c m).raised = ch.raised
    ∧ (ch.holdMode c m).dir = ch.dir ∧ (ch.holdMode c m).avg = ch.avg ∧ (ch.holdMode c m).sum = ch.sum
    ∧ (ch.holdMode c m).count = ch.count ∧ (ch.holdMode c m).pos = ch.pos ∧ (ch.holdMode c m).phase = ch.phase := by
  obtain ⟨e1, e2, e3, e4, e5, e6, e7, e8⟩ := Channel.enter_spec c m ch
  have e9 : (ch.enter c m).phase = ch.phase := by
    unfold Channel.enter
    split
    · rfl
    · rw [(Channel.apply_spec _ _).2.2]
  obtain ⟨⟨a1, a2, a3, a4, a5, a6, a7, -⟩, a8, a9⟩ := Channel.apply_spec c (ch.enter c m)
  exact ⟨a1.trans e1, a2.trans e2, a3.trans e3, a4.trans e4, a5.trans e5, a6.trans e6, a7.trans e7, a8.trans e8, a9.trans e9⟩

/-- A mode taken brings both half-bridges to it; from settled ones at once without a dead time. -/
theorem Channel.holdMode_settled {c : Traction} (hd : c.deadTime = 0) (m : Mode) {ch : Channel} (h : ch.bothLegs Leg.settled) :
    (ch.holdMode c m).bothLegs Leg.settled := by
  have one (x : Channel) (hx : x.bothLegs Leg.settled) : (x.apply c).bothLegs Leg.settled :=
    Channel.apply_bothLegs (fun g w _ hg => by rw [hd]; exact Leg.bring_settled hg) hx
  unfold Channel.holdMode Channel.enter
  split
  · exact one _ h
  · exact one _ (one { ch with mode := m, persist := if m = .off then 0 else ch.persist } h)

/-- From idle half-bridges a mode is taken at once, whatever the dead time. -/
theorem Channel.holdMode_idle {c : Traction} (m : Mode) {ch : Channel} (h : ch.bothLegs Leg.idle) :
    (ch.holdMode c m).leg1.delayed = none ∧ (ch.holdMode c m).leg2.delayed = none := by
  have once (x : Channel) (hx : x.bothLegs Leg.idle) : (x.apply c).leg1.delayed = none ∧ (x.apply c).leg2.delayed = none := by
    unfold Channel.apply
    cases x.dir <;> exact ⟨(Leg.bring_idle _ _ hx.1).1, (Leg.bring_idle _ _ hx.2).1⟩
  have twice (x : Channel) (hx : x.bothLegs Leg.idle) :
      ((x.apply c).apply c).leg1.delayed = none ∧ ((x.apply c).apply c).leg2.delayed = none := by
    have hw : wanted c (x.apply c) = wanted c x := by
      unfold Channel.apply
      cases x.dir <;> rfl
    have e (y : Channel) (w : Option Switch × Option Switch) (hy : wanted c y = w) : y.apply c = match y.dir with
        | .forward => { y with leg1 := y.leg1.bring c.deadTime w.1, leg2 := y.leg2.bring c.deadTime w.2 }
        | .reverse => { y with leg1 := y.leg1.bring c.deadTime w.2, leg2 := y.leg2.bring c.deadTime w.1 } := by
      subst hy
      rfl
    rw [e (x.apply c) _ hw, e x _ rfl]
    cases x.dir <;> exact ⟨(Leg.bring_idle _ _ hx.1).2, (Leg.bring_idle _ _ hx.2).2⟩
  unfold Channel.holdMode Channel.enter
  split
  · exact once _ h
  · exact twice { ch with mode := m, persist := if m = .off then 0 else ch.persist } h

/-- The channel of a motor after a period start outside a window: its period over, a flip taken, its mode held. -/
def Channel.started (c : Traction) (w : Bool) (d : Option Direction) (m : Mode) (ch : Channel) : Channel :=
  Channel.holdMode c m { ch.newPeriod c w with dir := d.getD (ch.newPeriod c w).dir }

theorem Channel.started_taken (c : Traction) (w : Bool) (d : Option Direction) (m : Mode) (ch : Channel) :
    Channel.Taken c ch (ch.started c w d m) := by
  refine ⟨(Channel.apply_turns c _).shown, fun h1 h2 h => ?_⟩
  have legs {p : Leg → Prop} (hp : (ch.moveTo c (periodTicks c)).bothLegs p) :
      Channel.bothLegs p { ch.newPeriod c w with dir := d.getD (ch.newPeriod c w).dir } := hp
  rcases h with h | ⟨h, hc⟩
  · obtain ⟨g1, g2⟩ := Channel.holdMode_settled h m (legs (Channel.moveTo_settled h (periodTicks c) ⟨h1, h2⟩))
    exact ⟨g1.2.2, g2.2.2⟩
  · unfold Channel.conducts Leg.conducts at hc
    simp only [Bool.or_eq_false_iff] at hc
    exact Channel.holdMode_idle m (legs (Channel.moveTo_idle (periodTicks c) h ⟨⟨h1, hc.1⟩, h2, hc.2⟩))

theorem Channel.started_spec (c : Traction) (w : Bool) (d : Option Direction) (m : Mode) (ch : Channel) :
    (ch.started c w d m).mode = m ∧ (ch.started c w d m).duty = ch.raised.getD ch.duty ∧ (ch.started c w d m).raised = none
    ∧ (ch.started c w d m).dir = d.getD ch.dir ∧ (ch.started c w d m).avg = ch.avg ∧ (ch.started c w d m).sum = ch.sum
    ∧ (ch.started c w d m).count = ch.count ∧ (ch.started c w d m).pos = some 0 ∧ (ch.started c w d m).phase = .before := by
  obtain ⟨n1, n2, n3, n4, n5, n6, n7, n8⟩ := Channel.newPeriod_spec c w ch
  obtain ⟨a1, a2, a3, a4, a5, a6, a7, a8, a9⟩ := Channel.holdMode_spec c m { ch.newPeriod c w with dir := d.getD (ch.newPeriod c w).dir }
  exact ⟨a1, a2.trans n2, a3.trans n3, a4.trans (by rw [n4]), a5.trans n5, a6.trans n6, a7.trans n7, a8.trans n8, a9⟩

theorem Channel.started_off (c : Traction) (w : Bool) (d : Option Direction) (ch : Channel) : deadLegs (ch.started c w d .off) :=
  Channel.apply_off (.inl (Channel.enter_spec c .off _).1)

/-! ### Period starts (O47) -/

theorem exec_pwmPeriodStart {s : State} (h : (s.chan .a).pos ≠ none) : exec .pwmPeriodStart s = .next s.periodStart :=
  if_pos (by rw [Option.isSome_iff_ne_none]; exact h)

/-- A period start outside a window, or at its end (R69, R72). -/
theorem State.periodStart_takes {s : State} (h : s.bfu.window = none ∨ s.windowEnds = true) :
    s.periodStart = { s with bfu := { s.bfu with chans := s.periodStart.bfu.chans, window := none } }
    ∧ ∀ m, s.periodStart.chan m = (s.chan m).started s.cfg.traction false s.windowFlip (s.modeOf m) := by
  have ho : (s.bfu.window.isSome && !s.windowEnds) = false := by
    rcases h with h | h
    · rw [h]; rfl
    · rw [h, Bool.not_true, Bool.and_false]
  have e : s.periodStart = (if s.windowEnds then (s.onChans (Channel.newPeriod s.cfg.traction false)).closeWindow
      else s.onChans (Channel.newPeriod s.cfg.traction false)).takeModes := by
    unfold State.periodStart
    dsimp only
    rw [ho]
    rfl
  rw [e]
  cases hw : s.windowEnds with
  | true =>
    refine ⟨rfl, fun m => by cases m <;> rfl⟩
  | false =>
    have hn : s.bfu.window = none := h.resolve_right (by rw [hw]; decide)
    have hf : s.windowFlip = none := by unfold State.windowFlip; rw [hn]
    refine ⟨?_, fun m => ?_⟩
    · show _ = ({ s with bfu := { s.bfu with chans := _, window := none } } : State)
      rw [← hn]
      rfl
    · rw [hf]
      cases m <;> rfl

/-- A period start within a window whose conversions are not complete (R72). -/
theorem State.periodStart_waits {s : State} (h : s.bfu.window.isSome = true) (he : s.windowEnds = false) :
    s.periodStart = s.onChans (Channel.newPeriod s.cfg.traction true) := by
  unfold State.periodStart
  dsimp only
  rw [h, he]
  rfl

/-- What R68's table gives a channel where nothing drives it (R68). -/
theorem State.modeOf_off {s : State} {m : Motor} (h : s.cfg.traction.present m = false ∨ s.exc.part.driving = false ∨ s.bfu.trip ≠ .none
    ∨ s.srg.traction = .standing ∨ s.srg.traction = .tripped ∨ (s.srg.traction = .turning ∧ s.srg.r = 0)
    ∨ (s.srg.traction = .eHeld ∧ s.srg.brakeOrder = false)) : s.modeOf m = .off := by
  unfold State.modeOf
  split
  · rfl
  next hp =>
  split
  · rfl
  next hd =>
  split
  · rfl
  next ht =>
  rcases h with h | h | h | h | h | ⟨h, h'⟩ | ⟨h, h'⟩
  · exact absurd h hp
  · exact absurd h hd
  · exact absurd h ht
  · rw [h]
  · rw [h]
  · rw [h]; exact if_pos h'
  · rw [h, h']; rfl

theorem State.modeOf_drives {s : State} {m : Motor} (hp : s.cfg.traction.present m = true) (hd : s.exc.part.driving = true)
    (ht : s.bfu.trip = .none) :
    (s.srg.traction = .moving ∨ s.srg.traction = .eBrake ∨ (s.srg.traction = .turning ∧ 0 < s.srg.r) → s.modeOf m = .drive)
    ∧ (s.srg.traction = .eHeld → s.srg.brakeOrder = true → s.modeOf m = .brake) := by
  unfold State.modeOf
  rw [if_neg (by rw [hp]; decide), if_neg (by rw [hd]; decide), if_neg (not_not_intro ht)]
  refine ⟨fun h => ?_, fun h hb => ?_⟩
  · rcases h with h | h | ⟨h, hr⟩ <;> rw [h]
    exact if_neg (by omega)
  · rw [h, hb]
    rfl

theorem phaseAt_spec (c : Traction) (d n : Nat) (x : PeriodPhase) :
    let T := periodTicks c
    (x = .before → d = 0 ∨ 2048 * n < T * (1024 - d) → phaseAt c d n x = .before)
    ∧ (x = .before → 0 < d → T * (1024 - d) ≤ 2048 * n → 2048 * n < T * (1024 + d) → phaseAt c d n x = .on)
    ∧ (x = .on → 2048 * n < T * (1024 + d) → phaseAt c d n x = .on)
    ∧ (x = .on ∨ (x = .before ∧ 0 < d) → T * (1024 + d) ≤ 2048 * n → phaseAt c d n x = .after)
    ∧ (x = .after ∨ x = .limited → phaseAt c d n x = x) := by
  intro T
  have hle : T * (1024 - d) ≤ T * (1024 + d) := Nat.mul_le_mul_left _ (by omega)
  have e1 : n < onStart c d ↔ 2048 * n < T * (1024 - d) := by
    show n < (T * (1024 - d) + 2047) / 2048 ↔ _
    omega
  have e2 : n < onEnd c d ↔ 2048 * n < T * (1024 + d) := by
    show n < (T * (1024 + d) + 2047) / 2048 ↔ _
    omega
  unfold phaseAt
  simp only [e1, e2]
  refine ⟨fun hx h => ?_, fun hx h0 h1 h2 => ?_, fun hx h => ?_, fun hx h => ?_, fun hx => ?_⟩
  · rw [hx]; exact if_pos h
  · rw [hx]
    dsimp only
    rw [if_neg (by omega), if_pos h2]
  · rw [hx]; exact if_pos h
  · rcases hx with hx | ⟨hx, h0⟩ <;> rw [hx] <;> dsimp only
    · exact if_neg (by omega)
    · rw [if_neg (by omega), if_neg (by omega)]
  · rcases hx with hx | hx <;> rw [hx]

/-- Settles O47: a period start in its three settings, and one step of the counter. -/
theorem periodStarts : Obligations.PeriodStarts := by
  unfold Obligations.PeriodStarts
  refine ⟨fun s hw hp => ?_, fun s w hw hp => ?_, fun c => rfl, fun s m p hq hp hlt => ?_⟩
  · obtain ⟨e, hc⟩ := State.periodStart_takes (s := s) (.inl hw)
    have hf : s.windowFlip = none := by unfold State.windowFlip; rw [hw]
    rw [exec_pwmPeriodStart hp]
    refine ⟨_, rfl, e.trans (by rw [← hw]), fun m => ?_⟩
    rw [hc m, hf]
    obtain ⟨a1, a2, a3, a4, a5, a6, a7, a8, a9⟩ := Channel.started_spec s.cfg.traction false none (s.modeOf m) (s.chan m)
    refine ⟨a8, a9, a3, a4, a2, a6, a7, a5, fun x y z => ?_, fun h => ?_, Channel.started_taken _ _ _ _ _⟩
    · rw [a1]
      exact State.modeOf_drives x y z
    · rw [a1, State.modeOf_off h]
      exact ⟨rfl, Channel.started_off _ _ _ _⟩
  · rw [exec_pwmPeriodStart hp]
    refine ⟨_, rfl, ?_⟩
    by_cases he : w.phase = .ending
    · have hwe : s.windowEnds = true := by
        obtain ⟨ph, fl⟩ := w
        have : ph = .ending := he
        unfold State.windowEnds
        rw [hw, this]
      obtain ⟨e, hc⟩ := State.periodStart_takes (s := s) (.inr hwe)
      have hf : s.windowFlip = w.flip := by unfold State.windowFlip; rw [hw]
      refine ⟨by rw [e], fun h => absurd he h, fun _ => ⟨by rw [e], fun m => ?_⟩⟩
      rw [hc m, hf]
      obtain ⟨a1, -, -, a4, -⟩ := Channel.started_spec s.cfg.traction false w.flip (s.modeOf m) (s.chan m)
      exact ⟨a4, a1, Channel.started_taken _ _ _ _ _⟩
    · have hwe : s.windowEnds = false := by
        obtain ⟨ph, fl⟩ := w
        have : ph ≠ .ending := he
        unfold State.windowEnds
        rw [hw]
        cases ph with
        | ending => exact absurd rfl this
        | settling => rfl
        | converting => rfl
      rw [State.periodStart_waits (by rw [hw]; rfl) hwe]
      refine ⟨rfl, fun _ => ⟨hw, fun m => ?_⟩, fun h => absurd h he⟩
      obtain ⟨n1, -, -, n4, -⟩ := Channel.newPeriod_spec s.cfg.traction true (s.chan m)
      rw [State.chan_onChans]
      exact ⟨n1, n4⟩
  · intro ch T opens ends here
    have ht : s.pwmTick.chan m = ch.arrive s.cfg.traction (p + 1) := by
      show (s.onChans _).chan m = _
      rw [State.chan_onChans]
      unfold Channel.tick
      rw [hp]
      exact if_pos hlt
    have e : ch.arrive s.cfg.traction (p + 1)
        = Channel.apply s.cfg.traction { ch.pass 1 with pos := some (p + 1), phase := phaseAt s.cfg.traction ch.duty (p + 1) ch.phase } := by
      have hk : ch.pos = some p := hp
      unfold Channel.arrive
      rw [hk]
      show Channel.apply _ { ch.pass (p + 1 - p) with pos := _, phase := _ } = _
      rw [Nat.add_sub_cancel_left]
    have hph : (ch.arrive s.cfg.traction (p + 1)).phase = phaseAt s.cfg.traction ch.duty (p + 1) ch.phase := by
      rw [e, (Channel.apply_spec _ _).2.2]
    obtain ⟨q1, q2, q3, q4, q5⟩ := phaseAt_spec s.cfg.traction ch.duty (p + 1) ch.phase
    refine ⟨s.pwmTick, step_empty hq, ?_⟩
    rw [ht, hph]
    refine ⟨?_, q1, q2, q3, q4, q5, ?_⟩
    · rw [← hph, e]
      unfold Channel.apply
      cases hd : ch.dir <;> simp only [Channel.pass, hd]
    · rw [e]
      exact ⟨(Channel.apply_turns s.cfg.traction _).legs⟩

end Sys2Proof.Machine
end

section
/-!
PROOF. The current sample and the limit comparator (O48).
-/
set_option Elab.async false

namespace Sys2Proof.Machine

/-! ### A channel's counter at the middle of its period (R69, R74) -/

/-- On its way to the middle of the period a channel that is before its on interval, or in it, stays so. -/
theorem phaseAt_before_middle {c : Traction} {d n : Nat} {x : PeriodPhase} (hd : 0 < d) (hx : x = .before ∨ x = .on) (hn : n ≤ periodMiddle c) :
    phaseAt c d n x = .before ∨ phaseAt c d n x = .on := by
  have he : n < onEnd c d := by
    have h1 : periodTicks c * 1025 ≤ periodTicks c * (1024 + d) := Nat.mul_le_mul_left _ (by omega)
    have h2 : 2 ≤ periodTicks c := by unfold periodTicks; split <;> omega
    unfold onEnd
    unfold periodMiddle at hn
    omega
  unfold phaseAt
  rcases hx with hx | hx <;> rw [hx] <;> dsimp only
  · split
    · exact .inl rfl
    · exact .inr rfl
  · rw [if_pos he]; exact .inr rfl

theorem phaseAt_middle {c : Traction} {d : Nat} {x : PeriodPhase} (hd : 0 < d) (hx : x = .before ∨ x = .on) :
    phaseAt c d (periodMiddle c) x = .on := by
  have hs : ¬ (d = 0 ∨ periodMiddle c < onStart c d) := by
    rintro (h | h)
    · omega
    · have h1 : periodTicks c * (1024 - d) ≤ periodTicks c * 1023 := Nat.mul_le_mul_left _ (by omega)
      have h2 : periodTicks c = 1250 ∨ periodTicks c = 1000 ∨ periodTicks c = 800 ∨ periodTicks c = 640 := by
        unfold periodTicks; split <;> omega
      unfold onStart periodMiddle at h
      omega
  have h := phaseAt_before_middle hd hx (Nat.le_refl (periodMiddle c))
  rcases hx with hx | hx
  · rw [hx] at h ⊢
    unfold phaseAt at h ⊢
    dsimp only at h ⊢
    rw [if_neg hs] at h ⊢
    rcases h with h | h
    · split at h <;> exact absurd h (by decide)
    · exact h
  · rw [hx] at h ⊢
    unfold phaseAt at h ⊢
    dsimp only at h ⊢
    rcases h with h | h
    · split at h <;> exact absurd h (by decide)
    · exact h

/-- A channel that is before its on interval ahead of the middle of its period is in it at the middle, with the switches due (R69). -/
theorem Channel.moveTo_middle {c : Traction} {ch : Channel} {p : Nat} (hp : ch.pos = some p) (hlt : 2 * p < periodTicks c)
    (hph : ch.phase = .before) (hd : 0 < ch.duty) :
    (ch.moveTo c (periodMiddle c)).phase = .on ∧ Channel.Shown c (ch.moveTo c (periodMiddle c)) := by
  have via (qs : List Nat) (x : Channel) (hx : x.pos.getD 0 < periodMiddle c) (h1 : x.phase = .before ∨ x.phase = .on) (h2 : 0 < x.duty) :
      (x.via c (periodMiddle c) qs).phase = .on ∧ Channel.Shown c (x.via c (periodMiddle c) qs) := by
    induction qs generalizing x with
    | nil =>
      unfold Channel.via
      rw [if_pos hx]
      refine ⟨?_, (Channel.apply_turns c _).shown⟩
      unfold Channel.arrive
      rw [(Channel.apply_spec _ _).2.2]
      exact phaseAt_middle h2 h1
    | cons q qs ih =>
      unfold Channel.via
      split
      · next hq =>
        obtain ⟨⟨-, a2, -⟩, a3, -⟩ := Channel.arrive_spec c q x
        refine ih _ (by rw [a3]; exact hq.2) ?_ (by rw [a2]; exact h2)
        unfold Channel.arrive
        rw [(Channel.apply_spec _ _).2.2]
        exact phaseAt_before_middle h2 h1 (Nat.le_of_lt hq.2)
      · exact ih x hx h1 h2
  unfold Channel.moveTo
  rw [if_pos (by rw [hp]; rfl)]
  refine via _ _ ?_ (.inl hph) hd
  have h2 : periodTicks c = 1250 ∨ periodTicks c = 1000 ∨ periodTicks c = 800 ∨ periodTicks c = 640 := by
    unfold periodTicks; split <;> omega
  rw [hp]
  show p < periodTicks c / 2
  omega

/-- The value of a period's sample (R74). -/
theorem sampleValue_eq (c : Traction) (ch : Channel) (counts : BitVec 10) (flow : Direction) :
    sampleValue c (ch.moveTo c (periodMiddle c)) counts flow
    = if ch.phase = .limited then c.limit else if ch.duty = 0 then 0 else if flow = ch.dir then 8 * counts.toNat else 0 := by
  obtain ⟨⟨-, m2, -, m4, -⟩, mp⟩ := Channel.moveTo_spec c (periodMiddle c) ch
  unfold sampleValue currentMilliamps
  rw [m2, m4]
  simp only [mp]

/-! ### The limit comparator (R75) -/

theorem Channel.limited_spec (c : Traction) (ch : Channel) (hm : ch.mode = .drive) :
    (ch.limited c).leg1.high = false ∧ (ch.limited c).leg2.high = false
    ∧ (c.limitOff = .coast → (ch.limited c).leg1.low = false ∧ (ch.limited c).leg2.low = false)
    ∧ Channel.Turns c ch (ch.limited c) := by
  obtain ⟨x, hx⟩ : ∃ x : Channel, x = { ch with phase := .limited, cbcMark := true, periodCbc := ch.periodCbc || !ch.cbcMark } := ⟨_, rfl⟩
  have e : ch.limited c = x.apply c := by rw [hx]; rfl
  have hw : wanted c x = if c.limitOff = .coast then (none, none) else (some .low, some .low) := by
    rw [hx]
    unfold wanted
    dsimp only
    rw [hm]
    cases c.limitOff <;> rfl
  have turns : Channel.Turns c ch (x.apply c) := by
    have h := (Channel.apply_turns c x).legs
    rw [hx] at h ⊢
    exact ⟨h⟩
  rw [e]
  refine ⟨?_, ?_, fun h => ?_, turns⟩
  · unfold Channel.apply
    rw [hw]
    cases c.limitOff <;> cases x.dir <;> first | exact (Leg.bring_none _ _).1 | exact Leg.bring_low _ _
  · unfold Channel.apply
    rw [hw]
    cases c.limitOff <;> cases x.dir <;> first | exact (Leg.bring_none _ _).1 | exact Leg.bring_low _ _
  · obtain ⟨-, h2, -, h4⟩ := Channel.apply_dead (hw.trans (if_pos h))
    exact ⟨h2, h4⟩

theorem execCbcLimit_quiet {s : State} {m : Motor} (ht : (s.chan m).toOn s.cfg.traction = s.chan m)
    (h : ¬ ((s.chan m).mode = .drive ∧ (s.chan m).phase = .on)) : exec (.cbcLimit m) s = .next s := by
  show execCbcLimit m s = _
  unfold execCbcLimit
  dsimp only
  rw [ht, if_neg h]

/-- Settles O48: a sample and the comparator, inside and outside the periods and intervals they belong to. -/
theorem currentEvents : Obligations.CurrentEvents := by
  unfold Obligations.CurrentEvents
  intro s m counts flow ch onlyChan
  have toOn (h : ¬ (ch.mode = .drive ∧ ch.phase = .before ∧ 0 < ch.duty)) : ch.toOn s.cfg.traction = ch := if_neg h
  have dropped (h : ch.samples = false) : exec (.currentSample m counts flow) s = .next s := if_neg (by
    show ¬ ch.samples = true
    rw [h]; decide)
  refine ⟨fun hm => ⟨dropped ?_, execCbcLimit_quiet (toOn fun h => hm h.1) fun h => hm h.1⟩, fun hm ho hs hp => ?_, fun hm hph => ?_,
    fun hm hph => ?_⟩
  · unfold Channel.samples
    rw [beq_false_of_ne hm]
    rfl
  · have hsamp : ch.samples = true := by
      unfold Channel.samples
      rw [hm, ho, hs, Option.isSome_iff_ne_none.2 hp]
      rfl
    have e : exec (.currentSample m counts flow) s = .next (s.onChan m (Channel.sample s.cfg.traction counts flow)) := if_pos hsamp
    obtain ⟨⟨m1, m2, m3, m4, m5, m6, m7, m8, -⟩, -⟩ := Channel.moveTo_spec s.cfg.traction (periodMiddle s.cfg.traction) ch
    refine ⟨_, e, ?_, ?_⟩
    · show s.onChan m _ = _
      rw [State.chan_onChan]
      rfl
    rw [State.chan_onChan]
    have hc : (Channel.sample s.cfg.traction counts flow ch).sum
        = (ch.moveTo s.cfg.traction (periodMiddle s.cfg.traction)).sum
          + sampleValue s.cfg.traction (ch.moveTo s.cfg.traction (periodMiddle s.cfg.traction)) counts flow := rfl
    refine ⟨congrArg (· + 1) m7, ?_, m1.trans hm, m2, m4, m8, fun p h1 h2 h3 h4 => ?_, ?_⟩
    · rw [show s.chan m = ch from rfl, hc, m6, sampleValue_eq]
    · obtain ⟨x1, x2⟩ := Channel.moveTo_middle h1 h2 h3 h4
      obtain ⟨d, b, w, l1, l2⟩ := x2.legs
      exact ⟨x1, ⟨d, b, ⟨w.off, w.brake, w.on, w.limited, w.coasts, w.brakes⟩, l1, l2⟩⟩
    · refine if_neg ?_
      rw [State.chan_onChan]
      unfold Channel.samples Channel.sample
      simp
  · have e : exec (.cbcLimit m) s = .next (s.onChan m fun _ => ch.limited s.cfg.traction) := by
      show execCbcLimit m s = _
      unfold execCbcLimit
      dsimp only
      rw [show (s.chan m).toOn s.cfg.traction = ch from toOn fun h => by rw [hph] at h; exact absurd h.2.1 (by decide), if_pos ⟨hm, hph⟩]
    obtain ⟨l1, l2, l3, l4⟩ := Channel.limited_spec s.cfg.traction ch hm
    have a := Channel.apply_spec s.cfg.traction { ch with phase := .limited, cbcMark := true, periodCbc := ch.periodCbc || !ch.cbcMark }
    obtain ⟨⟨a1, a2, -, a4, -, a6, -, a8, -, -, -, a12⟩, -, a14⟩ := a
    refine ⟨_, e, ?_, ?_⟩
    · show s.onChan m _ = _
      rw [State.chan_onChan]
      rfl
    rw [State.chan_onChan]
    exact ⟨a14, a8, a12, a2, a1.trans hm, a6, a4, l1, l2, l3, l4⟩
  · refine execCbcLimit_quiet (toOn fun h => ?_) fun h => ?_
    · rcases hph with x | x | ⟨-, x⟩
      · rw [x] at h; exact absurd h.2.1 (by decide)
      · rw [x] at h; exact absurd h.2.1 (by decide)
      · omega
    · have hn : ch.phase = .on := h.2
      rcases hph with x | x | ⟨x, -⟩ <;> rw [x] at hn <;> exact absurd hn (by decide)

end Sys2Proof.Machine
end

section
/-!
PROOF. The squeal check (O54): the condition, the start and the release by the squeal's tag (R108, R129, R130).
-/
set_option Elab.async false

namespace Sys2Proof.Machine

theorem labourClass_light (l : Nat) : (labourClass l == 0) = true ↔ l ≤ 2 := by
  unfold labourClass
  by_cases h : l ≤ 2
  · simp [h]
  · rw [if_neg h]
    split <;> simp [h]

theorem State.squealHolds_iff (s : State) : s.squealHolds = true ↔ s.cfg.sound.sqClip ≠ none
    ∧ (s.srg.traction = .moving ∨ s.srg.traction = .turning ∨ s.srg.traction = .eBrake)
    ∧ s.srg.labour ≤ 2 ∧ s.cfg.sound.sqLow ≤ s.srg.vl ∧ s.srg.vl ≤ s.cfg.sound.sqHigh := by
  have ht : s.srg.traction.squeals = true ↔ s.srg.traction = .moving ∨ s.srg.traction = .turning ∨ s.srg.traction = .eBrake := by
    cases s.srg.traction <;> simp [TractionState.squeals]
  unfold State.squealHolds
  simp only [Bool.and_eq_true, decide_eq_true_eq, labourClass_light, ht, Option.isSome_iff_ne_none]
  constructor
  · rintro ⟨⟨⟨h1, h2⟩, h3⟩, h4, h5⟩
    exact ⟨h1, h2, h3, h4, h5⟩
  · rintro ⟨h1, h2, h3, h4, h5⟩
    exact ⟨⟨⟨h1, h2⟩, h3⟩, h4, h5⟩

theorem StartReq.markTag_eq (tag : Half) (q : StartReq) : q.markTag tag = if q.tag = tag then { q with mark := true } else q := by
  unfold StartReq.markTag
  by_cases h : q.tag = tag
  · rw [if_pos h, h, beq_self_eq_true, Bool.or_true]
  · rw [if_neg h, beq_false_of_ne h, Bool.or_false]

theorem mem_poolVoices_iff (v : Fin 8) : v ∈ poolVoices ↔ v ≠ 0 ∧ v ≠ 1 := by
  revert v
  decide

theorem Voice.active_of_looping {x : Voice} (h : x.state = .looping) : x.active = true := by
  unfold Voice.active
  rw [h]
  rfl

/-- A voice of a tag that no other active voice carries is the one a release by that tag finds (R99, R108). -/
theorem State.taggedVoice_of {s : State} {tag : Half} (hn : tag ≠ 0) (hok : s.tagsOk) {v : Fin 8} (ha : (s.voice v).active = true)
    (ht : (s.voice v).tag = tag) : s.taggedVoice tag = some v := by
  obtain ⟨h0, h1, hu⟩ := hok
  have hp : v ∈ poolVoices := (mem_poolVoices_iff v).2 ⟨fun h => hn (by rw [← ht, h, h0]), fun h => hn (by rw [← ht, h, h1])⟩
  have hs : s.taggedVoice tag ≠ none := by
    intro h
    have := List.find?_eq_none.1 h v hp
    simp [ha, ht] at this
  obtain ⟨u, hf⟩ := Option.ne_none_iff_exists'.1 hs
  have hx := List.find?_some hf
  simp only [Bool.and_eq_true, beq_iff_eq] at hx
  rw [hf, hu u v hx.1 ha (by rw [hx.2, ht]) (by rw [hx.2]; exact hn)]

/-- A release by a nonzero tag: the LOOPING voice of the tag becomes RELEASED, and the waiting starts of the tag take the mark (R108). -/
theorem State.releaseTag_spec {s : State} {tag : Half} (hn : tag ≠ 0) (hok : s.tagsOk) :
    s.releaseTag tag = { s with snd := { s.snd with
      voices := (s.releaseTag tag).snd.voices, queue := s.snd.queue.map (StartReq.markTag tag),
      current := s.snd.current.map fun w => { w with req := w.req.markTag tag } } }
    ∧ ∀ v, (s.releaseTag tag).voice v = if (s.voice v).state = .looping ∧ (s.voice v).tag = tag
      then { s.voice v with state := .released } else s.voice v := by
  have others (v : Fin 8) (u : Option (Fin 8)) (hu : s.taggedVoice tag = u) (hv : u ≠ some v) :
      ¬ ((s.voice v).state = .looping ∧ (s.voice v).tag = tag) := fun h =>
    hv (hu.symm.trans (State.taggedVoice_of hn hok (Voice.active_of_looping h.1) h.2))
  unfold State.releaseTag
  rw [if_neg hn]
  cases hf : s.taggedVoice tag with
  | none =>
    refine ⟨rfl, fun v => ?_⟩
    rw [if_neg (others v none hf (by simp))]
    rfl
  | some u =>
    have hx := List.find?_some hf
    simp only [Bool.and_eq_true, beq_iff_eq] at hx
    dsimp only
    split
    · next hl =>
      refine ⟨rfl, fun v => ?_⟩
      show (s.snd.voices.set u { s.voice u with state := .released }).get v = _
      rw [Octet.get_set_if]
      by_cases hv : v = u
      · rw [if_pos hv, hv, if_pos ⟨hl, hx.2⟩]
      · rw [if_neg hv, if_neg (others v (some u) hf (by simpa using fun h => hv h.symm))]
        rfl
    · next hl =>
      refine ⟨rfl, fun v => ?_⟩
      by_cases hv : v = u
      · rw [hv, if_neg (fun h => hl h.1)]
        rfl
      · rw [if_neg (others v (some u) hf (by simpa using fun h => hv h.symm))]
        rfl

/-- Settles O54, by the squeal's state and the condition. -/
theorem squealChecks : Obligations.SquealChecks := by
  unfold Obligations.SquealChecks
  intro s holds made
  have hh : s.dropSqueal.squealHolds = true ↔ holds := s.dropSqueal.squealHolds_iff
  have hf : s.dropSqueal.squealHolds = false ↔ ¬ holds := by rw [← hh, Bool.not_eq_true]
  refine ⟨fun h => if_neg ?_, fun hd hq => ?_⟩
  · rintro ⟨h1, h2⟩
    rcases h with h | h
    · rw [h] at h1; exact absurd h1 (by decide)
    · rw [h] at h2; exact absurd h2 (by decide)
  have e : exec .squealCheck s = .next s.dropSqueal.checkSqueal := if_pos ⟨hd, hq⟩
  have hsq : s.dropSqueal.snd.squeal = s.snd.squeal := rfl
  have starts (hs : s.snd.squeal = .silent) (h : holds) : s.dropSqueal.checkSqueal = s.dropSqueal.requestSqueal := by
    unfold State.checkSqueal
    rw [hsq, hs, hh.2 h]
  have silences (hs : s.snd.squeal = .silent) : s.dropSqueal = made .silent := by
    show s.dropSqueal = { s with snd := { s.snd with squeal := .silent, squealDue := false } }
    rw [← hs]
    rfl
  rw [e]
  refine ⟨fun hs h hroom => ?_, fun hs h hfull => ?_, fun hs h hok => ?_, fun hs h => ?_, fun h => ?_⟩
  · obtain ⟨c, hc⟩ := Option.ne_none_iff_exists'.1 h.1
    have hc' : s.dropSqueal.cfg.sound.sqClip = some c := hc
    rw [starts hs h]
    unfold State.requestSqueal
    rw [hc']
    dsimp only
    rw [State.requestStart_room _ (by exact hroom)]
    exact ⟨_, rfl, rfl, hc.symm, rfl, rfl, rfl, rfl, rfl⟩
  · obtain ⟨c, hc⟩ := Option.ne_none_iff_exists'.1 h.1
    have hc' : s.dropSqueal.cfg.sound.sqClip = some c := hc
    rw [starts hs h]
    unfold State.requestSqueal
    rw [hc']
    dsimp only
    unfold State.requestStart
    rw [if_pos (by exact hfull)]
    rfl
  · have ec : s.dropSqueal.checkSqueal = (s.dropSqueal.releaseTag squealTag).setSqueal .silent := by
      unfold State.checkSqueal
      rw [hsq, hs, hf.2 h]
    obtain ⟨r1, r2⟩ := State.releaseTag_spec (s := s.dropSqueal) (tag := squealTag) (by decide) hok
    intro marked
    have hm : StartReq.markTag squealTag = marked := funext fun q => StartReq.markTag_eq _ _
    have hmark : (fun w : StartWork => { w with req := w.req.markTag squealTag }) = fun w => { w with req := marked w.req } := by
      rw [hm]
    rw [ec]
    generalize s.dropSqueal.releaseTag squealTag = u at r1 r2
    refine ⟨_, rfl, ?_, fun v => r2 v⟩
    rw [r1, hm]
    rfl
  · have ec : s.dropSqueal.checkSqueal = s.dropSqueal.setSqueal .silent := by
      unfold State.checkSqueal
      rw [hsq, hs, hf.2 h]
    rw [ec]
    rfl
  · have ec : s.dropSqueal.checkSqueal = s.dropSqueal := by
      unfold State.checkSqueal
      rw [hsq]
      rcases h with ⟨hs, h⟩ | ⟨hs, h⟩
      · rw [hs, hf.2 h]
      · rw [hh.2 h]
        cases hk : s.snd.squeal with
        | silent => exact absurd hk hs
        | sounding => rfl
        | spent => rfl
    rw [ec]
    rfl

end Sys2Proof.Machine
end

section
/-!
PROOF. The smoke unit's events (O55): the thermistor table, the conversion, the evaluation with its fluid and its heater, and a puff's ends.
-/
set_option Elab.async false

namespace Sys2Proof.Machine

/-! ### The thermistor table (R134) -/

theorem temperatureOf_above {c c0 : Nat} {t0 : Int} {rest : List (Nat × Int)} (h : c0 < c) : temperatureOf c ((c0, t0) :: rest) = none := by
  cases rest with
  | nil => exact if_neg (by omega)
  | cons y ys => exact if_pos h

theorem temperatureOf_skip {c : Nat} {x y : Nat × Int} {rest : List (Nat × Int)} (h : c ≤ x.1) (h' : c ≤ y.1) :
    temperatureOf c (x :: y :: rest) = temperatureOf c (y :: rest) := by
  obtain ⟨c0, t0⟩ := x
  obtain ⟨c1, t1⟩ := y
  show (if c0 < c then none else if c1 < c then _ else _) = _
  rw [if_neg (Nat.not_lt_of_le h), if_neg (Nat.not_lt_of_le h')]

/-- Codes falling along the table, every later point's code is at most the first one's. -/
theorem codes_le {x y : Nat × Int} {rest : List (Nat × Int)} (h : ((x :: rest).map Prod.fst).Pairwise (fun a b => b < a)) (hy : y ∈ x :: rest) :
    y.1 ≤ x.1 := by
  rcases List.mem_cons.1 hy with rfl | hy
  · exact Nat.le_refl _
  · exact Nat.le_of_lt ((List.pairwise_cons.1 h).1 _ (List.mem_map_of_mem hy))

theorem temperatureOf_between {points : List (Nat × Int)} {c c0 c1 : Nat} {t0 t1 : Int} (i : Nat)
    (h : (points.map Prod.fst).Pairwise (fun a b => b < a)) (h0 : points[i]? = some (c0, t0)) (h1 : points[i + 1]? = some (c1, t1))
    (hc : c ≤ c0) (hc' : c1 < c) : temperatureOf c points = some (interpolate c0 t0 c1 t1 c) := by
  induction points generalizing i with
  | nil => exact absurd h0 (by simp)
  | cons x rest ih =>
    cases i with
    | zero =>
      cases rest with
      | nil => exact absurd h1 (by simp)
      | cons y ys =>
        simp only [List.getElem?_cons_zero, List.getElem?_cons_succ, Option.some.injEq] at h0 h1
        subst h0 h1
        show (if c0 < c then none else if c1 < c then _ else _) = _
        rw [if_neg (by omega), if_pos hc']
    | succ j =>
      simp only [List.getElem?_cons_succ] at h0 h1
      cases rest with
      | nil => exact absurd h0 (by simp)
      | cons y ys =>
        have hm : (c0, t0) ∈ y :: ys := List.mem_of_getElem? h0
        have hy : c ≤ y.1 := Nat.le_trans hc (codes_le (List.pairwise_cons.1 h).2 hm)
        have hx : y.1 ≤ x.1 := codes_le h (by simp)
        rw [temperatureOf_skip (Nat.le_trans hy hx) hy]
        exact ih j (List.pairwise_cons.1 h).2 h0 h1

theorem temperatureOf_last {points : List (Nat × Int)} {c c1 : Nat} {t1 : Int} (h : (points.map Prod.fst).Pairwise (fun a b => b < a))
    (hl : points.getLast? = some (c1, t1)) (hc : c ≤ c1) : temperatureOf c points = if c = c1 then some t1 else none := by
  induction points with
  | nil => exact absurd hl (by simp)
  | cons x rest ih =>
    cases rest with
    | nil =>
      simp only [List.getLast?_singleton, Option.some.injEq] at hl
      subst hl
      rfl
    | cons y ys =>
      have hl' : (y :: ys).getLast? = some (c1, t1) := by rw [← hl, List.getLast?_cons_cons]
      have hm : (c1, t1) ∈ y :: ys := List.mem_of_getLast? hl'
      have hy : c ≤ y.1 := Nat.le_trans hc (codes_le (List.pairwise_cons.1 h).2 hm)
      have hx : y.1 ≤ x.1 := codes_le h (by simp)
      rw [temperatureOf_skip (Nat.le_trans hy hx) hy]
      exact ih (List.pairwise_cons.1 h).2 hl'

/-! ### An expiry's parts (R134 to R139) -/

/-- The fault latch, the temperature and the hot latch after a code's conversion, with the notice of either latch (R134, R135). -/
def State.converted (s : State) (c : Nat) : State :=
  let found := if s.smk.fault = true then none else temperatureOf c s.cfg.smoke.points
  let fault := s.smk.fault || found.isNone
  let temp := found.getD s.smk.temp
  let hot := if found.isNone then s.smk.hot
    else if s.smk.hot then decide (s.cfg.smoke.tMax - 30 < temp) else decide (s.cfg.smoke.tMax ≤ temp)
  let alert := (fault && !s.smk.fault) || (hot && !s.smk.hot)
  { s with
    smk := { s.smk with fault := fault, temp := temp, hot := hot },
    exc := { s.exc with nlat := if alert then s.exc.nlat ||| 0x1000 else s.exc.nlat } }

theorem State.judgeHot_eq (s : State) :
    s.judgeHot = { s with
      smk := { s.smk with hot := if s.smk.hot then decide (s.cfg.smoke.tMax - 30 < s.smk.temp) else decide (s.cfg.smoke.tMax ≤ s.smk.temp) },
      exc := { s.exc with nlat := if s.smk.hot = false ∧ s.cfg.smoke.tMax ≤ s.smk.temp then s.exc.nlat ||| 0x1000 else s.exc.nlat } } := by
  by_cases hh : s.smk.hot = true
  · have hn : ¬ s.smk.hot = false := by rw [hh]; decide
    simp only [State.judgeHot, if_neg hn, if_pos hh, if_neg (fun h : s.smk.hot = false ∧ _ => hn h.1)]
    by_cases ht : s.smk.temp ≤ s.cfg.smoke.tMax - 30
    · rw [if_pos ht, decide_eq_false (by omega)]
    · rw [if_neg ht, decide_eq_true (by omega), ← hh]
  · have hn : s.smk.hot = false := by simpa using hh
    simp only [State.judgeHot, if_pos hn, if_neg hh]
    by_cases ht : s.cfg.smoke.tMax ≤ s.smk.temp
    · rw [if_pos ht, if_pos ⟨hn, ht⟩, decide_eq_true ht]
      rfl
    · rw [if_neg ht, if_neg (fun h => ht h.2), decide_eq_false ht, ← hn]

theorem State.convertTemp_eq (s : State) (c : Nat) : s.convertTemp c = s.converted c := by
  unfold State.convertTemp State.converted
  cases hf : s.smk.fault with
  | true =>
    rw [if_pos rfl, if_pos rfl]
    simp only [Option.isNone_none, if_true, Option.getD_none, Bool.not_true, Bool.and_false, Bool.and_not_self,
      Bool.or_self, Bool.false_eq_true, if_false]
    rw [← hf]
  | false =>
    rw [if_neg (by decide), if_neg (by decide)]
    cases ht : temperatureOf c s.cfg.smoke.points with
    | none =>
      dsimp only
      simp
      rfl
    | some t =>
      dsimp only
      rw [State.judgeHot_eq]
      dsimp only
      cases s.smk.hot <;> simp [hf]

theorem SmokeEvaluated.kept {s t : State} (h : SmokeEvaluated s t) : t.smk = { s.smk with
    state := t.smk.state, target := t.smk.target, heater := t.smk.heater, fan := t.smk.fan, puff := t.smk.puff } := by
  by_cases hs : s.smk.state = t.smk.state
  · by_cases ht : s.smk.target = t.smk.target
    · rw [h.same hs ht]
    · have e := h.target hs ht
      rw [e]
  · by_cases hr : t.smk.state = .ready
    · have e := h.ready hr (fun x => hs (x.trans hr.symm))
      rw [e]
    · have e := h.other hr hs
      rw [e]

/-- WARMING and READY come with a target, and READY of the rows above them with none that holds (R136). -/
theorem SmokeRanked.heated {s : State} {x : SmokeState} {g : SmokeTarget} (h : SmokeRanked s x g) (hx : x = .warming ∨ x = .ready) :
    g ≠ .none ∧ s.smk.fault = false ∧ s.haltedLike = false ∧ s.sup.state = .normal := by
  have not {y : SmokeState} {z : SmokeTarget} (e : x = y ∧ z = .none) (hy : y ≠ .warming) (hy' : y ≠ .ready) : False := by
    rcases hx with hx | hx
    · exact hy (e.1.symm.trans hx)
    · exact hy' (e.1.symm.trans hx)
  have hf : s.smk.fault = false := by
    cases hf : s.smk.fault with
    | false => rfl
    | true => exact (not (h.fault hf) (by decide) (by decide)).elim
  have hl : s.haltedLike = false := by
    cases hl : s.haltedLike with
    | false => rfl
    | true => exact (not (h.halted hf hl) (by decide) (by decide)).elim
  have hs : s.sup.state = .normal := by
    refine Classical.byContradiction fun hs => ?_
    exact not (h.shed hf hl hs) (by decide) (by decide)
  have hd : s.smk.fluid ≠ 0 := fun hd => not (h.dry hf hl hs hd) (by decide) (by decide)
  have ho : s.smk.hot = false := by
    cases ho : s.smk.hot with
    | false => rfl
    | true => exact (not (h.hot hf hl hs hd ho) (by decide) (by decide)).elim
  refine ⟨?_, hf, hl, hs⟩
  obtain ⟨e1, e2, e3, e4⟩ := h.enabled hf hl hs hd ho
  cases he : s.smk.enable with
  | true =>
    by_cases ht : s.cfg.smoke.tVapor ≤ s.smk.temp
    · rw [(e3 he ht).2]; decide
    · rw [(e4 he (by omega)).2]; decide
  | false =>
    cases hk : s.cfg.smoke.keepWarm with
    | true => rw [(e2 he hk).2]; decide
    | false => exact (not (e1 he hk) (by decide) (by decide)).elim

/-- The heater duty of a target that is not NONE (R137). -/
theorem heaterDemand_eq {c : Smoke} {g : SmokeTarget} {temp : Int} {h : Nat} (hg : g ≠ .none)
    (hh : (h : Int) = max 0 (min (((if g = .warm then c.tWarm else c.tSet) - temp) * c.gain / 4) 255)) : heaterDemand c g temp = h := by
  have e : targetTemp c g = if g = .warm then c.tWarm else c.tSet := by
    cases g with
    | none => exact absurd rfl hg
    | warm => rfl
    | set => rfl
  have := clampNat_eq ((targetTemp c g - temp) * c.gain / 4) 255
  unfold heaterDemand
  rw [e] at this ⊢
  omega

/-- The last unit of fluid used in READY: the state becomes DRY with both outputs off (R136, R139). -/
theorem State.useFluid_dry {v : State} (hr : SmokeRanked v .ready .set) (hs : v.smk.state = .ready) (hf : v.smk.fluid = 1) :
    v.useFluid.formHeater = { v with
      smk := { v.smk with fluid := 0, state := .dry, target := .none, heater := 0, fan := 0, puff := none },
      exc := { v.exc with nlat := v.exc.nlat ||| 0x1000 } } := by
  obtain ⟨-, h1, h2, h3⟩ := hr.heated (.inr rfl)
  obtain ⟨u, hu⟩ : ∃ u, u = ({ v with smk := { v.smk with fluid := v.smk.fluid - 1 } } : State) := ⟨_, rfl⟩
  have uf : u.smk.fluid = 0 := by rw [hu]; show v.smk.fluid - 1 = 0; omega
  have ul : u.haltedLike = false := by rw [hu]; exact h2
  have hrank : u.smokeRank = (.dry, .none) := by
    unfold State.smokeRank
    rw [if_neg (by rw [hu, h1]; decide), ul, if_neg (by decide), if_neg (by rw [hu]; exact not_not_intro h3), if_pos uf]
  have he : u.evalSmoke = { u with smk := { u.smk with state := .dry, target := .none, heater := 0, fan := 0, puff := none } } := by
    have us : u.smk.state = .ready := by rw [hu]; exact hs
    unfold State.evalSmoke
    rw [hrank]
    unfold Smk.change
    rw [us]
    rfl
  have e : v.useFluid = u.evalSmoke.latch .smokeAlert := by
    unfold State.useFluid
    rw [if_pos hs]
    dsimp only
    rw [if_pos (show v.smk.fluid - 1 = 0 by omega), ← hu]
  rw [e, he, hu, hf]
  rfl

theorem State.useFluid_some {v : State} (hs : v.smk.state = .ready) (hf : 2 ≤ v.smk.fluid) :
    v.useFluid = { v with smk := { v.smk with fluid := v.smk.fluid - 1 } } := by
  unfold State.useFluid
  rw [if_pos hs]
  exact if_neg (by show ¬ v.smk.fluid - 1 = 0; omega)

theorem State.useFluid_other {v : State} (hs : v.smk.state ≠ .ready) : v.useFluid = v := if_neg hs

theorem State.smokeActs_off {s : State} (h : s.exc.part = .idle ∨ (s.exc.part = .adopting ∧ s.haltedLike = false)) : s.smokeActs = false := by
  unfold State.smokeActs
  rcases h with h | ⟨h, hl⟩
  · unfold State.haltedLike
    rw [h]
    rfl
  · rw [hl, h]
    rfl

/-- Settles O55: the table by its points, and an expiry by the smoke state that it ranks. -/
theorem smokeEvents : Obligations.SmokeEvents := by
  unfold Obligations.SmokeEvents
  refine ⟨fun points c i c0 c1 t0 t1 hp => ⟨fun h0 h1 hc hc' => temperatureOf_between i hp h0 h1 hc hc',
    fun hl => ⟨fun h => ?_, fun h => ?_⟩, fun hh hc => ?_⟩, fun s => s.evalSmoke_spec, fun s code => ⟨fun h => ?_, fun ht ha => ?_⟩,
    fun s => ⟨fun f hf hk hl => ?_, fun hf => ?_, fun hf => ⟨?_, ?_⟩⟩⟩
  · rw [temperatureOf_last hp hl (Nat.le_of_eq h), if_pos h]
  · rw [temperatureOf_last hp hl (Nat.le_of_lt h), if_neg (by omega)]
  · cases points with
    | nil => exact absurd hh (by simp)
    | cons x rest =>
      simp only [List.head?_cons, Option.some.injEq] at hh
      subst hh
      exact temperatureOf_above hc
  · refine if_neg ?_
    rintro ⟨h1, h2⟩
    rcases h with h | h
    · rw [h] at h1; exact absurd h1 (by decide)
    · rw [State.smokeActs_off h] at h2; exact absurd h2 (by decide)
  · intro found fault temp hot alert judged
    have hacts : s.smokeActs = true := by unfold State.smokeActs; rw [Bool.or_eq_true]; exact ha
    have hj : s.convertTemp code.toNat = judged := s.convertTemp_eq code.toNat
    have e : exec (.smokeTimer code) s = .next judged.evalSmoke.useFluid.formHeater := by
      rw [← hj]
      exact if_pos ⟨ht, hacts⟩
    have sp := judged.evalSmoke_spec
    have kept := sp.kept
    have jf : judged.smk.fluid = s.smk.fluid ∧ judged.smk.hlim = s.smk.hlim ∧ judged.smk.temp = temp := ⟨rfl, rfl, rfl⟩
    have jc : judged.cfg = s.cfg := rfl
    refine ⟨_, judged.evalSmoke, e, sp, ?_⟩
    have only := sp.only
    have rank : SmokeRanked judged.evalSmoke judged.evalSmoke.smk.state judged.evalSmoke.smk.target := by
      obtain ⟨r1, r2, r3, r4, r5, r6⟩ := sp.ranked
      have hl : judged.evalSmoke.haltedLike = judged.haltedLike := rfl
      have hc : judged.evalSmoke.cfg = judged.cfg := rfl
      have hs : judged.evalSmoke.sup = judged.sup := rfl
      have k1 : judged.evalSmoke.smk.fault = judged.smk.fault ∧ judged.evalSmoke.smk.fluid = judged.smk.fluid
          ∧ judged.evalSmoke.smk.hot = judged.smk.hot ∧ judged.evalSmoke.smk.enable = judged.smk.enable
          ∧ judged.evalSmoke.smk.temp = judged.smk.temp := by rw [kept]; exact ⟨rfl, rfl, rfl, rfl, rfl⟩
      obtain ⟨k1, k2, k3, k4, k5⟩ := k1
      constructor <;> rw [k1] <;> first | rw [hl] | skip
      · exact r1
      · exact r2
      · rw [hs]; exact r3
      · rw [hs, k2]; exact r4
      · rw [hs, k2, k3]; exact r5
      · rw [hs, k2, k3, k4, k5, hc]; exact r6
    have vf : judged.evalSmoke.smk.fluid = s.smk.fluid ∧ judged.evalSmoke.smk.hlim = s.smk.hlim ∧ judged.evalSmoke.smk.temp = temp := by
      rw [kept]; exact jf
    have vc : judged.evalSmoke.cfg = s.cfg := jc
    generalize judged.evalSmoke = v at rank vf vc
    obtain ⟨v1, v2, v3⟩ := vf
    refine ⟨fun target h htg hh => ⟨fun hw => ?_, fun hr h2 => ?_⟩, fun hr h1 => ?_, fun hw hr => ?_⟩
    · have hd : heaterDemand v.cfg.smoke v.smk.target v.smk.temp = h := by
        refine heaterDemand_eq (rank.heated (.inl hw)).1 ?_
        rw [vc, v3, ← htg]
        exact hh
      rw [State.useFluid_other (by rw [hw]; decide)]
      unfold State.formHeater
      rw [hw, hd, v2]
    · have hd : heaterDemand v.cfg.smoke v.smk.target v.smk.temp = h := by
        refine heaterDemand_eq (rank.heated (.inr hr)).1 ?_
        rw [vc, v3, ← htg]
        exact hh
      rw [State.useFluid_some hr (by rw [v1]; exact h2)]
      unfold State.formHeater
      dsimp only
      rw [hr]
      dsimp only
      rw [hd, v2, v1]
    · have hset : v.smk.target = .set := by
        obtain ⟨g1, g2, g3, g4⟩ := rank.heated (.inr hr)
        have g5 : v.smk.fluid ≠ 0 := by rw [v1, h1]; decide
        have g6 : v.smk.hot = false := by
          cases ho : v.smk.hot with
          | false => rfl
          | true => exact absurd (rank.hot g2 g3 g4 g5 ho).2 g1
        obtain ⟨e1, e2, e3, e4⟩ := rank.enabled g2 g3 g4 g5 g6
        cases he : v.smk.enable with
        | true =>
          by_cases htv : v.cfg.smoke.tVapor ≤ v.smk.temp
          · exact (e3 he htv).2
          · exact (e4 he (by omega)).2
        | false =>
          cases hk : v.cfg.smoke.keepWarm with
          | true => exact absurd (hr.symm.trans (e2 he hk).1) (by decide)
          | false => exact absurd (e1 he hk).2 g1
      rw [hr, hset] at rank
      exact State.useFluid_dry rank hr (by rw [v1]; exact h1)
    · rw [State.useFluid_other hr]
      unfold State.formHeater
      cases hx : v.smk.state <;> first | rfl | exact absurd hx hw | exact absurd hx hr
  · show execKickEnd s = _
    unfold execKickEnd
    rw [hf]
    exact if_pos ⟨hk, hl⟩
  · exact if_pos (by rw [Option.isSome_iff_ne_none]; exact hf)
  · show execKickEnd s = _
    unfold execKickEnd
    rw [hf]
  · exact if_neg (by rw [hf]; decide)

end Sys2Proof.Machine
end

section
/-!
PROOF. The light unit's expiry (R151 to R155) and the radio link's edges (R159 to R161, R167).
-/
set_option Elab.async false

namespace Sys2Proof.Machine

/-! ### The flicker generator -/

theorem lfsrStep_low (g : BitVec 16) : (lfsrStep g).toNat % 32768 = g.toNat / 2 := by
  have h : (lfsrStep g).extractLsb' 0 15 = (g >>> 1).extractLsb' 0 15 := by
    ext i hi
    unfold lfsrStep
    simp only [BitVec.getElem_extractLsb', BitVec.getLsbD_or, BitVec.getLsbD_shiftLeft, Nat.zero_add]
    have : decide (i < 15) = true := by simpa using hi
    simp [this]
  have h2 := congrArg BitVec.toNat h
  simp only [BitVec.extractLsb'_toNat, BitVec.toNat_ushiftRight, Nat.shiftRight_eq_div_pow] at h2
  have hg := g.isLt
  omega

theorem lfsrStep_top (g : BitVec 16) : (lfsrStep g).getLsbD 15
    = ((g.getLsbD 0 ^^ g.getLsbD 2) ^^ (g.getLsbD 3 ^^ g.getLsbD 5)) := by
  unfold lfsrStep
  simp only [BitVec.getLsbD_or, BitVec.getLsbD_ushiftRight, BitVec.getLsbD_shiftLeft, BitVec.getLsbD_and, BitVec.getLsbD_xor]
  simp

/-! ### One output at an expiry -/

theorem State.lampActive_iff (s : State) (p : Program) : s.lampActive p = true ↔
    (p.binding = none ∨ ∃ n, p.binding = some n ∧ s.drq.functions.getLsbD n = true)
      ∧ (p.dirCond = .any ∨ (p.dirCond = .forward ∧ s.srg.bridgeDir = .forward) ∨ (p.dirCond = .reverse ∧ s.srg.bridgeDir = .reverse))
      ∧ (p.motion = .any ∨ (p.motion = .standingOnly ∧ s.srg.traction = .standing)
          ∨ (p.motion = .movingOnly ∧ s.srg.traction ≠ .standing)) := by
  have hb : p.bound s.drq.functions = true ↔
      (p.binding = none ∨ ∃ n, p.binding = some n ∧ s.drq.functions.getLsbD n = true) := by
    unfold Program.bound functionSet
    cases p.binding <;> simp
  have hd : p.dirCond.holds s.srg.bridgeDir = true ↔
      (p.dirCond = .any ∨ (p.dirCond = .forward ∧ s.srg.bridgeDir = .forward)
        ∨ (p.dirCond = .reverse ∧ s.srg.bridgeDir = .reverse)) := by
    cases p.dirCond <;> cases s.srg.bridgeDir <;> simp [DirCond.holds]
  have hm : p.motion.holds s.srg.traction = true ↔
      (p.motion = .any ∨ (p.motion = .standingOnly ∧ s.srg.traction = .standing)
          ∨ (p.motion = .movingOnly ∧ s.srg.traction ≠ .standing)) := by
    cases p.motion <;> simp [MotionCond.holds]
  unfold State.lampActive
  rw [Bool.and_eq_true, Bool.and_eq_true, hb, hd, hm, and_assoc]

theorem State.lampDimmed_iff (s : State) (p : Program) : s.lampDimmed p = true ↔
    ∃ n, p.dim = some n ∧ s.drq.functions.getLsbD n = true := by
  unfold State.lampDimmed functionSet
  cases p.dim <;> simp

/-- The parts of an output that its step does not form (R153, R154). -/
theorem Lamp.step_kept (p : Program) (l : Lamp) : (l.step p).active = l.active ∧ (l.step p).dimmed = l.dimmed
    ∧ (l.step p).phase = l.phase ∧ (l.step p).pwm = l.pwm := by
  unfold Lamp.step
  split <;> exact ⟨rfl, rfl, rfl, rfl⟩

theorem Lamp.step_fade (p : Program) (l : Lamp) (h : ∀ rise fall, p.effect ≠ .fade rise fall) : (l.step p).fade = l.fade := by
  unfold Lamp.step
  split
  · rename_i he; exact absurd he (h _ _)
  · rfl
  · rfl

theorem Lamp.step_flash (p : Program) (l : Lamp) (h : ∀ low flash, p.effect ≠ .chuffFlash low flash) :
    (l.step p).flash = l.flash := by
  unfold Lamp.step
  split
  · rfl
  · rename_i he; exact absurd he (h _ _)
  · rfl

theorem nextPhase_kept (p : Program) (n : Nat) (h : ∀ period on, p.effect ≠ .blink period on)
    (h' : ∀ q period, p.effect ≠ .alternate q period) : nextPhase p n = n := by
  unfold nextPhase
  split
  · rename_i he; exact absurd he (h _ _)
  · rename_i he; exact absurd he (h' _ _)
  · rfl

theorem fadeStep_cases (rise fall target v : Nat) :
    (v < target → fadeStep rise fall target v = if rise = 0 then target else min (v + rise) target)
    ∧ (target < v → fadeStep rise fall target v = if fall = 0 then target else max (v - fall) target)
    ∧ (v = target → fadeStep rise fall target v = target) := by
  unfold fadeStep
  refine ⟨fun h => if_pos h, fun h => ?_, fun h => ?_⟩
  · rw [if_neg (Nat.lt_asymm h), if_pos h]
  · rw [if_neg (by omega), if_neg (by omega), h]

/-- What an expiry makes of an output (R151 to R155), by its effect: `m` with effect value `v`, of an output `l` with program `p`. -/
structure LampShown (p : Program) (k : Fin 8) (cap n : Nat) (act dim : Prop) (l m : Lamp) (v : Nat) : Prop where
  active : m.active = true ↔ act
  dimmed : m.dimmed = true ↔ dim
  dims   : dim → m.program = v * p.dimLevel / 255
  plain  : ¬ dim → m.program = v
  level  : m.level = min m.program cap
  pwm    : m.pwm = l.pwm
  steady : p.effect = .steady → (act → v = p.level) ∧ (¬ act → v = 0)
  blink  : ∀ period on, p.effect = .blink period on → (act ∧ l.phase < on → v = p.level)
    ∧ (¬ (act ∧ l.phase < on) → v = 0) ∧ m.phase = (l.phase + 1) % period
  phase  : (∀ period on, p.effect ≠ .blink period on) → (∀ q period, p.effect ≠ .alternate q period) → m.phase = l.phase
  fade   : (∀ rise fall, p.effect ≠ .fade rise fall) → m.fade = l.fade
  flash  : (∀ low flash, p.effect ≠ .chuffFlash low flash) → m.flash = l.flash
  alternate : ∀ q period, p.effect = .alternate q period →
    (act ∧ k < q ∧ l.phase < period / 2 → v = p.level) ∧ (act ∧ k < q ∧ period / 2 ≤ l.phase → v = 0)
    ∧ (act ∧ q ≤ k ∧ period / 2 ≤ l.phase → v = p.level) ∧ (act ∧ q ≤ k ∧ l.phase < period / 2 → v = 0)
    ∧ (¬ act → v = 0) ∧ m.phase = (l.phase + 1) % period
  flicker : ∀ low, p.effect = .flicker low → (act → v = low + n * (p.level - low) / 256) ∧ (¬ act → v = 0)
  fades  : ∀ rise fall target, p.effect = .fade rise fall → (act → target = p.level) → (¬ act → target = 0) → v = m.fade
    ∧ (l.fade < target → v = if rise = 0 then target else min (l.fade + rise) target)
    ∧ (target < l.fade → v = if fall = 0 then target else max (l.fade - fall) target)
    ∧ (l.fade = target → v = target)
  flashes : ∀ low flash, p.effect = .chuffFlash low flash → m.flash = l.flash - 10
    ∧ (act → v = if 10 < l.flash then p.level else low) ∧ (¬ act → v = 0)

theorem State.lampExpiry_shown (s : State) (n : Nat) (k : Fin 8) {act dim : Prop}
    (ha : s.lampActive (s.cfg.lights.get k) = true ↔ act) (hd : s.lampDimmed (s.cfg.lights.get k) = true ↔ dim) :
    ∃ v, LampShown (s.cfg.lights.get k) k s.lgt.cap n act dim (s.lgt.lamps.get k) (s.lampExpiry n k) v := by
  unfold State.lampExpiry
  dsimp only
  generalize s.cfg.lights.get k = p at *
  generalize s.lgt.lamps.get k = l
  generalize s.lampActive p = a at *
  generalize s.lampDimmed p = d at *
  obtain ⟨k1, k2, k3, k4⟩ := Lamp.step_kept p { l with active := a, dimmed := d }
  have kf := Lamp.step_fade p { l with active := a, dimmed := d }
  have kl := Lamp.step_flash p { l with active := a, dimmed := d }
  have hf : ∀ rise fall, p.effect = .fade rise fall → (({ l with active := a, dimmed := d } : Lamp).step p).fade
      = fadeStep rise fall (if a then p.level else 0) l.fade := by
    intro rise fall he
    unfold Lamp.step
    rw [he]
  have hfl : ∀ low flash, p.effect = .chuffFlash low flash →
      (({ l with active := a, dimmed := d } : Lamp).step p).flash = l.flash - 10 := by
    intro low flash he
    unfold Lamp.step
    rw [he]
  generalize ({ l with active := a, dimmed := d } : Lamp).step p = l1 at *
  refine ⟨effectValue k n p l1, ?_⟩
  unfold effectValue nextPhase Lamp.show dimLevelOf
  dsimp only at *
  subst k1 k2
  rw [k3]
  exact {
    active := ha
    dimmed := hd
    dims := fun h => if_pos (hd.2 h)
    plain := fun h => if_neg (fun x => h (hd.1 x))
    level := rfl
    pwm := k4
    steady := fun he => by
      rw [he]
      exact ⟨fun h => if_pos (ha.2 h), fun h => if_neg (fun x => h (ha.1 x))⟩
    blink := fun period on he => by
      rw [he]
      exact ⟨fun h => if_pos ⟨ha.2 h.1, h.2⟩, fun h => if_neg (fun x => h ⟨ha.1 x.1, x.2⟩), rfl⟩
    phase := nextPhase_kept p l.phase
    fade := kf
    flash := kl
    alternate := fun q period he => by
      rw [he]
      refine ⟨fun ⟨h, h1, h2⟩ => ?_, fun ⟨h, h1, h2⟩ => ?_, fun ⟨h, h1, h2⟩ => ?_, fun ⟨h, h1, h2⟩ => ?_,
        fun h => if_neg (fun x => h (ha.1 x)), rfl⟩
      · exact (if_pos (ha.2 h)).trans ((if_pos h1).trans (if_pos h2))
      · exact (if_pos (ha.2 h)).trans ((if_pos h1).trans (if_neg (by omega)))
      · exact (if_pos (ha.2 h)).trans ((if_neg (by omega)).trans (if_pos h2))
      · exact (if_pos (ha.2 h)).trans ((if_neg (by omega)).trans (if_neg (by omega)))
    flicker := fun low he => by
      rw [he]
      exact ⟨fun h => if_pos (ha.2 h), fun h => if_neg (fun x => h (ha.1 x))⟩
    fades := fun rise fall target he h1 h0 => by
      have ht : (if l1.active then p.level else 0) = target := by
        by_cases h : act
        · rw [if_pos (ha.2 h), h1 h]
        · rw [if_neg (fun x => h (ha.1 x)), h0 h]
      have hv := hf rise fall he
      rw [ht] at hv
      rw [he]
      dsimp only
      rw [hv]
      exact ⟨rfl, fadeStep_cases rise fall target l.fade⟩
    flashes := fun low flash he => by
      have hv := hfl low flash he
      rw [he]
      dsimp only
      rw [hv]
      refine ⟨rfl, fun h => (if_pos (ha.2 h)).trans ?_, fun h => if_neg (fun x => h (ha.1 x))⟩
      by_cases h10 : 10 < l.flash
      · rw [if_pos h10, if_pos (by omega)]
      · rw [if_neg h10, if_neg (by omega)] }

/-- Settles O56: an expiry writes each output through `lampExpiry`. -/
theorem lampEffects : Obligations.LampEffects := by
  unfold Obligations.LampEffects
  intro s k p l active dimmed
  refine ⟨fun ht => ?_, ⟨rfl, fun h => ?_, fun h => ?_⟩, fun ht => ?_⟩
  · show execEffectTimer s = _
    unfold execEffectTimer
    rw [ht]
    rfl
  · show lampOnShare ((s.lgt.lamps.set k { l with pwm := l.level }).get k).pwm = _
    rw [Octet.get_set_self]
    have h2 : ¬ 255 ≤ l.level := by omega
    exact if_neg h2
  · show lampOnShare ((s.lgt.lamps.set k { l with pwm := l.level }).get k).pwm = _
    rw [Octet.get_set_self]
    exact if_pos h
  · obtain ⟨v, h⟩ := s.lampExpiry_shown (flickerValue (lfsrStep s.lgt.lfsr)) k (s.lampActive_iff p) (s.lampDimmed_iff p)
    refine ⟨s.effectExpiry, v, ?_, rfl, lfsrStep_low _, lfsrStep_top _, ?_⟩
    · show execEffectTimer s = _
      unfold execEffectTimer
      rw [ht]
      rfl
    · have hg : s.effectExpiry.lgt.lamps.get k = s.lampExpiry (flickerValue (lfsrStep s.lgt.lfsr)) k := Octet.get_ofFn _ k
      rw [hg]
      exact ⟨h.active, h.dimmed, h.dims, h.plain, h.level, h.pwm, h.steady, h.blink, h.phase, h.fade, h.flash, h.alternate,
        h.flicker, h.fades, h.flashes⟩

/-! ### The radio link's edges -/

theorem State.freeBuffer_discarded (s : State) (r : Rrx) (b : BufferId) (d : Discard) :
    ({ s with rrx := { r with discard := d } } : State).freeBuffer b = { s with rrx := { r.setBuffer b none with discard := d } } := by
  cases b <;> rfl

/-- A rising edge 50 µs or more after the previous end takes the first free buffer (R159). -/
theorem beginFrame_spec (r : Rrx) (time : Nat) :
    ((∀ e, r.lastEnd = some e → e + 50 ≤ time) →
      (r.buf1 = none → r.beginFrame time = { r.setBuffer .one (some []) with frame := some (.stored .one) })
      ∧ (r.buf1 ≠ none → r.buf2 = none → r.beginFrame time = { r.setBuffer .two (some []) with frame := some (.stored .two) })
      ∧ (r.buf1 ≠ none → r.buf2 ≠ none → r.beginFrame time = { r with frame := some .overrun }))
    ∧ (∀ e, r.lastEnd = some e → time < e + 50 → r.beginFrame time = { r with frame := some .overrun }) := by
  have hfree : (r.buf1 = none → r.freeBuffer = some .one) ∧ (r.buf1 ≠ none → r.buf2 = none → r.freeBuffer = some .two)
      ∧ (r.buf1 ≠ none → r.buf2 ≠ none → r.freeBuffer = none) := by
    unfold Rrx.freeBuffer
    cases r.buf1 <;> cases r.buf2 <;> simp
  obtain ⟨f1, f2, f3⟩ := hfree
  refine ⟨fun h => ?_, fun e he h => ?_⟩
  · have hs : ¬ r.tooSoon time = true := by
      unfold Rrx.tooSoon
      cases he : r.lastEnd with
      | none => simp
      | some e =>
        have := h e he
        have h2 : ¬ time < e + frameGap := Nat.not_lt.2 this
        simpa using h2
    unfold Rrx.beginFrame
    rw [if_neg hs]
    refine ⟨fun h1 => ?_, fun h1 h2 => ?_, fun h1 h2 => ?_⟩
    · rw [f1 h1]
    · rw [f2 h1 h2]
    · rw [f3 h1 h2]
  · have hs : r.tooSoon time = true := by
      unfold Rrx.tooSoon
      rw [he]
      exact decide_eq_true h
    unfold Rrx.beginFrame
    rw [if_pos hs]

theorem PartState.hearsFrames_of {p : PartState} (h : p = .running ∨ p = .stopping ∨ p = .halted) : p.hearsFrames = true := by
  obtain rfl | rfl | rfl := h <;> rfl

/-- The link checks in their order (R160). -/
theorem linkCheck_spec (bits : Nat) (bytes : List Byte) (l : Byte) (h : bytes.head? = some l) :
    (bits = 0 ∨ bits % 8 ≠ 0 → linkCheck bits bytes = some .runt)
    ∧ (bits ≠ 0 → bits % 8 = 0 → 264 ≤ bits → linkCheck bits bytes = some .long)
    ∧ (bits ≠ 0 → bits % 8 = 0 → bits ≤ 256 → l.toNat < 9 ∨ 25 < l.toNat ∨ bits ≠ 8 * (l.toNat + 1) →
        linkCheck bits bytes = some .length)
    ∧ (9 ≤ l.toNat → l.toNat ≤ 25 → bits = 8 * (l.toNat + 1) →
        let check := 256 * (bytes.getD (l.toNat - 2) 0).toNat + (bytes.getD (l.toNat - 1) 0).toNat
        (check = (crc16 (bytes.take (l.toNat - 2))).toNat → linkCheck bits bytes = none)
        ∧ (check ≠ (crc16 (bytes.take (l.toNat - 2))).toNat → linkCheck bits bytes = some .check)) := by
  have h0 : byteAt bytes 0 = l.toNat := by
    cases bytes with
    | nil => exact absurd h (by simp)
    | cons b bs =>
      have hb : b = l := Option.some.inj h
      rw [← hb]
      rfl
  unfold linkCheck
  dsimp only
  rw [h0]
  generalize l.toNat = n
  refine ⟨fun h => if_pos h, fun h1 h2 h3 => ?_, fun h1 h2 h3 h4 => ?_, fun h1 h2 h3 => ?_⟩
  · rw [if_neg (by omega), if_pos (by omega)]
  · rw [if_neg (by omega), if_neg (by omega), if_pos (by omega)]
  · have hbe : beHalfAt bytes (n - 2) = 256 * (bytes.getD (n - 2) 0).toNat + (bytes.getD (n - 1) 0).toNat := by
      have hn : n - 2 + 1 = n - 1 := by omega
      unfold beHalfAt
      rw [hn]
      rfl
    rw [if_neg (by omega), if_neg (by omega), if_neg (by omega), hbe]
    exact ⟨fun hc => if_neg (fun x => x hc.symm), fun hc => if_pos (fun x => hc x.symm)⟩

/-- Settles O57: each edge is `beginFrame` or `arrive`, and the checks are `linkCheck`'s. -/
theorem linkEvents : Obligations.LinkEvents := by
  unfold Obligations.LinkEvents
  refine ⟨fun s time bits bytes hscan => ?_, linkCheck_spec, by decide +kernel⟩
  intro begins overruns ended
  have harrive : ∀ f, s.rrx.frame = some f →
      exec (.frameArrival time bits bytes) s = finish ((s.endFrame time).arrive f bits bytes) := by
    intro f hf
    show execFrameArrival time bits bytes s = _
    unfold execFrameArrival
    rw [hf]
  have hquiet : ∀ r : Rrx, finish { s with rrx := r } = .next { s with rrx := r } :=
    fun r => finish_idle fun k hk => absurd (hscan.symm.trans hk) (by simp)
  refine ⟨fun hl => ?_, fun hl hf => ?_, fun hp => ⟨fun hf => ?_, fun b d hf hd => ?_⟩, fun hp => ⟨fun hf => ?_, fun b hf => ?_⟩,
    fun hf => ?_⟩
  · show execFrameBegin time s = _
    unfold execFrameBegin
    rw [if_neg (by rw [hl]; simp)]
  · have hx : exec (.frameBegin time) s = .next { s with rrx := s.rrx.beginFrame time } := by
      show execFrameBegin time s = _
      unfold execFrameBegin
      rw [if_pos ⟨hl, hf⟩]
    obtain ⟨h1, h2⟩ := beginFrame_spec s.rrx time
    refine ⟨fun e he ht => hx.trans (by rw [h2 e he ht]), fun h => ?_⟩
    obtain ⟨g1, g2, g3⟩ := h1 h
    exact ⟨fun b1 => hx.trans (by rw [g1 b1]), fun b1 b2 => hx.trans (by rw [g2 b1 b2]),
      fun b1 b2 => hx.trans (by rw [g3 b1 b2])⟩
  · rw [harrive _ hf]
    have ho : (s.endFrame time).arrive .overrun bits bytes = { s with rrx := { ended with discard := .overrun } } :=
      if_pos (PartState.hearsFrames_of hp)
    rw [ho, hquiet]
  · rw [harrive _ hf]
    have ho : (s.endFrame time).arrive (.stored b) bits bytes = { s with rrx := { ended.setBuffer b none with discard := d } } := by
      show (s.endFrame time).arriveStored b bits bytes = _
      unfold State.arriveStored
      rw [if_neg (by rw [show (s.endFrame time).exc.part = s.exc.part from rfl, PartState.hearsFrames_of hp]; simp), hd]
      exact s.freeBuffer_discarded ended b d
    rw [ho, hquiet]
  · rw [harrive _ hf]
    have ho : (s.endFrame time).arrive .overrun bits bytes = { s with rrx := ended } :=
      if_neg (by rw [show (s.endFrame time).exc.part = .adopting from hp]; simp [PartState.hearsFrames])
    rw [ho, hquiet]
  · rw [harrive _ hf]
    have ho : (s.endFrame time).arrive (.stored b) bits bytes = { s with rrx := ended.setBuffer b none } :=
      if_pos (by rw [show (s.endFrame time).exc.part = .adopting from hp]; rfl)
    rw [ho, hquiet]
  · show execFailsafeExpiry s = _
    unfold execFailsafeExpiry
    rw [if_pos (by rw [Option.isSome_iff_ne_none]; exact hf)]
    unfold State.freeHolder State.holderFreed
    dsimp only
    split <;> rfl

end Sys2Proof.Machine
end

section
/-!
PROOF. A change of supply state (R177) and what each block does at it: the duty limit, the stop at DARK, SND's share with its shedding
and its background request, and the entry to HALTED that ends STOPPING.
-/
set_option Elab.async false

namespace Sys2Proof.Machine

/-! ### Voices shed, with the squeal and the notice (R111, R115, R130) -/

/-- What the end of several voices does beside the voices themselves: VOICE_END latched if one of them is tagged, and a SOUNDING squeal
that loses its voice SPENT. -/
structure EndsTold (s t : State) (l : List (Fin 8)) : Prop where
  sound  : t.snd = { s.snd with
    voices := t.snd.voices, order := t.snd.order, endList := t.snd.endList, endCount := t.snd.endCount, squeal := t.snd.squeal }
  exc    : t.exc = { s.exc with nlat := t.exc.nlat }
  nlat   : t.exc.nlat = s.exc.nlat ||| if ∃ v ∈ l, (s.voice v).active = true ∧ (s.voice v).tag ≠ 0 then 0x10 else 0
  squeal : t.snd.squeal = if s.snd.squeal = .sounding ∧ ∃ v ∈ l, (s.voice v).active = true ∧ (s.voice v).tag = 0x8010 then .spent
    else s.snd.squeal

theorem State.endVoice_sound (s : State) (v : Fin 8) (reason : EndReason) : (s.endVoice v reason).snd = { s.snd with
    voices := (s.endVoice v reason).snd.voices, order := (s.endVoice v reason).snd.order,
    endList := (s.endVoice v reason).snd.endList, endCount := (s.endVoice v reason).snd.endCount,
    squeal := (s.endVoice v reason).snd.squeal } := by
  unfold State.endVoice State.recordEnd
  dsimp only
  split
  · split <;> rfl
  · rfl

theorem State.endVoice_told (s : State) (v : Fin 8) (reason : EndReason) : EndsTold s (s.endVoice v reason) [v] := by
  have hsound := s.endVoice_sound v reason
  cases ha : (s.voice v).active with
  | false =>
    rw [State.endVoice_free reason ha]
    exact ⟨rfl, rfl, by simp [ha], by simp [ha]⟩
  | true =>
    obtain ⟨he, -, -⟩ := State.endVoice_ended reason ha
    have hq := he.squeal
    by_cases ht : (s.voice v).tag = 0
    · obtain ⟨-, -, hx⟩ := he.untagged ht
      refine ⟨hsound, by rw [hx], by simp [hx, ht], ?_⟩
      rw [hq]
      simp [ht]
    · obtain ⟨-, hx, -⟩ := he.tagged ht
      refine ⟨hsound, by rw [hx], by
        rw [hx]
        simp only [List.mem_singleton, exists_eq_left]
        rw [if_pos ⟨ha, ht⟩], ?_⟩
      rw [hq]
      simp [ha, and_comm]

theorem notice_twice (n : BitVec 15) (p q : Prop) [Decidable p] [Decidable q] [Decidable (p ∨ q)] :
    (n ||| if p then 0x10 else 0) ||| (if q then 0x10 else 0) = n ||| if p ∨ q then 0x10 else 0 := by
  by_cases hp : p <;> by_cases hq : q <;> simp [hp, hq, BitVec.or_assoc]

theorem spent_twice (x : SquealState) (p q : Prop) [Decidable p] [Decidable q] [Decidable (p ∨ q)] :
    (if (if x = .sounding ∧ p then SquealState.spent else x) = .sounding ∧ q then .spent
      else if x = .sounding ∧ p then .spent else x) = if x = .sounding ∧ (p ∨ q) then .spent else x := by
  by_cases hx : x = .sounding <;> by_cases hp : p <;> by_cases hq : q <;> simp [hx, hp, hq]

theorem EndsTold.cons {s t u : State} {v : Fin 8} {l : List (Fin 8)} (h : EndsTold s t [v]) (h' : EndsTold t u l)
    (hv : ∀ w ∈ l, t.voice w = s.voice w) : EndsTold s u (v :: l) := by
  obtain ⟨a1, a2, a3, a4⟩ := h
  obtain ⟨b1, b2, b3, b4⟩ := h'
  have hn : (∃ w ∈ l, (t.voice w).active = true ∧ (t.voice w).tag ≠ 0)
      = (∃ w ∈ l, (s.voice w).active = true ∧ (s.voice w).tag ≠ 0) :=
    propext (exists_congr fun w => and_congr_right fun hw => by rw [hv w hw])
  have hq : (∃ w ∈ l, (t.voice w).active = true ∧ (t.voice w).tag = 0x8010)
      = (∃ w ∈ l, (s.voice w).active = true ∧ (s.voice w).tag = 0x8010) :=
    propext (exists_congr fun w => and_congr_right fun hw => by rw [hv w hw])
  simp only [hn, hq, List.mem_singleton, exists_eq_left] at a3 a4 b3 b4
  refine ⟨by rw [b1, a1], by rw [b2, a2], ?_, ?_⟩
  · rw [b3, a3]
    simp only [List.mem_cons, exists_eq_or_imp]
    exact notice_twice _ _ _
  · rw [b4, a4]
    simp only [List.mem_cons, exists_eq_or_imp]
    exact spent_twice _ _ _

theorem State.endVoices_told (reason : EndReason) (l : List (Fin 8)) (hn : l.Nodup) (s : State) :
    EndsTold s (State.endVoices reason l s) l := by
  induction l generalizing s with
  | nil => exact ⟨rfl, rfl, by simp [State.endVoices], by simp [State.endVoices]⟩
  | cons v rest ih =>
    obtain ⟨hv, hr⟩ := List.nodup_cons.mp hn
    exact (s.endVoice_told v reason).cons (ih hr _)
      fun w hw => (s.endVoice_others v reason).2.1 w fun e => hv (e ▸ hw)

/-- Starts that are not made, with no scan waiting (R109, R115, R130): a SOUNDING squeal among the requesters falls SILENT. -/
theorem State.handBackAll_unmade {o : StartOutcome} (ho : ∀ v, o ≠ .started v) (l : List StartReq) {s : State} (hs : s.exc.scan = none) :
    State.handBackAll o l s = { s with snd := { s.snd with
      squeal := if s.snd.squeal = .sounding ∧ ∃ q ∈ l, q.asker = .squeal then .silent else s.snd.squeal } } := by
  induction l generalizing s with
  | nil => simp [State.handBackAll]
  | cons r rest ih =>
    show State.handBackAll o rest (s.handBack r.asker o) = _
    by_cases hq : r.asker = .squeal
    · have e : s.handBack r.asker o
          = { s with snd := { s.snd with squeal := if s.snd.squeal = .sounding then .silent else s.snd.squeal } } := by
        rw [hq]
        cases o with
        | started v => exact absurd rfl (ho v)
        | refused _ | withdrawn => rfl
      rw [e, ih (by exact hs)]
      by_cases h0 : s.snd.squeal = .sounding
      · simp [h0, hq]
      · simp [h0]
    · have e : s.handBack r.asker o = s := by
        by_cases hc : r.asker = .playCue
        · have : s.handBack r.asker o = { s with exc := { s.exc with scan := none } } := by
            rw [hc]
            unfold State.handBack
            rw [hs]
            rfl
          rw [this, ← hs]
        · exact State.handBack_other _ hc hq
      rw [e, ih hs]
      simp [hq]

/-- A shedding (R115) beside the voices and the starts: the notice, the squeal, and nothing else. -/
structure ShedTold (s t : State) : Prop where
  only   : t = { s with exc := { s.exc with nlat := t.exc.nlat }, snd := t.snd }
  sound  : t.snd = { s.snd with
    voices := t.snd.voices, order := t.snd.order, queue := t.snd.queue, current := t.snd.current, endList := t.snd.endList,
    endCount := t.snd.endCount, squeal := t.snd.squeal }
  nlat   : t.exc.nlat = s.exc.nlat ||| if ∃ v, (s.voice v).active = true ∧ (s.voice v).tag ≠ 0 then 0x10 else 0
  squeal : t.snd.squeal =
    if s.snd.squeal = .sounding ∧ ∃ v, (s.voice v).active = true ∧ (s.voice v).tag = 0x8010 then .spent
    else if s.snd.squeal = .sounding ∧ ∃ q ∈ s.snd.queue, q.asker = .squeal then .silent else s.snd.squeal

theorem State.shedVoices_told {s : State} (hs : s.exc.scan = none) : ShedTold s s.shedVoices := by
  have hall : ∀ v : Fin 8, v ∈ octetIndices := by decide
  have only := s.shedVoices_soundOnly
  obtain ⟨a1, a2, a3, a4⟩ := State.endVoices_told .shed octetIndices (by decide) s
  obtain ⟨aq, -⟩ := (State.endVoices_ended .shed octetIndices (by decide) s).starts
  simp only [hall, true_and] at a3 a4
  generalize hu : State.endVoices .shed octetIndices s = u at a1 a2 a3 a4 aq
  have hsu : u.exc.scan = none := by rw [a2]; exact hs
  have e : s.shedVoices = { u with snd := { u.snd with
      queue := [], current := u.snd.current.map fun w => { w with doomed := true },
      squeal := if u.snd.squeal = .sounding ∧ ∃ q ∈ u.snd.queue, q.asker = .squeal then .silent else u.snd.squeal } } := by
    unfold State.shedVoices
    dsimp only
    rw [hu]
    exact State.handBackAll_unmade (o := .refused .inactive) (by simp) _ hsu
  generalize s.shedVoices = t at only e
  have texc : t.exc = u.exc := by rw [e]
  have tsnd := congrArg State.snd e
  dsimp only at tsnd
  refine ⟨?_, ?_, by rw [texc, a3], ?_⟩
  · have h2 := only
    unfold soundOnly at h2
    rw [texc] at h2 ⊢
    rw [show u.exc.scan = s.exc.scan from hsu.trans hs.symm] at h2
    exact h2
  · rw [tsnd, a1]
  · rw [tsnd]
    dsimp only
    rw [a4, aq]
    by_cases h1 : s.snd.squeal = .sounding ∧ ∃ v, (s.voice v).active = true ∧ (s.voice v).tag = 0x8010
    · rw [if_pos h1, if_neg (by simp), if_pos h1]
    · rw [if_neg h1, if_neg h1]

theorem VoicesShed.silent {s t : State} (h : VoicesShed s t) (v : Fin 8) : (t.voice v).active = false := by
  rw [h.voices v]
  cases ha : (s.voice v).active with
  | true => rfl
  | false => exact ha

/-- A shedding that finds no voice active and no start waiting. -/
theorem State.shedVoices_quiet {s : State} (hv : ∀ v, (s.voice v).active = false) (hq : s.snd.queue = []) :
    s.shedVoices = { s with snd := { s.snd with
      queue := [], current := s.snd.current.map fun w => { w with doomed := true } } } := by
  have none (l : List (Fin 8)) : State.endVoices .shed l s = s := by
    induction l with
    | nil => rfl
    | cons v rest ih =>
      show State.endVoices .shed rest (s.endVoice v .shed) = s
      rw [State.endVoice_free .shed (hv v)]
      exact ih
  unfold State.shedVoices
  dsimp only
  rw [none, hq]
  rfl

/-- Voices shed once more: nothing is left to shed. -/
theorem VoicesShed.again {s t u : State} (h : VoicesShed s t) (hu : u.snd = { t.snd with
      queue := [], current := t.snd.current.map fun w => { w with doomed := true }, squeal := u.snd.squeal,
      squealCount := u.snd.squealCount, squealDue := u.snd.squealDue, cap := u.snd.cap })
    (hn : Latched t u) : VoicesShed s u := by
  obtain ⟨h1, ⟨-, h2⟩, l, h3, h4, h5, h6⟩ := h
  refine ⟨fun v => ?_, ⟨by rw [hu], ?_⟩, l, h3, by rw [hu]; exact h4, fun hl => hn _ (h5 hl), by rw [hu]; exact h6⟩
  · rw [← h1]
    unfold State.voice
    rw [hu]
  · rw [hu]
    dsimp only
    rw [h2]
    cases s.snd.current <;> rfl

end Sys2Proof.Machine
end

section
/-!
PROOF. A change of supply state (R177) and what each block does at it: the duty limit, the stop at DARK, SND's share with its shedding
and its background request, and the entry to HALTED that ends STOPPING.
-/
set_option Elab.async false

namespace Sys2Proof.Machine

/-! ### The new state and the duties (R51) -/

/-- The supply state taken, SUPPLY_CHANGE latched, and the duties cut to the new limit (R51, R177). -/
def State.supplyLimited (s : State) (x : Supply) : State :=
  ({ s with sup := { s.sup with state := x } }.latch .supplyChange).limitDuty

/-- The base limit in a supply state (R51). -/
def State.baseIn (s : State) (x : Supply) : Nat :=
  match x with
  | .normal => s.cfg.traction.dmax
  | .lean => s.cfg.traction.dmax
  | .holdup => min s.cfg.traction.dmax s.cfg.power.holdDmax
  | .dark => 0

/-- The duty limit of a motor in a supply state (R51, R82). -/
def State.limitIn (s : State) (x : Supply) (m : Motor) : Nat :=
  if s.bfu.slip = .slipping ∧ s.bfu.faster = some m then s.baseIn x * (100 - s.cfg.traction.slipCut) / 100 else s.baseIn x

theorem State.supplyLimited_spec (s : State) (x : Supply) :
    s.supplyLimited x = { s with
      sup := { s.sup with state := x }, exc := { s.exc with nlat := s.exc.nlat ||| 0x2000 },
      srg := { s.srg with motors := (s.supplyLimited x).srg.motors }, bfu := { s.bfu with chans := (s.supplyLimited x).bfu.chans } }
    ∧ ∀ m, (s.supplyLimited x).srg.motors.get m
        = { s.srg.motors.get m with d := min (s.srg.motors.get m).d (s.limitIn x m) }
      ∧ (s.supplyLimited x).chan m = (s.chan m).hand s.cfg.traction (min (s.srg.motors.get m).d (s.limitIn x m)) := by
  refine ⟨rfl, fun m => ?_⟩
  obtain ⟨-, h⟩ := State.limitDuty_spec ({ s with sup := { s.sup with state := x } }.latch .supplyChange)
  have e : ({ s with sup := { s.sup with state := x } }.latch .supplyChange).dutyLimit s.cfg.traction m = s.limitIn x m := by
    have hb := State.baseLimit_eq ({ s with sup := { s.sup with state := x } }.latch .supplyChange) s.cfg.traction
    unfold State.dutyLimit State.limitIn
    rw [hb]
    cases x <;> rfl
  have h' := h m
  have hcfg : ({ s with sup := { s.sup with state := x } }.latch .supplyChange).cfg.traction = s.cfg.traction := rfl
  rw [hcfg, e] at h'
  exact h'

theorem State.limitIn_dark (s : State) (m : Motor) : s.limitIn .dark m = 0 := by
  unfold State.limitIn
  split
  · exact (congrArg (· / 100) (Nat.zero_mul _)).trans (Nat.zero_div _)
  · rfl

/-! ### SND's share in NORMAL, LEAN and HOLDUP (R113, R127) -/

/-- The supply state and the voices ask for the background clip (R127). -/
def State.asksBackground (s : State) : Prop :=
  (s.sup.state = .normal ∨ s.sup.state = .lean) ∧ s.exc.part.driving = true ∧ (s.voice 1).active = false
    ∧ (∀ r ∈ s.snd.queue, r.cls ≠ .background) ∧ (∀ w, s.snd.current = some w → w.req.cls ≠ .background)

theorem State.backgroundWaiting_iff (s : State) : s.backgroundWaiting = false ↔
    (∀ r ∈ s.snd.queue, r.cls ≠ .background) ∧ (∀ w, s.snd.current = some w → w.req.cls ≠ .background) := by
  unfold State.backgroundWaiting
  rw [Bool.or_eq_false_iff, List.any_eq_false]
  refine and_congr (by simp) ?_
  cases s.snd.current <;> simp

/-- The BACKGROUND start of R127. -/
def State.backgroundStart (s : State) (clip : Nat) : StartReq :=
  { cls := .background, asker := .background, clip := clip, pitch := 256, volume := s.cfg.sound.bgVolume, priority := 0, tag := 0,
    loop := true }

/-- The background request, and what it depends on (R101, R127). -/
theorem State.requestBackground_spec (s : State) :
    (∀ clip, s.cfg.sound.bgClip = some clip → s.snd.queue.length < 32 → s.requestBackground = { s with snd := { s.snd with
      queue := s.snd.queue ++ [s.backgroundStart clip] } })
    ∧ (s.cfg.sound.bgClip = none ∨ 32 ≤ s.snd.queue.length → s.requestBackground = s) := by
  unfold State.requestBackground
  refine ⟨fun clip h hl => ?_, fun h => ?_⟩
  · rw [h]
    exact if_neg (by omega)
  · cases hc : s.cfg.sound.bgClip with
    | none => rfl
    | some c =>
      have hl : 32 ≤ s.snd.queue.length := h.resolve_left (by rw [hc]; simp)
      exact if_pos hl

theorem State.supplyBackground_spec (s : State) :
    s.supplyBackground = { s with snd := { s.snd with queue := s.supplyBackground.snd.queue } }
    ∧ (∀ clip, s.asksBackground → s.cfg.sound.bgClip = some clip → s.snd.queue.length < 32 →
      s.supplyBackground.snd.queue = s.snd.queue ++ [s.backgroundStart clip])
    ∧ (¬ s.asksBackground ∨ s.cfg.sound.bgClip = none ∨ 32 ≤ s.snd.queue.length → s.supplyBackground.snd.queue = s.snd.queue) := by
  have hi : (s.sup.state.good = true ∧ s.exc.part.driving = true ∧ (s.voice 1).active = false ∧ s.backgroundWaiting = false)
      ↔ s.asksBackground := by
    unfold State.asksBackground
    rw [State.backgroundWaiting_iff]
    refine and_congr ?_ Iff.rfl
    cases s.sup.state <;> simp [Supply.good]
  obtain ⟨r1, r2⟩ := s.requestBackground_spec
  by_cases ha : s.asksBackground
  · have e : s.supplyBackground = s.requestBackground := if_pos (hi.2 ha)
    rw [e]
    cases hc : s.cfg.sound.bgClip with
    | none =>
      rw [r2 (.inl hc)]
      exact ⟨rfl, fun _ _ h => (nomatch h), fun _ => rfl⟩
    | some c =>
      by_cases hl : 32 ≤ s.snd.queue.length
      · rw [r2 (.inr hl)]
        exact ⟨rfl, fun _ _ _ h => absurd h (by omega), fun _ => rfl⟩
      · rw [r1 c hc (by omega)]
        exact ⟨rfl, fun _ _ h _ => by cases h; rfl, fun h => (h.resolve_left (Classical.not_not.2 ha)).elim (fun h => (nomatch h)) (absurd · hl)⟩
  · have e : s.supplyBackground = s := if_neg (fun x => ha (hi.1 x))
    rw [e]
    exact ⟨rfl, fun _ h => absurd h ha, fun _ => rfl⟩

/-! ### SMK's and LGT's shares (R136, R156) -/

/-- SMK's share where it acts on events, and LGT's (R136, R156). -/
def State.supplyLast (s : State) : State := (if s.smokeActs then s.evalSmoke else s).recomputeLampCap

/-- An evaluation of the smoke state looks at few fields (R136). -/
theorem SmokeEvaluated.of {s t u v : State} (h : SmokeEvaluated s t) (hs : u.smk = s.smk) (hc : u.cfg = s.cfg) (hp : u.sup = s.sup)
    (hh : u.haltedLike = s.haltedLike) (hv : v = { u with smk := t.smk }) : SmokeEvaluated u v := by
  have hvs : v.smk = t.smk := by rw [hv]
  obtain ⟨k1, k2, k3, k4, k5, k6⟩ := h.ranked
  refine ⟨⟨?_, ?_, ?_, ?_, ?_, ?_⟩, by rw [hv], ?_, ?_, ?_, ?_⟩
  · rw [hs, hvs]; exact k1
  · rw [hs, hvs, hh]; exact k2
  · rw [hs, hvs, hh, hp]; exact k3
  · rw [hs, hvs, hh, hp]; exact k4
  · rw [hs, hvs, hh, hp]; exact k5
  · rw [hs, hvs, hh, hp, hc]; exact k6
  · rw [hs, hvs, hc]; exact h.ready
  · rw [hs, hvs]; exact h.other
  · rw [hs, hvs]; exact h.target
  · rw [hs, hvs]
    intro a b
    rw [hv, h.same a b, ← hs]

theorem State.supplyLast_spec (s : State) :
    s.supplyLast = { s with smk := s.supplyLast.smk, lgt := s.supplyLast.lgt }
    ∧ (s.smokeActs = true → SmokeEvaluated s { s with smk := s.supplyLast.smk })
    ∧ (s.smokeActs = false → s.supplyLast.smk = s.smk)
    ∧ s.supplyLast.lgt = { s.lgt with lamps := s.supplyLast.lgt.lamps, cap := s.lampCap }
    ∧ ∀ k, s.supplyLast.lgt.lamps.get k
      = { s.lgt.lamps.get k with level := min (s.lgt.lamps.get k).program s.lampCap } := by
  have lamps (u : State) (k : Fin 8) : u.recomputeLampCap.lgt.lamps.get k
      = { u.lgt.lamps.get k with level := min (u.lgt.lamps.get k).program u.lampCap } := Octet.get_map _ _ k
  unfold State.supplyLast
  cases ha : s.smokeActs with
  | true =>
    have e : (if true = true then s.evalSmoke else s) = s.evalSmoke := rfl
    rw [e]
    exact ⟨rfl, fun _ => s.evalSmoke_spec.of rfl rfl rfl rfl rfl, fun h => (nomatch h), rfl, lamps s.evalSmoke⟩
  | false =>
    have e : (if false = true then s.evalSmoke else s) = s := rfl
    rw [e]
    exact ⟨rfl, fun h => (nomatch h), fun _ => rfl, rfl, lamps s⟩

/-- The lamp cap in a supply state (R155). -/
def State.lampCapIn (s : State) (x : Supply) : Nat :=
  if s.haltedLike then 0 else match x with
    | .normal => 255
    | .lean => 255
    | .holdup => s.cfg.power.holdLamp
    | .dark => 0

theorem State.lampCap_eq (s : State) : s.lampCap = s.lampCapIn s.sup.state := by
  unfold State.lampCap State.lampCapIn
  cases s.sup.state <;> rfl

theorem State.supplyChange_eq (s : State) (x : Supply) : s.supplyChange x
    = (if x = .dark then (s.supplyLimited x).darkStop else s.supplyLimited x).supplySound.supplyLast.endStopping := rfl

/-! ### A change to another state than DARK -/

/-- What a change of supply state to another than DARK makes of a part in which it does not end STOPPING (R177). -/
structure SupplyChanged (s t : State) (x : Supply) : Prop where
  only   : t = { s with
    sup := { s.sup with state := x }, exc := { s.exc with nlat := s.exc.nlat ||| 0x2000 }, srg := { s.srg with motors := t.srg.motors },
    bfu := { s.bfu with chans := t.bfu.chans }, snd := { s.snd with cap := t.snd.cap, queue := t.snd.queue },
    smk := t.smk, lgt := t.lgt }
  duties : ∀ m, t.srg.motors.get m = { s.srg.motors.get m with d := min (s.srg.motors.get m).d (s.limitIn x m) }
    ∧ DutyHanded s.cfg.traction (s.chan m) (t.chan m) (min (s.srg.motors.get m).d (s.limitIn x m))
  cap    : t.snd.cap = min (supplyCap s.cfg.power x) (if s.snd.mute then 0 else 255)
  asks   : ∀ clip, ({ s with sup := { s.sup with state := x } } : State).asksBackground → s.cfg.sound.bgClip = some clip →
    s.snd.queue.length < 32 → t.snd.queue = s.snd.queue ++ [s.backgroundStart clip]
  quiet  : ¬ ({ s with sup := { s.sup with state := x } } : State).asksBackground ∨ s.cfg.sound.bgClip = none
    ∨ 32 ≤ s.snd.queue.length → t.snd.queue = s.snd.queue
  smoke  : s.smokeActs = true → SmokeEvaluated { s with sup := t.sup } { s with sup := t.sup, smk := t.smk }
  still  : s.smokeActs = false → t.smk = s.smk
  lamps  : t.lgt = { s.lgt with lamps := t.lgt.lamps, cap := t.lgt.cap }
    ∧ t.lgt.cap = s.lampCapIn x
    ∧ ∀ k, t.lgt.lamps.get k = { s.lgt.lamps.get k with level := min (s.lgt.lamps.get k).program t.lgt.cap }

theorem State.supplied_changed (s : State) {x : Supply} (hx : x ≠ .dark) :
    SupplyChanged s (s.supplyLimited x).supplySound.supplyLast x := by
  obtain ⟨l1, l2⟩ := s.supplyLimited_spec x
  generalize s.supplyLimited x = u at l1 l2
  have e : u.supplySound = u.recomputeCap.supplyBackground := by
    have : u.recomputeCap.sup.state ≠ .dark := by rw [l1]; exact hx
    exact if_neg this
  have hcap : u.recomputeCap.snd.cap = min (supplyCap s.cfg.power x) (muteCap s.snd.mute) := by rw [l1]; rfl
  obtain ⟨b1, b2, b3⟩ := u.recomputeCap.supplyBackground_spec
  rw [e]
  generalize hw : u.recomputeCap.supplyBackground = w at b1 b2 b3
  have hw' : w = { s with
      sup := { s.sup with state := x }, exc := { s.exc with nlat := s.exc.nlat ||| 0x2000 }, srg := { s.srg with motors := u.srg.motors },
      bfu := { s.bfu with chans := u.bfu.chans }, snd := { s.snd with cap := u.recomputeCap.snd.cap, queue := w.snd.queue } } := by
    refine b1.trans ?_
    have : u.recomputeCap = { u with snd := { u.snd with cap := u.recomputeCap.snd.cap } } := rfl
    rw [this, l1]
  have asks : u.recomputeCap.asksBackground ↔ ({ s with sup := { s.sup with state := x } } : State).asksBackground := by
    have : u.recomputeCap = { u with snd := { u.snd with cap := u.recomputeCap.snd.cap } } := rfl
    rw [this, l1]
    exact Iff.rfl
  have hq : u.recomputeCap.snd.queue = s.snd.queue := by rw [show u.recomputeCap.snd.queue = u.snd.queue from rfl, l1]
  have hc : u.recomputeCap.cfg = s.cfg := by rw [show u.recomputeCap.cfg = u.cfg from rfl, l1]
  have hb : ∀ clip, u.recomputeCap.backgroundStart clip = s.backgroundStart clip := fun clip => by
    unfold State.backgroundStart
    rw [hc]
  simp only [hb] at b2
  rw [asks, hq, hc] at b2 b3
  obtain ⟨v1, v2, v3, v4, v5⟩ := w.supplyLast_spec
  generalize w.supplyLast = t at v1 v2 v3 v4 v5
  have ha : w.smokeActs = s.smokeActs := by rw [hw']; rfl
  have hh : w.haltedLike = s.haltedLike := by rw [hw']; rfl
  have hl : w.lampCap = s.lampCapIn x := by
    rw [w.lampCap_eq]
    unfold State.lampCapIn
    rw [hh]
    have e1 : w.sup.state = x := by rw [hw']
    have e2 : w.cfg = s.cfg := by rw [hw']
    rw [e1, e2]
  have wsnd := congrArg State.snd hw'
  have wlgt : w.lgt = s.lgt := by rw [hw']
  have tsnd : t.snd = w.snd := by rw [v1]
  have tsup : t.sup = { s.sup with state := x } := by rw [v1, hw']
  exact {
    only := by
      have e1 : t.srg.motors = u.srg.motors := by rw [v1, hw']
      have e2 : t.bfu.chans = u.bfu.chans := by rw [v1, hw']
      rw [e1, e2, tsnd, wsnd]
      refine v1.trans ?_
      rw [hw']
    duties := fun m => by
      obtain ⟨d1, d2⟩ := l2 m
      have e1 : t.srg.motors = u.srg.motors := by rw [v1, hw']
      have e2 : t.chan m = u.chan m := congrArg (fun c => PerMotor.get c m) (by rw [v1, hw'] : t.bfu.chans = u.bfu.chans)
      rw [e1, e2]
      exact ⟨d1, d2 ▸ Channel.hand_spec _ _ _⟩
    cap := by
      rw [tsnd, wsnd]
      exact hcap
    asks := fun clip h1 h2 h3 => by rw [tsnd]; exact b2 clip h1 h2 h3
    quiet := fun h => by rw [tsnd]; exact b3 h
    smoke := fun h => (v2 (ha.trans h)).of (by rw [hw']) (by rw [hw']) (by rw [tsup, hw']) hh.symm rfl
    still := fun h => (v3 (ha.trans h)).trans (by rw [hw'])
    lamps := by
      rw [hl] at v4 v5
      rw [wlgt] at v4 v5
      have hcap : t.lgt.cap = _ := congrArg Lgt.cap v4
      refine ⟨by rw [hcap]; exact v4, hcap, fun k => by rw [hcap]; exact v5 k⟩ }

end Sys2Proof.Machine
end

section
/-!
PROOF. The entry to DARK (R61, R115, R136, R156, R177), and the entry to HALTED that ends STOPPING at a change of supply state (R12, R13).
-/
set_option Elab.async false

namespace Sys2Proof.Machine

/-! ### SRG, BFU and CHK at an entry to DARK (R61) -/

/-- SRG at entry to DARK, without its report (R61). -/
def State.darkRest (s : State) : State :=
  match s.srg.traction with
  | .eHeld => s
  | .tripped => s
  | .standing => { s with srg := { s.srg with r := 0 } }.stopTurn
  | _ => { s with srg := { s.srg with r := 0 } }.stopTurn.toStanding

theorem State.darkStop_eq (s : State) : s.darkStop = if s.srg.traction.ends then s.darkRest else s.darkRest.endStopping := by
  unfold State.darkStop State.darkRest
  cases s.srg.traction <;> rfl

/-- The drive as an entry to DARK leaves it (R61, R83, R92). -/
structure DriveDark (s t : State) : Prop where
  only    : t = { s with
    sup := { s.sup with state := .dark }, exc := { s.exc with nlat := s.exc.nlat ||| 0x2000 }, srg := t.srg, bfu := t.bfu, chk := t.chk }
  rests   : s.srg.traction ≠ .eHeld → s.srg.traction ≠ .tripped → t.srg = { s.srg with
    traction := .standing, r := 0, turnTimer := none, turnMark := false, motors := t.srg.motors }
  latched : s.srg.traction = .eHeld ∨ s.srg.traction = .tripped → t.srg = { s.srg with motors := t.srg.motors }
  duties  : ∀ m, t.srg.motors.get m = (if s.srg.traction.ends then { s.srg.motors.get m with d := 0 }
      else { s.srg.motors.get m with i := 0, sat := .zero, d := 0 })
    ∧ (t.chan m).duty = 0 ∧ (t.chan m).raised = none ∧ (t.chan m).dir = (s.chan m).dir
    ∧ (s.srg.traction.ends = false → s.bfu.window = none → (t.chan m).mode = .off)
  stands  : s.srg.traction.ends = false → t.chk = { s.chk with acc := 65535, next := 0, first := true }
    ∧ t.bfu = { s.bfu with chans := t.bfu.chans, slip := .normal, slipRun := 0, faster := none }
  stood   : s.srg.traction.ends = true → t.chk = s.chk ∧ t.bfu = { s.bfu with chans := t.bfu.chans }

theorem State.darkLimited_spec (s : State) :
    s.supplyLimited .dark = { s with
      sup := { s.sup with state := .dark }, exc := { s.exc with nlat := s.exc.nlat ||| 0x2000 },
      srg := { s.srg with motors := (s.supplyLimited .dark).srg.motors },
      bfu := { s.bfu with chans := (s.supplyLimited .dark).bfu.chans } }
    ∧ ∀ m, (s.supplyLimited .dark).srg.motors.get m = { s.srg.motors.get m with d := 0 }
      ∧ ((s.supplyLimited .dark).chan m).duty = 0 ∧ ((s.supplyLimited .dark).chan m).raised = none
      ∧ ((s.supplyLimited .dark).chan m).dir = (s.chan m).dir := by
  obtain ⟨h1, h2⟩ := s.supplyLimited_spec .dark
  refine ⟨h1, fun m => ?_⟩
  obtain ⟨d1, d2⟩ := h2 m
  rw [s.limitIn_dark, Nat.min_zero] at d1 d2
  obtain ⟨k1, k2, k3, -⟩ := Channel.hand_zero s.cfg.traction (s.chan m)
  rw [d2]
  exact ⟨d1, k1, k2, k3⟩

theorem State.driveDark_rested (s : State) (ht : s.srg.traction = .eHeld ∨ s.srg.traction = .tripped) :
    DriveDark s (s.supplyLimited .dark).darkRest := by
  obtain ⟨h1, h2⟩ := s.darkLimited_spec
  generalize s.supplyLimited .dark = u at h1 h2
  have hu : u.srg.traction = s.srg.traction := by rw [h1]
  have e : u.darkRest = u := by
    unfold State.darkRest
    rw [hu]
    obtain h | h := ht <;> rw [h]
  have he : s.srg.traction.ends = true := by obtain h | h := ht <;> rw [h] <;> rfl
  rw [e]
  refine ⟨?_, fun a b => absurd ht (by simp [a, b]), fun _ => congrArg State.srg h1, fun m => ?_, fun h => absurd he (by simp [h]), fun _ => ?_⟩
  · have e1 : u.srg = _ := congrArg State.srg h1
    have e2 : u.bfu = _ := congrArg State.bfu h1
    have e3 : u.chk = s.chk := by rw [h1]
    rw [e1, e2, e3]
    exact h1
  · obtain ⟨d1, d2, d3, d4⟩ := h2 m
    rw [if_pos he]
    exact ⟨d1, d2, d3, d4, fun h => absurd he (by simp [h])⟩
  · exact ⟨by rw [h1], congrArg State.bfu h1⟩

theorem State.driveDark_standing (s : State) (ht : s.srg.traction = .standing) : DriveDark s (s.supplyLimited .dark).darkRest := by
  obtain ⟨h1, h2⟩ := s.darkLimited_spec
  generalize s.supplyLimited .dark = u at h1 h2
  have hu : u.srg.traction = s.srg.traction := by rw [h1]
  have e : u.darkRest = ({ u with srg := { u.srg with r := 0 } } : State).stopTurn := by
    unfold State.darkRest
    rw [hu, ht]
  have he : s.srg.traction.ends = true := by rw [ht]; rfl
  have esrg : u.srg = _ := congrArg State.srg h1
  rw [e]
  refine ⟨?_, fun _ _ => ?_, fun a => absurd a (by simp [ht]), fun m => ?_, fun h => absurd he (by simp [h]), fun _ => ?_⟩
  · have e2 : u.bfu = _ := congrArg State.bfu h1
    have e3 : u.chk = s.chk := by rw [h1]
    show ({ u with srg := { u.srg with r := 0, turnTimer := none, turnMark := false } } : State) = { s with
      sup := { s.sup with state := .dark }, exc := { s.exc with nlat := s.exc.nlat ||| 0x2000 },
      srg := { u.srg with r := 0, turnTimer := none, turnMark := false }, bfu := u.bfu, chk := u.chk }
    rw [h1]
  · show ({ u.srg with r := 0, turnTimer := none, turnMark := false } : Srg) = { s.srg with
      traction := .standing, r := 0, turnTimer := none, turnMark := false, motors := u.srg.motors }
    rw [esrg, ← ht]
  · obtain ⟨d1, d2, d3, d4⟩ := h2 m
    rw [if_pos he]
    exact ⟨d1, d2, d3, d4, fun h => absurd he (by simp [h])⟩
  · have e2 : u.bfu = _ := congrArg State.bfu h1
    have e3 : u.chk = s.chk := by rw [h1]
    exact ⟨e3, e2⟩

theorem State.driveDark_driven (s : State) (ht : s.srg.traction.ends = false) : DriveDark s (s.supplyLimited .dark).darkRest := by
  obtain ⟨h1, h2⟩ := s.darkLimited_spec
  generalize s.supplyLimited .dark = u at h1 h2
  have hu : u.srg.traction = s.srg.traction := by rw [h1]
  have e : u.darkRest = ({ u with srg := { u.srg with r := 0 } } : State).stopTurn.toStanding := by
    unfold State.darkRest
    rw [hu]
    cases hs : s.srg.traction with
    | moving => rfl
    | turning => rfl
    | eBrake => rfl
    | standing => rw [hs] at ht; exact absurd ht (by decide)
    | eHeld => rw [hs] at ht; exact absurd ht (by decide)
    | tripped => rw [hs] at ht; exact absurd ht (by decide)
  obtain ⟨w, hw⟩ : ∃ w, ({ u with srg := { u.srg with r := 0 } } : State).stopTurn = w := ⟨_, rfl⟩
  have wsrg : w.srg = { s.srg with r := 0, turnTimer := none, turnMark := false, motors := u.srg.motors } := by
    rw [← hw]
    show ({ u.srg with r := 0, turnTimer := none, turnMark := false } : Srg) = _
    have esrg : u.srg = _ := congrArg State.srg h1
    rw [esrg]
  have wbfu : w.bfu = { s.bfu with chans := u.bfu.chans } := by
    have e2 : u.bfu = _ := congrArg State.bfu h1
    rw [← hw]
    exact e2
  have wchk : w.chk = s.chk := by
    have e3 : u.chk = s.chk := by rw [h1]
    rw [← hw]
    exact e3
  have wchan : ∀ m, w.chan m = u.chan m := fun m => by rw [← hw]; rfl
  have wonly : w = { s with
      sup := { s.sup with state := .dark }, exc := { s.exc with nlat := s.exc.nlat ||| 0x2000 }, srg := w.srg, bfu := w.bfu,
      chk := w.chk } := by
    rw [← hw]
    show ({ u with srg := { u.srg with r := 0, turnTimer := none, turnMark := false } } : State) = { s with
      sup := { s.sup with state := .dark }, exc := { s.exc with nlat := s.exc.nlat ||| 0x2000 },
      srg := { u.srg with r := 0, turnTimer := none, turnMark := false }, bfu := u.bfu, chk := u.chk }
    rw [h1]
  rw [e, hw]
  obtain ⟨t1, t2, t3, t4, t5⟩ := w.toStanding_spec
  have tonly := w.toStanding_driveOnly
  generalize w.toStanding = t at t1 t2 t3 t4 t5 tonly
  refine ⟨?_, fun _ _ => ?_, fun a => ?_, fun m => ?_, fun _ => ⟨?_, ?_⟩, fun h => absurd h (by simp [ht])⟩
  · unfold driveOnly at tonly
    rw [t4] at tonly
    refine tonly.trans ?_
    rw [wonly]
  · rw [t1, wsrg]
  · obtain a | a := a <;> rw [a] at ht <;> exact absurd ht (by decide)
  · obtain ⟨d1, d2, d3, d4⟩ := h2 m
    obtain ⟨c1, c2, c3, -, c5, -⟩ := t5 m
    rw [if_neg (by simp [ht]), t1]
    refine ⟨?_, c1, c2, c3.trans (by rw [wchan, d4]), fun _ hn => c5 (by rw [wbfu]; exact hn)⟩
    rw [PerMotor.get_map, wsrg]
    show SrgMotor.rest (u.srg.motors.get m) = _
    rw [d1]
    rfl
  · rw [t2, wchk]
  · rw [t3, wbfu]

theorem State.driveDark (s : State) : DriveDark s (s.supplyLimited .dark).darkRest := by
  by_cases h : s.srg.traction = .eHeld ∨ s.srg.traction = .tripped
  · exact s.driveDark_rested h
  · by_cases h' : s.srg.traction = .standing
    · exact s.driveDark_standing h'
    · refine s.driveDark_driven ?_
      cases ht : s.srg.traction with
      | moving => rfl
      | turning => rfl
      | eBrake => rfl
      | standing => exact absurd ht h'
      | eHeld => exact absurd (.inl ht) h
      | tripped => exact absurd (.inr ht) h

/-! ### The other blocks at an entry to DARK -/

/-- All blocks at an entry to DARK, where none of it halts the part (R177). -/
theorem State.darkEntered_of {s v : State} (hd : DriveDark s v) (hs : s.exc.scan = none) : DarkEntered s v.supplySound.supplyLast
    ∧ v.supplySound.supplyLast.sup = { s.sup with state := .dark } ∧ v.supplySound.supplyLast.snd.cap = 0
    ∧ (∀ k, (v.supplySound.supplyLast.lgt.lamps.get k).level = 0) := by
  have vsup : v.sup = { s.sup with state := .dark } := by rw [hd.only]
  have vexc : v.exc = { s.exc with nlat := s.exc.nlat ||| 0x2000 } := by rw [hd.only]
  have vsnd : v.snd = s.snd := by rw [hd.only]
  have e : v.supplySound = v.recomputeCap.shedVoices := if_pos (by rw [show v.recomputeCap.sup = v.sup from rfl, vsup])
  obtain ⟨c, hc⟩ : ∃ c, v.recomputeCap = c := ⟨_, rfl⟩
  have csnd : c.snd = { s.snd with cap := 0 } := by
    rw [← hc]
    show ({ v.snd with cap := min (supplyCap v.cfg.power v.sup.state) (muteCap v.snd.mute) } : Snd) = _
    rw [vsnd, vsup]
    exact congrArg (fun n => ({ s.snd with cap := n } : Snd)) (Nat.zero_min _)
  have conly : c = { v with snd := c.snd } := by rw [← hc]; rfl
  have cexc : c.exc = v.exc := by rw [conly]
  have cvoice : ∀ k, c.voice k = s.voice k := fun k => by unfold State.voice; rw [csnd]
  have shed := c.shedVoices_shed.of (s := s) cvoice (by rw [csnd]) (by rw [csnd])
  have told := State.shedVoices_told (s := c) (by rw [cexc, vexc]; exact hs)
  rw [e, hc]
  generalize c.shedVoices = x at shed told
  obtain ⟨x1, x2, x3, x4⟩ := told
  simp only [cvoice] at x3 x4
  have xonly : x = { v with exc := { v.exc with nlat := x.exc.nlat }, snd := x.snd } := x1.trans (by rw [conly])
  have xsnd : x.snd = { s.snd with
    voices := x.snd.voices, order := x.snd.order, queue := x.snd.queue, current := x.snd.current, endList := x.snd.endList,
    endCount := x.snd.endCount, squeal := x.snd.squeal, cap := 0 } := x2.trans (by rw [csnd])
  have xnlat : x.exc.nlat = s.exc.nlat ||| 0x2000
      ||| if (∃ v, (s.voice v).active = true ∧ (s.voice v).tag ≠ 0) then 0x10 else 0 := by
    rw [x3, cexc, vexc]
  have hlike : x.haltedLike = s.haltedLike := by rw [xonly, vexc]; rfl
  have hacts : x.smokeActs = (s.exc.part.driving || s.haltedLike) := by
    unfold State.smokeActs
    rw [hlike]
    rw [xonly, vexc]
  obtain ⟨l1, l2, l3, l4, l5⟩ := x.supplyLast_spec
  have hcap : x.lampCap = 0 := by
    rw [x.lampCap_eq]
    have : x.sup.state = .dark := by rw [xonly]; exact congrArg Sup.state vsup
    unfold State.lampCapIn
    rw [this]
    exact ite_self 0
  rw [hcap] at l4 l5
  generalize x.supplyLast = t at l1 l2 l3 l4 l5
  have xsmk : x.smk = s.smk := by rw [xonly, hd.only]
  have xlgt : x.lgt = s.lgt := by rw [xonly, hd.only]
  have tsup : t.sup = { s.sup with state := .dark } := by rw [l1, xonly, vsup]
  have tsrg : t.srg = v.srg := by rw [l1, xonly]
  have tbfu : t.bfu = v.bfu := by rw [l1, xonly]
  have tchk : t.chk = v.chk := by rw [l1, xonly]
  have tsnd : t.snd = x.snd := by rw [l1]
  have texc : t.exc = x.exc := by rw [l1]
  have tchan : ∀ m, t.chan m = v.chan m := fun m => congrArg (fun b : Bfu => b.chans.get m) tbfu
  have tvoice : ∀ k, t.voice k = x.voice k := fun k => congrArg (fun b : Snd => b.voices.get k) tsnd
  have only : t = { s with
      sup := t.sup, exc := { s.exc with nlat := t.exc.nlat }, srg := t.srg, bfu := t.bfu, chk := t.chk, snd := t.snd, smk := t.smk,
      lgt := t.lgt } := by
    rw [tsup, texc, tsrg, tbfu, tchk, tsnd]
    refine l1.trans ?_
    have h := hd.only
    generalize v.srg = y1 at h ⊢
    generalize v.bfu = y2 at h ⊢
    generalize v.chk = y3 at h ⊢
    generalize t.smk = y4
    generalize t.lgt = y5
    generalize x.snd = y6 at xonly ⊢
    generalize x.exc.nlat = y7 at xonly ⊢
    rw [xonly, h]
  refine ⟨{
    only := only
    notices := ⟨by rw [tsup], by rw [texc]; exact xnlat⟩
    rests := fun a b => by rw [tsrg]; exact hd.rests a b
    latched := fun a => by rw [tsrg]; exact hd.latched a
    duties := fun m => by rw [tsrg, tchan]; exact hd.duties m
    stands := fun h => by rw [tchk, tbfu]; exact hd.stands h
    stood := fun h => by rw [tchk, tbfu]; exact hd.stood h
    voices := by
      obtain ⟨g1, g2, l, g3, g4, g5, g6⟩ := shed
      rw [← tsnd] at g2 g4 g6
      rw [← texc] at g5
      exact ⟨fun k => by rw [tvoice]; exact g1 k, g2, l, g3, g4, g5, g6⟩
    sound := by rw [tsnd]; exact xsnd
    squeal := by
      rw [tsnd]
      refine x4.trans ?_
      rw [csnd]
    smoke := by
      refine ⟨fun h => ?_, fun h h' => ?_⟩
      · have ha : x.smokeActs = true := by rw [hacts, Bool.or_eq_true]; exact h
        refine (l2 ha).of (by rw [xsmk]) (by rw [l1]) (by rw [l1]) ?_ rfl
        exact congrArg (fun e : Exc => ({ x with exc := e } : State).haltedLike) texc
      · exact (l3 (by rw [hacts, h, h']; rfl)).trans xsmk
    lamps := by
      rw [xlgt] at l4 l5
      exact ⟨l4, fun k => by rw [l5, Nat.min_zero]⟩ }, tsup, by rw [tsnd, xsnd], fun k => by rw [l5, Nat.min_zero]⟩

end Sys2Proof.Machine
end

section
/-!
PROOF. STOPPING ended by a change of supply state (R12, R13, R177), and every change of supply state by its cases.
-/
set_option Elab.async false

namespace Sys2Proof.Machine

/-! ### SND at an entry to HALTED -/

/-- What two states that show the same voices and starts have shed, with what was latched still latched. -/
theorem VoicesShed.keep {s t u : State} (h : VoicesShed s t) (hv : u.snd.voices = t.snd.voices) (hq : u.snd.queue = t.snd.queue)
    (hc : u.snd.current = t.snd.current) (hn : u.snd.endCount = t.snd.endCount) (he : u.snd.endList = t.snd.endList)
    (hl : Latched t u) : VoicesShed s u := by
  obtain ⟨h1, h2, l, h3, h4, h5, h6⟩ := h
  refine ⟨fun v => ?_, by rw [hq, hc]; exact h2, l, h3, by rw [hn]; exact h4, fun x => hl _ (h5 x), by rw [he]; exact h6⟩
  rw [← h1]
  unfold State.voice
  rw [hv]

/-- SRG's, BFU's and CHK's shares of an entry to HALTED keep SND, a waiting scan and the notices. -/
theorem State.haltDrive_sound (s : State) :
    (s.setPart .halted).haltTraction.haltBridge.haltChuff.snd = s.snd
    ∧ (s.setPart .halted).haltTraction.haltBridge.haltChuff.exc.scan = s.exc.scan := by
  obtain ⟨-, -, h, -, -, -, -, -, -, h'⟩ := s.haltDrive_spec.fields
  exact ⟨h, (congrArg Exc.scan h').trans rfl⟩

theorem State.haltSound_eq (s : State) : s.haltSound = { s.shedVoices with snd := { s.shedVoices.snd with
    squeal := .silent, squealCount := 0, squealDue := false } } := rfl

theorem State.haltLast_snd (s : State) : s.haltLast.snd = s.snd := rfl

/-- The voices at an entry to HALTED (R115); the volume cap is kept. -/
theorem State.enterHalted_voices {s : State} (hs : s.exc.scan = none) : VoicesShed s s.enterHalted ∧ s.enterHalted.snd.cap = s.snd.cap := by
  have e : s.enterHalted = ((s.setPart .halted).haltTraction.haltBridge.haltChuff).haltSound.haltLast := rfl
  obtain ⟨h1, h2⟩ := s.haltDrive_sound
  generalize (s.setPart .halted).haltTraction.haltBridge.haltChuff = u at e h1 h2
  have shed := u.shedVoices_shed.of (s := s) (fun v => congrArg (fun b : Snd => b.voices.get v) h1) (by rw [h1]) (by rw [h1])
  have told := (State.shedVoices_told (s := u) (h2.trans hs)).sound
  have hh := u.haltSound_eq
  rw [e]
  generalize u.shedVoices = w at shed told hh
  have hl : u.haltSound.haltLast.snd = { w.snd with squeal := .silent, squealCount := 0, squealDue := false } := by
    rw [hh, State.haltLast_snd]
  have hn : u.haltSound.haltLast.exc.nlat = w.exc.nlat ||| 0x4000 := by
    rw [hh, State.haltLast_exc]
  generalize u.haltSound.haltLast = t at hl hn
  refine ⟨shed.keep (by rw [hl]) (by rw [hl]) (by rw [hl]) (by rw [hl]) (by rw [hl]) fun i hi => ?_, ?_⟩
  · rw [hn, BitVec.getLsbD_or, hi, Bool.true_or]
  · rw [hl]
    show w.snd.cap = _
    rw [told]
    have hc : u.snd.cap = s.snd.cap := by rw [h1]
    exact hc

/-- The voices at an entry to HALTED that finds none active and no start waiting. -/
theorem State.enterHalted_quiet {s : State} (hv : ∀ v, (s.voice v).active = false) (hq : s.snd.queue = []) :
    s.enterHalted.snd = { s.snd with
      queue := [], current := s.snd.current.map fun w => { w with doomed := true }, squeal := .silent, squealCount := 0,
      squealDue := false } := by
  have e : s.enterHalted = ((s.setPart .halted).haltTraction.haltBridge.haltChuff).haltSound.haltLast := rfl
  obtain ⟨h1, -⟩ := s.haltDrive_sound
  generalize (s.setPart .halted).haltTraction.haltBridge.haltChuff = u at e h1
  have hquiet := State.shedVoices_quiet (s := u) (fun v => by unfold State.voice; rw [h1]; exact hv v) (by rw [h1]; exact hq)
  rw [e, State.haltLast_snd, u.haltSound_eq, hquiet, h1]

/-! ### Two states that differ in what an entry to HALTED clears -/

/-- The facts of an entry to HALTED from `u` are those from `s`, where the two differ in what the entry clears and in what it sheds. -/
theorem HaltedFacts.alike {s u t : State} (f : HaltedFacts u t)
    (same : HaltSame { s with snd := u.snd, smk := u.smk, lgt := u.lgt } u) (hv : VoicesShed s t)
    (hk : ∀ x, { u.smk with state := x, target := SmokeTarget.none, heater := 0, fan := 0, puff := none }
      = { s.smk with state := x, target := SmokeTarget.none, heater := 0, fan := 0, puff := none })
    (hl : ∀ p, { u.lgt with timer := false, lamps := p, cap := 0 } = { s.lgt with timer := false, lamps := p, cap := 0 })
    (hp : ∀ k, (u.lgt.lamps.get k).pwm = (s.lgt.lamps.get k).pwm) : HaltedFacts s t := by
  have g := f.of same
  have hf : u.smk.fault = s.smk.fault := by
    have h0 := congrArg Smk.fault (hk .off)
    exact h0
  refine ⟨g.part, g.mirror, g.notice, g.drive, g.bridges, g.chuff, hv, g.squeal, ?_, ⟨?_, fun k => ?_⟩, g.untouched⟩
  · refine g.smoke.trans ?_
    show ({ u.smk with state := if u.smk.fault then .sensorFault else .off, target := .none, heater := 0, fan := 0, puff := none } : Smk)
      = _
    rw [hk, hf]
  · exact g.lamps.1.trans (hl _)
  · refine (g.lamps.2 k).trans ?_
    show ({ pwm := (u.lgt.lamps.get k).pwm } : Lamp) = _
    rw [hp]

/-- STOPPING ended at a change of supply state (R12, R13, R177). -/
structure SupplyHalted (s t : State) (x : Supply) : Prop where
  sup    : t.sup = { s.sup with state := x }
  drq    : t.drq = s.drq
  notice : t.exc.nlat.getLsbD 13 = true
  facts  : s.mem.wf = true → HaltedFacts { s with sup := t.sup } t
  dark   : x = .dark → t.srg.r = 0 ∧ (∀ m, (t.srg.motors.get m).d = 0) ∧ (∀ v, (t.voice v).active = false) ∧ t.snd.queue = []
    ∧ t.snd.cap = 0
  lamps  : s.srg.traction.ends = false → t.lgt.cap = 0 ∧ ∀ k, (t.lgt.lamps.get k).level = 0

theorem notice_supply {n : BitVec 15} (h : n = n' ||| 0x2000 ||| k) : n.getLsbD 13 = true := by
  rw [h, BitVec.getLsbD_or, BitVec.getLsbD_or]
  have : (0x2000 : BitVec 15).getLsbD 13 = true := by decide
  rw [this, Bool.or_true, Bool.true_or]

theorem State.halted_rests (s : State) (m : Motor) : (s.enterHalted.srg.motors.get m).d = 0 := by
  rw [s.enterHalted_drive.1]
  show ((s.srg.motors.map SrgMotor.rest).get m).d = 0
  rw [PerMotor.get_map]
  rfl

theorem SmokeEvaluated.cleared {s t : State} (h : SmokeEvaluated s t) (x : SmokeState) :
    { t.smk with state := x, target := SmokeTarget.none, heater := 0, fan := 0, puff := none }
      = { s.smk with state := x, target := SmokeTarget.none, heater := 0, fan := 0, puff := none } := by
  rw [h.kept]

/-- What a duty handed keeps of a channel's direction (R71). -/
theorem DutyHanded.dir {c : Traction} {x y : Channel} {d : Nat} (h : DutyHanded c x y d) : y.dir = x.dir := by
  rcases Decidable.em (x.mode = .drive) with hm | hm
  · rcases Nat.lt_trichotomy x.duty d with hlt | heq | hgt
    · rw [h.raised hm hlt]
    · rw [h.same hm heq]
    · rw [(h.lowered hm hgt).1]
  · rw [h.kept hm]

theorem SupplyChanged.halted_facts {s w t : State} {x : Supply} (h : SupplyChanged s w x) (f : HaltedFacts w t) (hv : VoicesShed w t)
    (hts : t.sup = w.sup) : HaltedFacts { s with sup := t.sup } t := by
  have hmem : w.mem = s.mem := by rw [h.only]
  have hexc : w.exc = { s.exc with nlat := s.exc.nlat ||| 0x2000 } := by rw [h.only]
  have vs : VoicesShed { s with sup := t.sup } t :=
    hv.of (fun v => congrArg (fun b => Octet.get b v) (by rw [h.only] : w.snd.voices = s.snd.voices)) (by rw [h.only]) (by rw [h.only])
  refine f.alike ⟨fun a _ => by rw [hmem], fun p => ?_, fun m => ?_, ?_, fun m => ?_, ?_, ⟨rfl, rfl, rfl⟩, rfl, rfl, ?_, ?_⟩ vs
    (fun y => ?_) (fun p => ?_) (fun k => ?_)
  · rw [h.only]; rfl
  · rw [(h.duties m).1]
  · rw [h.only]; exact ⟨rfl, rfl⟩
  · exact (h.duties m).2.dir
  · rw [h.only]; exact ⟨rfl, rfl, rfl, rfl, rfl⟩
  · exact ⟨by rw [h.only], by rw [h.only], hts.symm, by rw [h.only]⟩
  · rw [hexc]; exact ⟨rfl, rfl, rfl, rfl⟩
  · cases ha : s.smokeActs with
    | true => exact (h.smoke ha).cleared y
    | false => rw [h.still ha]
  · rw [h.lamps.1]
  · rw [h.lamps.2.2 k]

/-- A change to another state than DARK that ends STOPPING. -/
theorem SupplyChanged.halted {s w : State} {x : Supply} (h : SupplyChanged s w x) (hs : s.exc.scan = none) (hx : x ≠ .dark)
    (ht : s.srg.traction.ends = true) : SupplyHalted s w.enterHalted x := by
  have hspec := w.enterHalted_spec
  have hlatch := w.enterHalted_drive.2.2.2
  have hsup : w.sup = { s.sup with state := x } := by rw [h.only]
  have hexc : w.exc = { s.exc with nlat := s.exc.nlat ||| 0x2000 } := by rw [h.only]
  have hv := (State.enterHalted_voices (s := w) (by rw [hexc]; exact hs)).1
  refine ⟨hspec.2.2.1.trans hsup, hspec.1.trans (by rw [h.only]), hlatch _ ?_, fun hw => ?_, fun e => absurd e hx,
    fun e => absurd ht (by rw [e]; decide)⟩
  · rw [hexc]
    exact notice_supply (n' := s.exc.nlat) (k := 0) (by simp)
  · have hmem : w.mem = s.mem := by rw [h.only]
    have f := State.enterHalted_facts (s := w) (by rw [hmem]; exact hw)
    have hts := hspec.2.2.1
    generalize w.enterHalted = t at f hv hts
    exact h.halted_facts f hv hts

end Sys2Proof.Machine
end

section
/-!
PROOF. DARK in STOPPING (R12, R13, R61, R177), every change of supply state by its cases, and the supply monitor's obligations.
-/
set_option Elab.async false

namespace Sys2Proof.Machine

/-! ### DARK where traction had ended already -/

theorem DarkEntered.halted_facts {s w t : State} (h : DarkEntered s w) (ht : s.srg.traction.ends = true) (f : HaltedFacts w t)
    (hv : VoicesShed s t) (hts : t.sup = w.sup) : HaltedFacts { s with sup := t.sup } t := by
  have hmem : w.mem = s.mem := by rw [h.only]
  have hexc : w.exc = { s.exc with nlat := w.exc.nlat } := by rw [h.only]
  obtain ⟨hchk, hbfu⟩ := h.stood ht
  have vs : VoicesShed { s with sup := t.sup } t := ⟨hv.voices, hv.starts, hv.records⟩
  refine f.alike ⟨fun a _ => by rw [hmem], fun p => ?_, fun m => ?_, ?_, fun m => (h.duties m).2.2.2.1, ?_, ⟨rfl, rfl, rfl⟩, rfl, rfl, ?_, ?_⟩ vs
    (fun y => ?_) (fun p => ?_) (fun k => ?_)
  · by_cases hl : s.srg.traction = .eHeld ∨ s.srg.traction = .tripped
    · rw [h.latched hl]; rfl
    · obtain ⟨h1, h2⟩ := not_or.1 hl
      rw [h.rests h1 h2]
      have hstand : s.srg.traction = .standing := by
        cases hs : s.srg.traction with
        | standing => rfl
        | eHeld => exact absurd hs h1
        | tripped => exact absurd hs h2
        | moving => rw [hs] at ht; exact absurd ht (by decide)
        | turning => rw [hs] at ht; exact absurd ht (by decide)
        | eBrake => rw [hs] at ht; exact absurd ht (by decide)
      unfold Srg.halted
      dsimp only
      rw [hstand]
  · rw [(h.duties m).1, if_pos ht]
  · rw [hbfu]; exact ⟨rfl, rfl⟩
  · rw [hchk]; exact ⟨rfl, rfl, rfl, rfl, rfl⟩
  · exact ⟨by rw [h.only], by rw [h.only], hts.symm, by rw [h.only]⟩
  · rw [hexc]; exact ⟨rfl, rfl, rfl, rfl⟩
  · cases ha : s.exc.part.driving || s.haltedLike with
    | true => exact (h.smoke.1 (by rw [Bool.or_eq_true] at ha; exact ha)).cleared y
    | false =>
      rw [Bool.or_eq_false_iff] at ha
      rw [h.smoke.2 ha.1 ha.2]
  · rw [h.lamps.1]
  · rw [h.lamps.2 k]

theorem DarkEntered.halted {s w : State} (h : DarkEntered s w) (hs : s.exc.scan = none) (ht : s.srg.traction.ends = true)
    (hsup : w.sup = { s.sup with state := .dark }) (hcap : w.snd.cap = 0) : SupplyHalted s w.enterHalted .dark := by
  have hspec := w.enterHalted_spec
  obtain ⟨hsrg, -, -, hlatch⟩ := w.enterHalted_drive
  have hrest := w.halted_rests
  have hexc : w.exc = { s.exc with nlat := w.exc.nlat } := by rw [h.only]
  obtain ⟨hv, hc⟩ := State.enterHalted_voices (s := w) (by rw [hexc]; exact hs)
  have hquiet := State.enterHalted_quiet (s := w) h.voices.silent h.voices.starts.1
  have hmem : w.mem = s.mem := by rw [h.only]
  have hf : s.mem.wf = true → HaltedFacts w w.enterHalted := fun hw => State.enterHalted_facts (by rw [hmem]; exact hw)
  generalize w.enterHalted = t at hspec hsrg hlatch hrest hv hc hquiet hf
  have shed : VoicesShed s t := h.voices.again (by rw [hquiet]) hlatch
  refine ⟨hspec.2.2.1.trans hsup, hspec.1.trans (by rw [h.only]), hlatch _ (notice_supply h.notices.2),
    fun hw => h.halted_facts ht (hf hw) shed hspec.2.2.1, fun _ => ⟨by rw [hsrg], hrest, hv.silent, hv.starts.1, hc.trans hcap⟩,
    fun e => absurd ht (by rw [e]; decide)⟩

/-! ### DARK that ends STOPPING while traction still moves -/

/-- SND, SMK and LGT at an entry to DARK in a part that has just entered HALTED: the volume cap alone changes. -/
theorem State.halted_dark {s u : State} (hp : u.exc.part = .halted) (hd : u.sup.state = .dark) (hv : ∀ v, (u.voice v).active = false)
    (hq : u.snd.queue = []) (hs : VoicesShed s u) : VoicesShed s u.supplySound.supplyLast
    ∧ u.supplySound.supplyLast = { u with
      snd := { u.snd with cap := 0, current := u.snd.current.map fun w => { w with doomed := true } },
      smk := u.supplySound.supplyLast.smk, lgt := { u.lgt with lamps := u.supplySound.supplyLast.lgt.lamps, cap := 0 } }
    ∧ SmokeEvaluated u { u with smk := u.supplySound.supplyLast.smk }
    ∧ ∀ k, u.supplySound.supplyLast.lgt.lamps.get k = { u.lgt.lamps.get k with level := 0 } := by
  have hlike : u.haltedLike = true := by unfold State.haltedLike; rw [hp]
  have e : u.supplySound = { u with
      snd := { u.snd with cap := 0, queue := [], current := u.snd.current.map fun w => { w with doomed := true } } } := by
    have hsup : u.recomputeCap.sup.state = .dark := hd
    have hcap : u.recomputeCap = { u with snd := { u.snd with cap := 0 } } := by
      unfold State.recomputeCap
      rw [hd]
      exact congrArg (fun n => ({ u with snd := { u.snd with cap := n } } : State)) (Nat.zero_min _)
    have h1 : u.supplySound = u.recomputeCap.shedVoices := if_pos hsup
    rw [h1, State.shedVoices_quiet (s := u.recomputeCap) hv hq, hcap]
  obtain ⟨x, hx⟩ : ∃ x, u.supplySound = x := ⟨_, rfl⟩
  rw [hx] at e ⊢
  have xlike : x.haltedLike = true := by rw [e]; exact hlike
  have xacts : x.smokeActs = true := by unfold State.smokeActs; rw [xlike, Bool.or_true]
  obtain ⟨l1, l2, -, l4, l5⟩ := x.supplyLast_spec
  have hcap : x.lampCap = 0 := by rw [x.lampCap_eq]; unfold State.lampCapIn; rw [xlike]; rfl
  rw [hcap] at l4 l5
  have xlgt : x.lgt = u.lgt := by rw [e]
  rw [xlgt] at l4 l5
  generalize x.supplyLast = t at l1 l2 l4 l5
  have tsnd : t.snd = x.snd := by rw [l1]
  have texc : t.exc = x.exc := by rw [l1]
  have xexc : x.exc = u.exc := by rw [e]
  have xsnd : x.snd = _ := congrArg State.snd e
  refine ⟨hs.again (by rw [tsnd, xsnd]) (.same (by rw [texc, xexc])), ?_, ?_, fun k => by rw [l5, Nat.min_zero]⟩
  · have h0 : u.snd = { u.snd with queue := [] } := by rw [← hq]
    rw [← l4]
    refine l1.trans ?_
    rw [e]
    rw [← hq]
  · exact (l2 xacts).of (by rw [e]) (by rw [e]) (by rw [e]) (hlike.trans xlike.symm) rfl

theorem DriveDark.halted_facts {s v t : State} (h : DriveDark s v) (ht : s.srg.traction.ends = false) (f : HaltedFacts v t)
    (hts : t.sup = v.sup) : HaltedFacts { s with sup := t.sup } t := by
  have hmem : v.mem = s.mem := by rw [h.only]
  have hexc : v.exc = { s.exc with nlat := s.exc.nlat ||| 0x2000 } := by rw [h.only]
  obtain ⟨hchk, hbfu⟩ := h.stands ht
  refine f.of ⟨fun a _ => by rw [hmem], fun p => ?_, fun m => ?_, ?_, fun m => (h.duties m).2.2.2.1, ?_, ?_, ?_, ?_, ?_, ?_⟩
  · have h1 : s.srg.traction ≠ .eHeld := fun x => by rw [x] at ht; exact absurd ht (by decide)
    have h2 : s.srg.traction ≠ .tripped := fun x => by rw [x] at ht; exact absurd ht (by decide)
    rw [h.rests h1 h2]
    unfold Srg.halted
    dsimp only
    rw [ht]
    rfl
  · rw [(h.duties m).1, if_neg (by rw [ht]; decide)]
  · rw [hbfu]; exact ⟨rfl, rfl⟩
  · rw [hchk]; exact ⟨rfl, rfl, rfl, rfl, rfl⟩
  · rw [h.only]; exact ⟨rfl, rfl, rfl⟩
  · rw [h.only]
  · rw [h.only]
  · exact ⟨by rw [h.only], by rw [h.only], hts.symm, by rw [h.only]⟩
  · rw [hexc]; exact ⟨rfl, rfl, rfl, rfl⟩

theorem DriveDark.halted {s v : State} (h : DriveDark s v) (hs : s.exc.scan = none) (ht : s.srg.traction.ends = false) :
    SupplyHalted s v.enterHalted.supplySound.supplyLast .dark ∧ v.enterHalted.supplySound.supplyLast.exc.part = .halted := by
  have hspec := v.enterHalted_spec
  obtain ⟨hsrg, -, -, hlatch⟩ := v.enterHalted_drive
  have hrest := v.halted_rests
  have hsup : v.sup = { s.sup with state := .dark } := by rw [h.only]
  have hexc : v.exc = { s.exc with nlat := s.exc.nlat ||| 0x2000 } := by rw [h.only]
  have hmem : v.mem = s.mem := by rw [h.only]
  have hsnd : v.snd = s.snd := by rw [h.only]
  obtain ⟨hv, -⟩ := State.enterHalted_voices (s := v) (by rw [hexc]; exact hs)
  have hf : s.mem.wf = true → HaltedFacts v v.enterHalted := fun hw => State.enterHalted_facts (by rw [hmem]; exact hw)
  generalize v.enterHalted = u at hspec hsrg hlatch hrest hv hf
  have usup : u.sup = { s.sup with state := .dark } := hspec.2.2.1.trans hsup
  have shed : VoicesShed s u := hv.of (fun k => congrArg (fun b : Snd => b.voices.get k) hsnd) (by rw [hsnd]) (by rw [hsnd])
  have upart := hspec.2.2.2.2.2.2
  obtain ⟨g1, g2, g3, g4⟩ := State.halted_dark upart (by rw [usup]) hv.silent hv.starts.1 shed
  generalize u.supplySound.supplyLast = t at g1 g2 g3 g4
  have tsup : t.sup = u.sup := by rw [g2]
  have texc : t.exc = u.exc := by rw [g2]
  have tsrg : t.srg = u.srg := by rw [g2]
  refine ⟨⟨tsup.trans usup, (by rw [g2] : t.drq = u.drq).trans (hspec.1.trans (by rw [h.only])), ?_, fun hw => ?_,
    fun _ => ⟨by rw [tsrg, hsrg], fun m => by rw [tsrg]; exact hrest m, g1.silent, g1.starts.1, by rw [g2]⟩,
    fun _ => ⟨by rw [g2], fun k => by rw [g4]⟩⟩, by rw [texc]; exact upart⟩
  · rw [texc]
    refine hlatch _ ?_
    rw [hexc]
    exact notice_supply (n' := s.exc.nlat) (k := 0) (by simp)
  · have f := h.halted_facts ht (hf hw) hspec.2.2.1
    have tchan : ∀ m, t.chan m = u.chan m := fun m => congrArg (fun b : Bfu => b.chans.get m) (by rw [g2])
    have tsnd : t.snd = { u.snd with cap := 0, current := u.snd.current.map fun w => { w with doomed := true } } := by rw [g2]
    have tlgt : t.lgt = { u.lgt with lamps := t.lgt.lamps, cap := 0 } := by
      have := congrArg State.lgt g2
      exact this
    have uevery : u.smk.state ≠ .ready ∧ u.smk.heater = 0 ∧ u.smk.fan = 0 ∧ u.smk.puff = none := by
      rw [f.smoke]
      refine ⟨?_, rfl, rfl, rfl⟩
      dsimp only
      split <;> simp
    have usmk : t.smk = { u.smk with state := if u.smk.fault then .sensorFault else .off, target := .none } := by
      have hk := g3.kept
      have hr := g3.ranked
      have hlike : u.haltedLike = true := by unfold State.haltedLike; rw [upart]
      have hst : t.smk.state = (if u.smk.fault then .sensorFault else .off) ∧ t.smk.target = .none := by
        cases hfault : u.smk.fault with
        | true => exact hr.fault hfault
        | false => exact hr.halted hfault hlike
      have hsame : u.smk.state = t.smk.state ∧ u.smk.target = t.smk.target := by
        rw [hst.1, hst.2, f.smoke]
        exact ⟨rfl, rfl⟩
      have hts := congrArg State.smk (g3.same hsame.1 hsame.2)
      have hts' : t.smk = u.smk := hts
      rw [← hst.1, ← hst.2, hts']
    exact {
      part := by rw [texc]; exact f.part
      mirror := fun a => by rw [(by rw [g2] : t.mem = u.mem)]; exact f.mirror a
      notice := by rw [texc]; exact f.notice
      drive := by rw [tsrg]; exact f.drive
      bridges := by
        obtain ⟨b1, b2⟩ := f.bridges
        rw [(by rw [g2] : t.bfu = u.bfu)]
        exact ⟨b1, fun m => by rw [tchan]; exact b2 m⟩
      chuff := by rw [(by rw [g2] : t.chk = u.chk)]; exact f.chuff
      voices := ⟨g1.voices, g1.starts, g1.records⟩
      squeal := by rw [tsnd]; exact f.squeal
      smoke := by
        rw [usmk, f.smoke]
      lamps := by
        obtain ⟨b1, b2⟩ := f.lamps
        refine ⟨?_, fun k => ?_⟩
        · rw [tlgt, b1]
        · rw [g4, b2]
      untouched := by
        rw [texc, tsup, (by rw [g2] : t.cfg = u.cfg), (by rw [g2] : t.rrx = u.rrx), (by rw [g2] : t.port = u.port)]
        obtain ⟨c1, c2, -, c4⟩ := f.untouched
        exact ⟨c1, c2, rfl, c4⟩ }

/-! ### Every change of supply state -/

/-- A change of supply state (R177): to another state than DARK, or to DARK, or with an end of STOPPING. -/
theorem State.supplyChange_cases {s : State} (x : Supply) (hs : s.exc.scan = none) :
    (x ≠ .dark ∧ (s.exc.part ≠ .stopping ∨ s.srg.traction.ends = false) ∧ SupplyChanged s (s.supplyChange x) x)
    ∨ (x = .dark ∧ s.exc.part ≠ .stopping ∧ DarkEntered s (s.supplyChange x)
      ∧ (s.supplyChange x).sup = { s.sup with state := .dark } ∧ (s.supplyChange x).snd.cap = 0
      ∧ ∀ k, ((s.supplyChange x).lgt.lamps.get k).level = 0)
    ∨ (s.exc.part = .stopping ∧ (s.srg.traction.ends = true ∨ x = .dark) ∧ SupplyHalted s (s.supplyChange x) x) := by
  rw [s.supplyChange_eq x]
  by_cases hx : x = .dark
  · subst hx
    rw [if_pos rfl]
    have hd := s.driveDark
    have htr : (s.supplyLimited .dark).srg.traction = s.srg.traction := by rw [(s.supplyLimited_spec .dark).1]
    rw [State.darkStop_eq, htr]
    generalize (s.supplyLimited .dark).darkRest = v at hd
    have vpart : v.exc.part = s.exc.part := by rw [hd.only]
    have vends : v.srg.traction.ends = true := by
      by_cases hl : s.srg.traction = .eHeld ∨ s.srg.traction = .tripped
      · rw [hd.latched hl]
        obtain h | h := hl <;> (dsimp only; rw [h]; rfl)
      · obtain ⟨h1, h2⟩ := not_or.1 hl
        rw [hd.rests h1 h2]
        rfl
    by_cases hp : s.exc.part = .stopping
    · cases ht : s.srg.traction.ends with
      | true =>
        obtain ⟨g1, g2, g3, g4⟩ := State.darkEntered_of hd hs
        rw [if_pos rfl]
        generalize v.supplySound.supplyLast = w at g1 g2 g3 g4
        have wpart : w.exc.part = .stopping := by rw [g1.only]; exact hp
        rw [State.endStopping_ends wpart (.inr (by rw [g2]))]
        exact .inr (.inr ⟨hp, .inl rfl, g1.halted hs ht g2 g3⟩)
      | false =>
        rw [if_neg (by decide), State.endStopping_ends (vpart.trans hp) (.inl vends)]
        obtain ⟨g, gp⟩ := hd.halted hs ht
        rw [State.endStopping_other (by rw [gp]; decide)]
        exact .inr (.inr ⟨hp, .inr rfl, g⟩)
    · have hv : v.endStopping = v := State.endStopping_other (by rw [vpart]; exact hp)
      rw [hv, ite_self]
      obtain ⟨g1, g2, g3, g4⟩ := State.darkEntered_of hd hs
      generalize v.supplySound.supplyLast = w at g1 g2 g3 g4
      have wpart : w.exc.part = s.exc.part := by rw [g1.only]
      rw [State.endStopping_other (by rw [wpart]; exact hp)]
      exact .inr (.inl ⟨rfl, hp, g1, g2, g3, g4⟩)
  · rw [if_neg hx]
    have h := s.supplied_changed hx
    generalize (s.supplyLimited x).supplySound.supplyLast = w at h
    have wpart : w.exc.part = s.exc.part := by rw [h.only]
    have wends : w.srg.traction = s.srg.traction := by rw [h.only]
    by_cases hp : s.exc.part = .stopping
    · cases ht : s.srg.traction.ends with
      | true =>
        rw [State.endStopping_ends (wpart.trans hp) (.inl (by rw [wends]; exact ht))]
        exact .inr (.inr ⟨hp, .inl rfl, h.halted hs hx ht⟩)
      | false =>
        rw [State.endStopping_stays (by rw [wends]; exact ht) (by rw [h.only]; exact hx)]
        exact .inl ⟨hx, .inr rfl, h⟩
    · rw [State.endStopping_other (by rw [wpart]; exact hp)]
      exact .inl ⟨hx, .inl hp, h⟩

end Sys2Proof.Machine
end

section
/-!
PROOF. The supply monitor's obligations (O59, O60): its samples, the hold-up timer's expiry and the current share (R173 to R178).
-/
set_option Elab.async false

namespace Sys2Proof.Machine

/-! ### The hold-up timer and the share (R175, R178) -/

/-- What the readings and the run counts hold is no part of what an entry to DARK keeps. -/
theorem DarkEntered.ofSup {s t : State} {x : Sup} (h : DarkEntered { s with sup := x } t) : DarkEntered s t :=
  ⟨h.only, h.notices, h.rests, h.latched, h.duties, h.stands, h.stood, ⟨h.voices.voices, h.voices.starts, h.voices.records⟩, h.sound,
    h.squeal, h.smoke, h.lamps⟩

theorem heaterAllowance_eq (c : Power) (current : Nat) : (heaterAllowance c current : Int)
    = max 0 (min (max 0 ((c.budget : Int) - current - c.reserve) * 255 / c.heaterNom) 255) := by
  have h : max 0 ((c.budget : Int) - current - c.reserve) = ((c.budget - current - c.reserve : Nat) : Int) := by omega
  unfold heaterAllowance
  rw [h]
  have h2 : ((c.budget - current - c.reserve : Nat) : Int) * 255 / (c.heaterNom : Int)
      = (((c.budget - current - c.reserve) * 255 / c.heaterNom : Nat) : Int) := by
    rw [Int.natCast_ediv, Int.natCast_mul]
    rfl
  rw [h2]
  generalize (c.budget - current - c.reserve) * 255 / c.heaterNom = n
  omega

theorem State.holdupExpires_cases {s : State} (hs : s.exc.scan = none) :
    s.holdupExpires.sup = { s.sup with state := .dark, holdup := none, lean := 0, recover := 0, loss := 0 }
    ∧ (s.exc.part ≠ .stopping → DarkEntered s s.holdupExpires)
    ∧ (s.exc.part = .stopping → s.mem.wf = true → HaltedFacts { s with sup := s.holdupExpires.sup } s.holdupExpires
      ∧ s.holdupExpires.exc.nlat.getLsbD 13 = true ∧ s.holdupExpires.drq = s.drq ∧ s.holdupExpires.snd.cap = 0) := by
  unfold State.holdupExpires
  obtain ⟨u, hu⟩ : ∃ u, ({ s with sup := { s.sup with lean := 0, recover := 0, loss := 0, holdup := none } } : State) = u := ⟨_, rfl⟩
  have upart : u.exc.part = s.exc.part := by rw [← hu]
  have h := State.supplyChange_cases (s := u) .dark (by rw [← hu]; exact hs)
  rw [hu]
  generalize u.supplyChange .dark = t at h
  rw [upart] at h
  obtain ⟨h, -⟩ | ⟨-, hp, hd, h2, -⟩ | ⟨hp, -, h⟩ := h
  · exact absurd rfl h
  · rw [← hu] at hd h2
    exact ⟨h2, fun _ => hd.ofSup, fun e => absurd e hp⟩
  · rw [← hu] at h
    obtain ⟨-, -, -, -, hcap⟩ := h.dark rfl
    exact ⟨h.sup, fun e => absurd hp e, fun _ hw => ⟨h.facts hw, h.notice, h.drq, hcap⟩⟩

/-- Settles O60: the expiry is a change of supply state to DARK, and the share is `heaterAllowance`. -/
theorem holdupAndShare : Obligations.HoldupAndShare := by
  unfold Obligations.HoldupAndShare
  intro s hs
  refine ⟨fun n hn => ?_, fun hn => ?_, fun hsh => ⟨heaterAllowance s.cfg.power s.motorCurrents, ?_, ?_⟩, fun hsh => ?_⟩
  · have he : exec .holdupTimerExpiry s = finish s.holdupExpires := by
      show execHoldupTimerExpiry s = _
      unfold execHoldupTimerExpiry
      rw [hn]
      rfl
    have hq : s.holdupExpires.scanQuiet := fun k hk => absurd (((State.holdupExpires_act s).scan hs).symm.trans hk) (by simp)
    exact ⟨_, he.trans (finish_idle hq), State.holdupExpires_cases hs⟩
  · show execHoldupTimerExpiry s = _
    unfold execHoldupTimerExpiry
    rw [hn]
    rfl
  · have hcur : (s.motorCurrents : Int) = ((s.chan .a).avg + (if 2 ≤ s.cfg.traction.motors then (s.chan .b).avg else 0) : Nat) := by
      unfold State.motorCurrents Traction.present
      simp only [decide_eq_true_iff]
    have h := heaterAllowance_eq s.cfg.power s.motorCurrents
    rw [hcur] at h
    refine h.trans ?_
    push_cast
    rfl
  · show execShareTimer s = _
    unfold execShareTimer
    rw [if_pos hsh]
    rfl
  · show execShareTimer s = _
    unfold execShareTimer
    rw [if_neg (by rw [hsh]; decide)]

/-! ### A sample's change of supply state (R174 to R177) -/

/-- What a change of supply state to `x` makes of a state `s`, whatever its readings and run counts become (R177). -/
structure SupplyJudged (s t : State) (x : Supply) : Prop where
  notice : t.exc.nlat.getLsbD 13 = true
  dark   : x = .dark → t.srg.r = 0 ∧ t.srg.motors.a.d = 0 ∧ t.srg.motors.b.d = 0 ∧ (∀ v, (t.voice v).active = false) ∧ t.snd.queue = []
  caps   : s.exc.part ≠ .stopping ∨ s.srg.traction.ends = false → t.lgt.cap = s.lampCapIn x
    ∧ (∀ k, (t.lgt.lamps.get k).level = min (t.lgt.lamps.get k).program t.lgt.cap)
    ∧ t.snd.cap = min (supplyCap s.cfg.power x) (if s.snd.mute then 0 else 255)
  drives : s.exc.part ≠ .stopping ∨ (s.srg.traction.ends = false ∧ x ≠ .dark) → t.exc = { s.exc with nlat := t.exc.nlat }
    ∧ (s.exc.part.driving = true ∨ s.haltedLike = true →
        SmokeEvaluated { s with sup := t.sup } { s with sup := t.sup, smk := t.smk })
    ∧ (s.exc.part = .idle ∨ (s.exc.part = .adopting ∧ s.haltedLike = false) → t.smk = s.smk)
  entered : x = .dark → s.exc.part ≠ .stopping → DarkEntered s t
  halted : s.exc.part = .stopping → s.srg.traction.ends = true ∨ x = .dark → s.mem.wf = true → HaltedFacts { s with sup := t.sup } t
  changed : s.exc.part ≠ .stopping ∨ s.srg.traction.ends = false → x ≠ .dark →
    ∃ a, t.sup = { a with state := x } ∧ SupplyChanged { s with sup := a } t x

theorem State.smokeActs_not {s : State} (h : s.exc.part = .idle ∨ (s.exc.part = .adopting ∧ s.haltedLike = false)) :
    s.exc.part.driving = false ∧ s.haltedLike = false := by
  obtain h | ⟨h, h'⟩ := h
  · exact ⟨by rw [h]; rfl, by unfold State.haltedLike; rw [h]⟩
  · exact ⟨by rw [h]; rfl, h'⟩

theorem SupplyChanged.judged {s t : State} {a : Sup} {x : Supply} (hx : x ≠ .dark)
    (hp : s.exc.part ≠ .stopping ∨ s.srg.traction.ends = false) (h : SupplyChanged { s with sup := a } t x) : SupplyJudged s t x where
  notice := by
    rw [h.only]
    exact notice_supply (n' := s.exc.nlat) (k := 0) (by simp)
  dark := fun e => absurd e hx
  caps := fun _ => ⟨h.lamps.2.1, fun k => by rw [h.lamps.2.2 k], h.cap⟩
  drives := fun _ => ⟨by rw [h.only], fun ha => by
      have hacts : ({ s with sup := a } : State).smokeActs = true := by
        unfold State.smokeActs
        rw [Bool.or_eq_true]
        exact ha
      exact h.smoke hacts, fun ha => by
      obtain ⟨h1, h2⟩ := State.smokeActs_not ha
      exact h.still ((Bool.or_eq_false_iff).2 ⟨h1, h2⟩)⟩
  entered := fun e => absurd e hx
  halted := fun h1 h2 => by
    obtain h2 | h2 := h2
    · obtain hp | hp := hp
      · exact absurd h1 hp
      · exact absurd (hp.symm.trans h2) (by decide)
    · exact absurd h2 hx
  changed := fun _ _ => ⟨a, by rw [h.only], h⟩

theorem DarkEntered.judged {s t : State} {a : Sup} (hr : s.restOk) (hp : s.exc.part ≠ .stopping)
    (h : DarkEntered { s with sup := a } t) (hcap : t.snd.cap = 0)
    (hlev : ∀ k, (t.lgt.lamps.get k).level = 0) : SupplyJudged s t .dark where
  notice := notice_supply h.notices.2
  dark := fun _ => by
    have hd : ∀ m, (t.srg.motors.get m).d = 0 := fun m => by
      rw [(h.duties m).1]
      split <;> rfl
    refine ⟨?_, hd .a, hd .b, h.voices.silent, h.voices.starts.1⟩
    by_cases hl : s.srg.traction = .eHeld ∨ s.srg.traction = .tripped
    · rw [h.latched hl]
      exact hr (.inr hl)
    · obtain ⟨h1, h2⟩ := not_or.1 hl
      rw [h.rests h1 h2]
  caps := fun _ => by
    have hc : t.lgt.cap = 0 := by rw [h.lamps.1]
    refine ⟨?_, fun k => ?_, ?_⟩
    · rw [hc]
      exact (ite_self 0).symm
    · rw [hc, Nat.min_zero]
      exact hlev k
    · rw [hcap]
      exact (Nat.zero_min _).symm
  drives := fun _ => ⟨by rw [h.only], fun ha => (h.smoke.1 ha).of rfl (by rw [h.only]) rfl (by rw [h.only]; rfl) rfl, fun ha => by
      obtain ⟨h1, h2⟩ := State.smokeActs_not ha
      exact h.smoke.2 h1 h2⟩
  entered := fun _ _ => h.ofSup
  halted := fun e => absurd e hp
  changed := fun _ e => absurd rfl e

theorem SupplyHalted.judged {s t : State} {a : Sup} {x : Supply} (hp : s.exc.part = .stopping)
    (ht : s.srg.traction.ends = true ∨ x = .dark) (h : SupplyHalted { s with sup := a } t x) : SupplyJudged s t x where
  notice := h.notice
  dark := fun e => by
    obtain ⟨h1, h2, h3, h4, -⟩ := h.dark e
    exact ⟨h1, h2 .a, h2 .b, h3, h4⟩
  caps := fun e => by
    have he : s.srg.traction.ends = false := e.resolve_left (fun n => n hp)
    have hx : x = .dark := ht.resolve_left (by rw [he]; decide)
    subst hx
    obtain ⟨-, -, -, -, hcap⟩ := h.dark rfl
    obtain ⟨l1, l2⟩ := h.lamps he
    refine ⟨?_, fun k => ?_, ?_⟩
    · rw [l1]
      exact (ite_self 0).symm
    · rw [l1, l2, Nat.min_zero]
    · rw [hcap]
      exact (Nat.zero_min _).symm
  drives := fun e => by
    obtain e | ⟨e, e'⟩ := e
    · exact absurd hp e
    · exact (ht.elim (fun y => absurd (e.symm.trans y) (by decide)) (fun y => absurd y e'))
  entered := fun _ e => absurd hp e
  halted := fun _ _ hw => h.facts hw
  changed := fun e e' => by
    have he : s.srg.traction.ends = false := e.resolve_left (fun n => n hp)
    exact absurd (ht.resolve_left (by rw [he]; decide)) e'

theorem State.supplyChange_judged {s : State} (a : Sup) (x : Supply) (hs : s.exc.scan = none) (hr : s.restOk) :
    SupplyJudged s (({ s with sup := a } : State).supplyChange x) x
    ∧ (({ s with sup := a } : State).supplyChange x).sup = { a with state := x } := by
  have h := State.supplyChange_cases (s := { s with sup := a }) x hs
  generalize ({ s with sup := a } : State).supplyChange x = t at h
  obtain ⟨hx, hp, h⟩ | ⟨hx, hp, hd, h1, h2, h3⟩ | ⟨hp, ht, h⟩ := h
  · exact ⟨h.judged hx hp, by rw [h.only]⟩
  · subst hx
    exact ⟨hd.judged hr hp h2 h3, h1⟩
  · exact ⟨h.judged hp ht, h.sup⟩

/-- What of `SupplyChanged` the obligation asks for: the notices, the duties under the new limit, and the background request. -/
theorem SupplyJudged.limited {s t : State} {x : Supply} (h : SupplyJudged s t x)
    (hp : s.exc.part ≠ .stopping ∨ s.srg.traction.ends = false) (hx : x ≠ .dark) :
    let base := s.baseIn x
    let asks := (x = .normal ∨ x = .lean) ∧ s.exc.part.driving = true ∧ (s.voice 1).active = false
      ∧ (∀ r ∈ s.snd.queue, r.cls ≠ .background) ∧ (∀ w, s.snd.current = some w → w.req.cls ≠ .background)
    t = { s with
      sup := t.sup, exc := { s.exc with nlat := s.exc.nlat ||| 0x2000 }, srg := { s.srg with motors := t.srg.motors },
      bfu := { s.bfu with chans := t.bfu.chans }, snd := { s.snd with cap := t.snd.cap, queue := t.snd.queue },
      smk := t.smk, lgt := t.lgt }
    ∧ (∀ m,
      let d := min (s.srg.motors.get m).d
        (if s.bfu.slip = .slipping ∧ s.bfu.faster = some m then base * (100 - s.cfg.traction.slipCut) / 100 else base)
      t.srg.motors.get m = { s.srg.motors.get m with d := d } ∧ DutyHanded s.cfg.traction (s.chan m) (t.chan m) d)
    ∧ (∀ clip, asks → s.cfg.sound.bgClip = some clip → s.snd.queue.length < 32 → t.snd.queue = s.snd.queue ++ [s.backgroundStart clip])
    ∧ (¬ asks ∨ s.cfg.sound.bgClip = none ∨ 32 ≤ s.snd.queue.length → t.snd.queue = s.snd.queue) := by
  intro base asks
  obtain ⟨a, hsup, h⟩ := h.changed hp hx
  refine ⟨?_, fun m => ?_, h.asks, h.quiet⟩
  · rw [hsup]
    exact h.only
  · intro d
    exact h.duties m

/-! ### Samples judged (R173 to R176) -/

theorem runAfter_true {p : Prop} [Decidable p] (n : Nat) (h : p) : runAfter n (decide p) = n + 1 := by
  rw [decide_eq_true h]
  rfl

theorem runAfter_false {p : Prop} [Decidable p] (n : Nat) (h : ¬ p) : runAfter n (decide p) = 0 := by
  rw [decide_eq_false h]
  rfl

/-- A sample's outcome in each supply state but the change that it makes (R174, R175, R176): the run counts, or the change. -/
theorem State.judgeNormal_spec (s : State) {loss lean : Nat} (hl : runAfter s.sup.loss (s.sup.vs < s.cfg.power.vOff) = loss)
    (hn : runAfter s.sup.lean (s.sup.vs < s.cfg.power.vLean) = lean) :
    (loss < 2 → lean < s.cfg.power.qualifier → s.judgeNormal = { s with sup := { s.sup with loss := loss, lean := lean } })
    ∧ (loss < 2 → s.cfg.power.qualifier ≤ lean →
      s.judgeNormal = ({ s with sup := { s.sup with loss := loss, lean := lean } } : State).changeSupply .lean)
    ∧ (2 ≤ loss → s.judgeNormal = ({ s with sup := { s.sup with loss := loss, lean := lean } } : State).supplyLost) := by
  unfold State.judgeNormal
  dsimp only
  rw [hl, hn]
  exact ⟨fun h1 h2 => (if_neg (by omega)).trans (if_neg (by omega)), fun h1 h2 => (if_neg (by omega)).trans (if_pos h2), fun h => if_pos h⟩

theorem State.judgeLean_spec (s : State) {loss recover : Nat} (hl : runAfter s.sup.loss (s.sup.vs < s.cfg.power.vOff) = loss)
    (hn : runAfter s.sup.recover (s.cfg.power.vLean + 500 ≤ s.sup.vs) = recover) :
    (loss < 2 → recover < s.cfg.power.qualifier → s.judgeLean = { s with sup := { s.sup with loss := loss, recover := recover } })
    ∧ (loss < 2 → s.cfg.power.qualifier ≤ recover →
      s.judgeLean = ({ s with sup := { s.sup with loss := loss, recover := recover } } : State).changeSupply .normal)
    ∧ (2 ≤ loss → s.judgeLean = ({ s with sup := { s.sup with loss := loss, recover := recover } } : State).supplyLost) := by
  unfold State.judgeLean
  dsimp only
  rw [hl, hn]
  exact ⟨fun h1 h2 => (if_neg (by omega)).trans (if_neg (by omega)), fun h1 h2 => (if_neg (by omega)).trans (if_pos h2), fun h => if_pos h⟩

theorem State.judgeReturn_spec (s : State) {ret : Nat} (hn : runAfter s.sup.ret (s.cfg.power.vOn ≤ s.sup.vs) = ret) :
    (ret < s.cfg.power.qualifier → s.judgeReturn = { s with sup := { s.sup with ret := ret } })
    ∧ (s.cfg.power.qualifier ≤ ret → s.judgeReturn = s.changeSupply .normal) := by
  unfold State.judgeReturn
  dsimp only
  rw [hn]
  exact ⟨fun h => if_neg (by omega), fun h => if_pos h⟩

theorem State.supplyLost_spec (s : State) : (0 < s.cfg.power.holdTime → s.cfg.power.vhMin ≤ s.sup.vh →
      s.supplyLost = ({ s with sup := { s.sup.clearRuns with holdup := some s.cfg.power.holdTime } } : State).supplyChange .holdup)
    ∧ (s.cfg.power.holdTime = 0 ∨ s.sup.vh < s.cfg.power.vhMin → s.supplyLost = s.changeSupply .dark) := by
  unfold State.supplyLost
  exact ⟨fun h1 h2 => if_neg (by omega), fun h => if_pos h⟩

/-- Settles O59: the judgement of each supply state, with the change that it makes. -/
theorem supplySamples : Obligations.SupplySamples := by
  unfold Obligations.SupplySamples
  intro s vsen hsen hr hs vs vh c u runs changes lost returns
  have hx : exec (.supplyTimer vsen hsen) s
      = finish (if s.configured then (s.takeSample vsen hsen).judgeSupply else s.takeSample vsen hsen) := rfl
  have stays {a : Sup} (hv : (if s.configured then (s.takeSample vsen hsen).judgeSupply else s.takeSample vsen hsen) = { s with sup := a }) :
      exec (.supplyTimer vsen hsen) s = .next { s with sup := a } := by
    rw [hx, hv]
    exact finish_idle fun k hk => absurd (hs.symm.trans hk) (by simp)
  have moves {a : Sup} {x : Supply} {timer : Option Nat}
      (hv : (if s.configured then (s.takeSample vsen hsen).judgeSupply else s.takeSample vsen hsen)
        = ({ s with sup := a } : State).supplyChange x)
      (ha : a = { u with vs := vs, vh := vh, state := a.state, holdup := timer, lean := 0, recover := 0, loss := 0, ret := 0 }) :
      changes x timer := by
    obtain ⟨j, hsup⟩ := State.supplyChange_judged (s := s) a x hs hr
    have hq : (({ s with sup := a } : State).supplyChange x).exc.scan = none := (State.supplyChange_act _ x).scan hs
    refine ⟨_, ?_, ?_, j.notice, j.dark, fun hp => ?_, j.drives, j.entered, j.halted, fun hp hd => ?_⟩
    · rw [hx, hv]
      exact finish_idle fun k hk => absurd (hq.symm.trans hk) (by simp)
    · rw [hsup, ha]
    · obtain ⟨c1, c2, c3⟩ := j.caps hp
      exact ⟨c1, c2, by cases x <;> exact c3⟩
    · have hl := j.limited hp hd
      cases x with
      | dark => exact absurd rfl hd
      | normal => exact hl
      | lean => exact hl
      | holdup => exact hl
  have hlost {a : Sup} (hv : (if s.configured then (s.takeSample vsen hsen).judgeSupply else s.takeSample vsen hsen)
        = ({ s with sup := a } : State).supplyLost) (h1 : a.vh = vh)
      (ha : a = { u with vs := vs, vh := vh, holdup := a.holdup, lean := a.lean, recover := a.recover, loss := a.loss, ret := a.ret }) : lost := by
    obtain ⟨l1, l2⟩ := State.supplyLost_spec { s with sup := a }
    refine ⟨fun h h' => moves (hv.trans (l1 h (by rw [h1]; exact h'))) ?_, fun h => moves (hv.trans (l2 (by rw [h1]; exact h))) ?_⟩
    · rw [ha]; rfl
    · rw [ha]; rfl
  refine ⟨fun hc => stays (if_neg (by rw [hc]; decide)), fun hc hq hv => ?_⟩
  have judged : (if s.configured then (s.takeSample vsen hsen).judgeSupply else s.takeSample vsen hsen)
      = (s.takeSample vsen hsen).judgeSupply := if_pos hc
  have hreturn (hj : (if s.configured then (s.takeSample vsen hsen).judgeSupply else s.takeSample vsen hsen)
      = (s.takeSample vsen hsen).judgeReturn) : returns := by
    have spec {ret : Nat} := (s.takeSample vsen hsen).judgeReturn_spec (ret := ret)
    refine ⟨fun h => stays (hj.trans ((spec (runAfter_false _ (Nat.not_le.2 h))).1 (by show 0 < c.qualifier; omega))),
      fun h h' => stays (hj.trans ((spec (runAfter_true _ h)).1 h')),
      fun h h' => moves (hj.trans ((spec (runAfter_true _ h)).2 h')) rfl⟩
  refine ⟨fun hst => ?_, fun hst => ?_, fun hst => ?_, fun hst => ?_⟩
  · have hj := judged.trans (show (s.takeSample vsen hsen).judgeSupply = (s.takeSample vsen hsen).judgeNormal by
      unfold State.judgeSupply
      rw [show (s.takeSample vsen hsen).sup.state = .normal from hst])
    have spec {loss lean : Nat} := (s.takeSample vsen hsen).judgeNormal_spec (loss := loss) (lean := lean)
    have q0 : 0 < c.qualifier := by omega
    refine ⟨fun h => ?_, fun h h' h2 => ?_, fun h h' h2 => ?_, fun h h' h2 => ?_, fun h h' => ?_⟩
    · exact stays (hj.trans ((spec (runAfter_false _ (by show ¬ vs < c.vOff; omega)) (runAfter_false _ (Nat.not_lt.2 h))).1 (by decide) q0))
    · exact stays (hj.trans ((spec (runAfter_false _ (Nat.not_lt.2 h')) (runAfter_true _ h)).1 (by decide) h2))
    · have e := (spec (runAfter_true _ h) (runAfter_true _ (by show vs < c.vLean; omega))).1
        (by show u.loss + 1 < 2; omega) h2
      refine stays (hj.trans (e.trans ?_))
      show ({ s with sup := _ } : State) = _
      rw [show (s.takeSample vsen hsen).sup.loss = 0 from h']
      rfl
    · obtain h' | h' := h'
      · exact moves (hj.trans ((spec (runAfter_false _ (Nat.not_lt.2 h')) (runAfter_true _ h)).2.1 (by decide) h2)) rfl
      · by_cases hoff : vs < c.vOff
        · exact moves (hj.trans ((spec (runAfter_true _ hoff) (runAfter_true _ h)).2.1 (by show u.loss + 1 < 2; omega) h2)) rfl
        · exact moves (hj.trans ((spec (runAfter_false _ hoff) (runAfter_true _ h)).2.1 (by decide) h2)) rfl
    · exact hlost (hj.trans ((spec (runAfter_true _ h) rfl).2.2 (by show 2 ≤ u.loss + 1; omega))) rfl rfl
  · have hj := judged.trans (show (s.takeSample vsen hsen).judgeSupply = (s.takeSample vsen hsen).judgeLean by
      unfold State.judgeSupply
      rw [show (s.takeSample vsen hsen).sup.state = .lean from hst])
    have spec {loss recover : Nat} := (s.takeSample vsen hsen).judgeLean_spec (loss := loss) (recover := recover)
    have q0 : 0 < c.qualifier := by omega
    refine ⟨fun h h' => ?_, fun h h' => ?_, fun h h' => ?_, fun h h' => ?_, fun h h' => ?_⟩
    · exact stays (hj.trans ((spec (runAfter_false _ (by show ¬ vs < c.vOff; omega)) (runAfter_true _ h)).1 (by decide) h'))
    · exact moves (hj.trans ((spec (runAfter_false _ (by show ¬ vs < c.vOff; omega)) (runAfter_true _ h)).2.1 (by decide) h')) rfl
    · exact stays (hj.trans ((spec (runAfter_false _ (Nat.not_lt.2 h')) (runAfter_false _ (Nat.not_le.2 h))).1 (by decide) q0))
    · have e := (spec (runAfter_true _ h) (runAfter_false _ (by show ¬ c.vLean + 500 ≤ vs; omega))).1
        (by show u.loss + 1 < 2; omega) q0
      refine stays (hj.trans (e.trans ?_))
      show ({ s with sup := _ } : State) = _
      rw [show (s.takeSample vsen hsen).sup.loss = 0 from h']
      rfl
    · exact hlost (hj.trans ((spec (runAfter_true _ h) rfl).2.2 (by show 2 ≤ u.loss + 1; omega))) rfl rfl
  · have hj := judged.trans (show (s.takeSample vsen hsen).judgeSupply = (s.takeSample vsen hsen).judgeHoldup by
      unfold State.judgeSupply
      rw [show (s.takeSample vsen hsen).sup.state = .holdup from hst])
    exact ⟨fun h => moves (hj.trans (if_pos h)) rfl, fun h => hreturn (hj.trans (if_neg (Nat.not_lt.2 h)))⟩
  · refine hreturn (judged.trans ?_)
    unfold State.judgeSupply
    rw [show (s.takeSample vsen hsen).sup.state = .dark from hst]

end Sys2Proof.Machine
end

section
/-!
PROOF. Starts begun and decided (O52, O53): the class and the tag choose the voice, and the outcome goes to its requester (R98, R101 to
R105, R119, R130).
-/
set_option Elab.async false

namespace Sys2Proof.Machine

/-! ### Voices set and freed -/

theorem Octet.ext_get {α : Type} {o p : Octet α} (h : ∀ i, o.get i = p.get i) : o = p := by
  cases o
  cases p
  have h0 := h 0
  have h1 := h 1
  have h2 := h 2
  have h3 := h 3
  have h4 := h 4
  have h5 := h 5
  have h6 := h 6
  have h7 := h 7
  simp only [Octet.get] at h0 h1 h2 h3 h4 h5 h6 h7
  simp only [h0, h1, h2, h3, h4, h5, h6, h7]

theorem Octet.set_set {α : Type} (o : Octet α) (v : Fin 8) (x y : α) : (o.set v x).set v y = o.set v y := by
  refine Octet.ext_get fun i => ?_
  simp only [Octet.get_set_if]
  split <;> rfl

/-- What the end of a voice leaves, active or not, where a start on it follows (R110): the voice's own record is not looked at. -/
theorem State.endVoice_replaced (s : State) (v : Fin 8) (reason : EndReason) :
    s.endVoice v reason = { s with
      exc := { s.exc with nlat := (s.endVoice v reason).exc.nlat }, snd := (s.endVoice v reason).snd }
    ∧ ∀ x, (s.endVoice v reason).snd.voices.set v x = s.snd.voices.set v x := by
  have told := s.endVoice_told v reason
  have only := State.endVoice_soundOnly s v reason
  refine ⟨?_, fun x => ?_⟩
  · unfold soundOnly at only
    have hs : (s.endVoice v reason).exc.scan = s.exc.scan := by rw [told.exc]
    rw [hs] at only
    exact only
  · cases ha : (s.voice v).active with
    | true =>
      obtain ⟨-, h, -⟩ := State.endVoice_ended reason ha
      rw [h, Octet.set_set]
    | false => rw [State.endVoice_free reason ha]

/-! ### Outcomes handed back -/

/-- A start's own effects on the sound engine, with their notice, keep no outcome from its requester. -/
theorem State.Answers.after {s u : State} {asker : Requester} (h : s.Answers asker)
    (hu : u = { s with snd := u.snd, exc := { s.exc with nlat := u.exc.nlat } }) : u.Answers asker := by
  obtain ⟨h1, h2⟩ := h
  have hexc : u.exc = { s.exc with nlat := u.exc.nlat } := congrArg State.exc hu
  refine ⟨fun w hw => h1 w ?_, fun ha => ?_⟩
  · rw [hexc] at hw
    exact hw
  · obtain ⟨c1, ⟨kind, c2⟩, c3, c4, c5⟩ := h2 ha
    refine ⟨?_, ⟨kind, ?_⟩, ?_, ?_, ?_⟩
    · rw [hu]; exact c1
    · rw [hexc]; exact c2
    · rw [hu]; exact c3
    · rw [hexc]; exact c4
    · unfold State.inboxWaits at c5 ⊢
      rw [hexc]
      exact c5

theorem State.soundInactive_iff (s : State) :
    s.soundInactive = true ↔ s.exc.part = .idle ∨ s.exc.part = .halted ∨ s.sup.state = .dark := by
  unfold State.soundInactive
  simp only [Bool.or_eq_true, beq_iff_eq, or_assoc]

theorem Clip.valid_iff (c : Clip) : c.valid = true ↔ 1 ≤ c.length ∧ 0x2800 ≤ c.start ∧ c.start + c.length ≤ 0x80000
    ∧ (c.loopEnd = 0 ∨ (c.loopStart < c.loopEnd ∧ c.loopEnd ≤ c.length)) := by
  unfold Clip.valid
  simp only [Bool.and_eq_true, decide_eq_true_iff, Bool.or_eq_true, beq_iff_eq, and_assoc]

theorem exec_startDecided {s : State} {w : StartWork} (hw : s.snd.current = some w) (hl : w.words.length = 4) :
    exec .startDecided s = finish ((s.decideStart w (Clip.ofWords w.words)).1.endStart w.req.asker
      (s.decideStart w (Clip.ofWords w.words)).2) := by
  have hd : w.descriptor s.mem = Clip.ofWords w.words := by
    unfold StartWork.descriptor
    rw [hl]
    rfl
  show execStartDecided s = _
  unfold execStartDecided
  rw [hw]
  dsimp only
  rw [hd]

/-- A decided start's outcome reaches its requester (R119). -/
theorem State.decided {s u : State} {w : StartWork} {o : StartOutcome} (ha : s.Answers w.req.asker) (hw : s.snd.current = some w)
    (hl : w.words.length = 4) (ho : o ≠ .refused .none) (hd : s.decideStart w (Clip.ofWords w.words) = (u, o))
    (hu : u = { s with snd := u.snd, exc := { s.exc with nlat := u.exc.nlat } }) :
    ∃ t, exec .startDecided s = .next t
      ∧ OutcomeHanded { u with snd := { u.snd with current := none } } t w.req.asker (outcomeReason o).code := by
  rw [exec_startDecided hw hl, hd]
  exact State.endStart_handed o ho (ha.after hu)

/-! ### Starts begun (R101) -/

theorem StartReq.paramsOk_iff (r : StartReq) : r.paramsOk = true ↔
    1 ≤ r.pitch ∧ r.pitch ≤ 1023 ∧ r.volume ≤ 255 ∧ r.priority ≤ 7 ∧ r.clip ≤ 127 := decide_eq_true_iff

/-- The oldest waiting start taken (R101). -/
theorem startBegin_spec {s : State} {r : StartReq} {rest : List StartReq} (ha : s.Answers r.asker) (hc : s.snd.current = none)
    (hq : s.snd.queue = r :: rest) :
    let inactive := s.exc.part = .idle ∨ s.exc.part = .halted ∨ s.sup.state = .dark
    let begun : State := { s with snd := { s.snd with queue := rest } }
    (inactive → ∃ t, exec .startBegin s = .next t ∧ OutcomeHanded begun t r.asker 3)
    ∧ (¬ inactive → r.paramsOk = false → ∃ t, exec .startBegin s = .next t ∧ OutcomeHanded begun t r.asker 7)
    ∧ (¬ inactive → r.paramsOk = true →
      exec .startBegin s = .next { s with snd := { s.snd with queue := rest, current := some { req := r } } }) := by
  intro inactive begun
  obtain ⟨u, hu⟩ : ∃ u, ({ s with snd := { s.snd with queue := rest, current := some { req := r } } } : State) = u := ⟨_, rfl⟩
  have he : exec .startBegin s = finish (s.beginStart r rest) := by
    show execStartBegin s = _
    unfold execStartBegin
    rw [hc, hq]
  have hi : u.soundInactive = true ↔ inactive := by rw [u.soundInactive_iff, ← hu]
  have hau : u.Answers r.asker := ha.after (by rw [← hu])
  have hbegun : ({ u with snd := { u.snd with current := none } } : State) = begun := by
    rw [← hu]
    exact congrArg (fun x => ({ s with snd := { s.snd with queue := rest, current := x } } : State)) hc.symm
  have hb : s.beginStart r rest = if u.soundInactive then u.endStart r.asker (.refused .inactive)
      else if r.paramsOk = false then u.endStart r.asker (.refused .badParam) else u := by
    rw [← hu]
    rfl
  rw [he, hb, hu]
  refine ⟨fun h => ?_, fun h h2 => ?_, fun h h2 => ?_⟩
  · rw [if_pos (hi.2 h), ← hbegun]
    exact State.endStart_handed (.refused .inactive) (by simp) hau
  · rw [if_neg (fun x => h (hi.1 x)), if_pos h2, ← hbegun]
    exact State.endStart_handed (.refused .badParam) (by simp) hau
  · rw [if_neg (fun x => h (hi.1 x)), if_neg (by rw [h2]; decide)]
    exact finish_idle hau.quiet

/-! ### Pool voices chosen (R103, R104) -/

theorem State.restartVoice_untagged {s : State} {r : StartReq}
    (h : r.tag = 0 ∨ ∀ v, v ∈ poolVoices → (s.voice v).active = true → (s.voice v).tag ≠ r.tag) : s.restartVoice r = none := by
  unfold State.restartVoice
  split
  · rfl
  · next hn =>
    refine List.find?_eq_none.2 fun v hv => ?_
    have := (h.resolve_left hn) v hv
    simpa using this

/-- The lowest-numbered FREE pool voice (R104). -/
theorem State.freePoolVoice_of {s : State} {v : Fin 8} (hv : v ∈ poolVoices) (hf : (s.voice v).active = false)
    (hl : ∀ u, u ∈ poolVoices → u < v → (s.voice u).active = true) : s.freePoolVoice = some v := by
  obtain ⟨l, r, hlr⟩ := List.append_of_mem hv
  have sorted : (l ++ v :: r).Pairwise (· < ·) := hlr ▸ (by decide : poolVoices.Pairwise (· < ·))
  have before : ∀ u ∈ l, u < v := fun u hu => (List.pairwise_append.1 sorted).2.2 u hu v List.mem_cons_self
  refine List.find?_eq_some_iff_append.2 ⟨by rw [hf]; rfl, l, r, hlr, fun u hu => ?_⟩
  rw [hl u (hlr ▸ List.mem_append_left _ hu) (before u hu)]
  rfl

theorem State.freePoolVoice_none {s : State} (h : ∀ v, v ∈ poolVoices → (s.voice v).active = true) : s.freePoolVoice = none :=
  List.find?_eq_none.2 fun v hv => by rw [h v hv]; decide

/-- One step of the arbiter's search for a victim (R104). -/
def victimStep (prio : Fin 8 → Nat) (limit : Nat) (best : Option (Fin 8)) (v : Fin 8) : Option (Fin 8) :=
  if prio v < limit then
    match best with
    | none => some v
    | some b => if prio v < prio b then some v else best
  else best

theorem victimOf_eq (prio : Fin 8 → Nat) (limit : Nat) (order : List (Fin 8)) :
    victimOf prio limit order = order.foldl (victimStep prio limit) none := rfl

theorem victimOf_none {prio : Fin 8 → Nat} {limit : Nat} {order : List (Fin 8)} (h : ∀ v ∈ order, limit ≤ prio v) :
    victimOf prio limit order = none := by
  rw [victimOf_eq]
  induction order with
  | nil => rfl
  | cons v rest ih =>
    rw [List.foldl_cons, show victimStep prio limit none v = none from if_neg (Nat.not_lt.2 (h v List.mem_cons_self))]
    exact ih fun w hw => h w (List.mem_cons_of_mem _ hw)

/-- The victim is the voice of lowest priority, the earliest started among equals (R104). -/
theorem victimOf_split {prio : Fin 8 → Nat} {limit : Nat} {before after : List (Fin 8)} {v : Fin 8} (hv : prio v < limit)
    (hb : ∀ u ∈ before, prio v < prio u) (ha : ∀ u ∈ after, prio v ≤ prio u) : victimOf prio limit (before ++ v :: after) = some v := by
  have earlier (l : List (Fin 8)) (hl : ∀ u ∈ l, prio v < prio u) : ∀ best : Option (Fin 8), (∀ b, best = some b → prio v < prio b) →
      ∀ b, l.foldl (victimStep prio limit) best = some b → prio v < prio b := by
    induction l with
    | nil => exact fun _ h => h
    | cons u rest ih =>
      intro best h
      refine ih (fun w hw => hl w (List.mem_cons_of_mem _ hw)) _ fun b hstep => ?_
      have hu := hl u List.mem_cons_self
      unfold victimStep at hstep
      split at hstep
      · split at hstep
        · rw [← Option.some.inj hstep]; exact hu
        · split at hstep
          · rw [← Option.some.inj hstep]; exact hu
          · exact h b hstep
      · exact h b hstep
  have later (l : List (Fin 8)) (hl : ∀ u ∈ l, prio v ≤ prio u) : l.foldl (victimStep prio limit) (some v) = some v := by
    induction l with
    | nil => rfl
    | cons u rest ih =>
      have hs : victimStep prio limit (some v) u = some v := by
        unfold victimStep
        dsimp only
        rw [if_neg (Nat.not_lt.2 (hl u List.mem_cons_self)), ite_self]
      rw [List.foldl_cons, hs]
      exact ih fun w hw => hl w (List.mem_cons_of_mem _ hw)
  rw [victimOf_eq, List.foldl_append, List.foldl_cons]
  have hbest := earlier before hb none (fun _ h => (nomatch h))
  generalize before.foldl (victimStep prio limit) none = best at hbest
  have hs : victimStep prio limit best v = some v := by
    unfold victimStep
    rw [if_pos hv]
    cases best with
    | none => rfl
    | some b => exact if_pos (hbest b rfl)
  rw [hs]
  exact later after ha

end Sys2Proof.Machine
end

section
/-!
PROOF. Starts decided (O52, O53): restarts in place, FREE voices, victims and refusals (R102 to R105).
-/
set_option Elab.async false

namespace Sys2Proof.Machine

/-- The voice record of a start (R105), with the priority and the tag that its class gives it. -/
def StartWork.made (w : StartWork) (priority : Nat) (tag : Half) : Voice :=
  let c := Clip.ofWords w.words
  { state := if c.loopEnd ≠ 0 ∧ w.req.loop = true then (if w.req.mark then .released else .looping) else .playing,
    clip := w.req.clip, copy := c, pos := 0, pitch := w.req.pitch, volume := w.req.volume, priority := priority, tag := tag }

theorem startedVoice_pool {w : StartWork} (h : w.req.cls = .pool) :
    startedVoice (Clip.ofWords w.words) w.req = w.made w.req.priority w.req.tag := by
  unfold startedVoice
  rw [if_pos h, if_pos h]
  rfl

theorem startedVoice_fixed {w : StartWork} (h : w.req.cls ≠ .pool) : startedVoice (Clip.ofWords w.words) w.req = w.made 0 0 := by
  unfold startedVoice
  rw [if_neg h, if_neg h]
  rfl

/-- A start decided in an active sound engine with a valid descriptor goes by its class. -/
theorem State.decideStart_class {s : State} {w : StartWork}
    (hi : ¬ (w.doomed = true ∨ s.exc.part = .idle ∨ s.exc.part = .halted ∨ s.sup.state = .dark))
    (hv : (Clip.ofWords w.words).valid = true) :
    s.decideStart w (Clip.ofWords w.words) = s.decideClass (Clip.ofWords w.words) w.req := by
  unfold State.decideStart
  rw [if_neg (by rw [s.soundInactive_iff]; exact hi), if_neg (by rw [hv]; decide)]

/-- The state that a start on a voice whose own start ends leaves, once the start is no longer in progress (R102 to R105). -/
theorem State.replaceOn_spec {s : State} {v : Fin 8} (reason : EndReason) {w : StartWork} (hp : w.req.cls = .pool) (ho : s.orderOk)
    (ha : (s.voice v).active = true) :
    let u := s.replaceOn v reason (Clip.ofWords w.words) w.req
    u = { s with snd := u.snd, exc := { s.exc with nlat := u.exc.nlat } } ∧ VoiceEnded s u v reason
    ∧ u.snd = { s.snd with
        voices := s.snd.voices.set v (w.made w.req.priority w.req.tag), order := s.snd.order.erase v ++ [v],
        endList := u.snd.endList, endCount := u.snd.endCount, squeal := u.snd.squeal } := by
  obtain ⟨e1, e2⟩ := s.endVoice_replaced v reason
  obtain ⟨he, -, horder⟩ := State.endVoice_ended reason ha
  have told := (s.endVoice_told v reason).sound
  have hu : s.replaceOn v reason (Clip.ofWords w.words) w.req = { s.endVoice v reason with snd := { (s.endVoice v reason).snd with
      voices := (s.endVoice v reason).snd.voices.set v (w.made w.req.priority w.req.tag),
      order := (s.endVoice v reason).snd.order.erase v ++ [v] } } := by
    unfold State.replaceOn State.startOn
    rw [startedVoice_pool hp]
    exact if_pos hp
  intro u
  have hu' : u = _ := hu
  clear_value u
  generalize s.endVoice v reason = x at *
  have hx : x.snd.order.erase v = s.snd.order.erase v := by
    rw [horder]
    exact List.erase_of_not_mem (ho.1.not_mem_erase)
  refine ⟨?_, ⟨fun h => ?_, fun h => ?_, ?_⟩, ?_⟩
  · rw [hu', e1]
  · rw [hu']
    exact he.untagged h
  · rw [hu']
    exact he.tagged h
  · rw [hu']
    exact he.squeal
  · rw [hu']
    dsimp only
    rw [e2, hx, told]

/-- A start on a FREE pool voice (R105). -/
theorem State.startOn_free {s : State} {v : Fin 8} {w : StartWork} (hp : w.req.cls = .pool) (ho : s.orderOk)
    (ha : (s.voice v).active = false) : s.startOn v (Clip.ofWords w.words) w.req = { s with snd := { s.snd with
      voices := s.snd.voices.set v (w.made w.req.priority w.req.tag), order := s.snd.order ++ [v] } } := by
  have hv : v ∉ s.snd.order := fun h => by
    have := ((ho.2 v).1 h).2
    rw [ha] at this
    exact absurd this (by decide)
  unfold State.startOn
  rw [startedVoice_pool hp]
  refine (if_pos hp).trans ?_
  show ({ s with snd := { s.snd with voices := s.snd.voices.set v _, order := s.snd.order.erase v ++ [v] } } : State) = _
  rw [List.erase_of_not_mem hv]

/-- A start on the chuff or the background voice, which carry no tag (R102, R110). -/
theorem State.replaceOn_fixed {s : State} {v : Fin 8} {w : StartWork} (hp : w.req.cls ≠ .pool) (ht : (s.voice v).tag = 0) :
    let u := s.replaceOn v .cut (Clip.ofWords w.words) w.req
    u = { s with snd := u.snd } ∧ u.snd = { s.snd with voices := s.snd.voices.set v (w.made 0 0), order := u.snd.order }
    ∧ (v ∉ s.snd.order → u.snd.order = s.snd.order) := by
  obtain ⟨e1, e2⟩ := s.endVoice_replaced v .cut
  have told := (s.endVoice_told v .cut).sound
  have hu : s.replaceOn v .cut (Clip.ofWords w.words) w.req = { s.endVoice v .cut with snd := { (s.endVoice v .cut).snd with
      voices := (s.endVoice v .cut).snd.voices.set v (w.made 0 0) } } := by
    unfold State.replaceOn State.startOn
    rw [startedVoice_fixed hp]
    exact if_neg hp
  have hk : (s.endVoice v .cut).exc = s.exc ∧ (s.endVoice v .cut).snd.endList = s.snd.endList
      ∧ (s.endVoice v .cut).snd.endCount = s.snd.endCount ∧ (s.endVoice v .cut).snd.squeal = s.snd.squeal
      ∧ (v ∉ s.snd.order → (s.endVoice v .cut).snd.order = s.snd.order) := by
    cases ha : (s.voice v).active with
    | false =>
      rw [State.endVoice_free .cut ha]
      exact ⟨rfl, rfl, rfl, rfl, fun _ => rfl⟩
    | true =>
      obtain ⟨he, -, ho⟩ := State.endVoice_ended .cut ha
      obtain ⟨h1, h2, h3⟩ := he.untagged ht
      refine ⟨h3, h1, h2, ?_, fun hv => by rw [ho]; exact List.erase_of_not_mem hv⟩
      rw [he.squeal, if_neg (fun x => absurd (ht.symm.trans x.1) (by decide))]
  intro u
  have hu' : u = _ := hu
  clear_value u
  generalize s.endVoice v .cut = x at *
  obtain ⟨k1, k2, k3, k4, k5⟩ := hk
  refine ⟨?_, ?_, fun h => ?_⟩
  · rw [k1] at e1
    rw [hu', e1]
  · rw [hu']
    dsimp only
    rw [e2, told, k2, k3, k4]
  · rw [hu']
    exact k5 h

/-- Settles O53: `victimOf` finds the voice that the order and the priorities single out. -/
theorem poolSteals : Obligations.PoolSteals := by
  unfold Obligations.PoolSteals
  intro s w before after v ha hw hl hd hi hh hs hp ht hv hall ho hsplit hlow hb haf c made
  have hva : (s.voice v).active = true := ((ho.2 v).1 (by rw [hsplit]; simp)).2
  have hdec : s.decideStart w (Clip.ofWords w.words) = (s.replaceOn v .stolen (Clip.ofWords w.words) w.req, .started v) := by
    rw [State.decideStart_class (by simp [hd, hi, hh, hs]) hv]
    unfold State.decideClass
    rw [hp]
    show s.decidePool _ _ = _
    unfold State.decidePool
    rw [State.restartVoice_untagged (ht.imp_right fun h u hu _ => h u hu), State.freePoolVoice_none hall, hsplit,
      victimOf_split hlow hb haf]
  obtain ⟨h1, h2, h3⟩ := s.replaceOn_spec .stolen hp ho hva
  obtain ⟨t, h4, h5⟩ := State.decided ha hw hl (by simp) hdec h1
  generalize s.replaceOn v .stolen (Clip.ofWords w.words) w.req = u at h1 h2 h3 h5
  have herase : s.snd.order.erase v = before ++ after := by
    have hn : v ∉ before := fun h => by
      have := hsplit ▸ ho.1
      exact (List.nodup_append.1 this).2.2 v h v List.mem_cons_self rfl
    rw [hsplit, List.erase_append_right _ hn, List.erase_cons_head]
  rw [herase] at h3
  refine ⟨_, t, h4, h5, ?_, ⟨h2.untagged, h2.tagged, h2.squeal⟩, ?_⟩
  · dsimp only
    rw [h1]
  · dsimp only
    rw [h3]
    rfl

/-- Settles O52: `decideStart` by class, tag and voice. -/
theorem startsBeginAndDecide : Obligations.StartsBeginAndDecide := by
  unfold Obligations.StartsBeginAndDecide
  refine ⟨fun s r rest ha hc hq => ?_, fun s w ha hw hl => ?_⟩
  · intro inactive ok begun
    obtain ⟨h1, h2, h3⟩ := startBegin_spec ha hc hq
    exact ⟨h1, fun h h' => h2 h (by rw [← Bool.not_eq_true, r.paramsOk_iff]; exact h'), fun h h' => h3 h (r.paramsOk_iff.2 h')⟩
  · intro inactive c valid made refused
    have hvalid : c.valid = true ↔ valid := c.valid_iff
    have pool (hi : ¬ inactive) (hv : valid) (hp : w.req.cls = .pool) :
        s.decideStart w (Clip.ofWords w.words) = s.decidePool (Clip.ofWords w.words) w.req := by
      rw [State.decideStart_class hi (hvalid.2 hv)]
      unfold State.decideClass
      rw [hp]
    refine ⟨fun hi => ?_, fun hi hv => ?_, fun hi hv hp h0 h1 => ?_, fun hi hv hp ho => ⟨fun v ht hto hvp hva hvt => ?_, fun ht => ⟨fun v hvp hvf hlow => ?_, fun hall hprio => ?_⟩⟩⟩
    · have hd : s.decideStart w (Clip.ofWords w.words) = (s, .refused .inactive) := if_pos (by rw [s.soundInactive_iff]; exact hi)
      exact State.decided ha hw hl (by simp) hd rfl
    · have hd : s.decideStart w (Clip.ofWords w.words) = (s, .refused .badClip) := by
        unfold State.decideStart
        rw [if_neg (by rw [s.soundInactive_iff]; exact hi), if_pos (by rw [← Bool.not_eq_true, hvalid]; exact hv)]
      exact State.decided ha hw hl (by simp) hd rfl
    · have fixed (v : Fin 8) (hd : s.decideStart w (Clip.ofWords w.words) = (s.replaceOn v .cut (Clip.ofWords w.words) w.req, .started v))
          (ht : (s.voice v).tag = 0) : ∃ u t, exec .startDecided s = .next t ∧ OutcomeHanded u t w.req.asker 0 ∧ u = { s with snd := u.snd }
          ∧ u.snd = { s.snd with current := none, voices := u.snd.voices, order := u.snd.order }
          ∧ (v ∉ s.snd.order → u.snd.order = s.snd.order) ∧ u.snd.voices = s.snd.voices.set v (made 0 0) := by
        obtain ⟨g1, g2, g3⟩ := s.replaceOn_fixed hp ht
        have g4 : s.replaceOn v .cut (Clip.ofWords w.words) w.req = { s with
            snd := (s.replaceOn v .cut (Clip.ofWords w.words) w.req).snd,
            exc := { s.exc with nlat := (s.replaceOn v .cut (Clip.ofWords w.words) w.req).exc.nlat } } := by
          have hexc := congrArg State.exc g1
          dsimp only at hexc
          rw [hexc]
          exact g1
        obtain ⟨t, h4, h5⟩ := State.decided ha hw hl (by simp) hd g4
        generalize s.replaceOn v .cut (Clip.ofWords w.words) w.req = u at g1 g2 g3 h5
        refine ⟨_, t, h4, h5, ?_, ?_, g3, ?_⟩
        · dsimp only
          rw [g1]
        · dsimp only
          rw [g2]
        · dsimp only
          rw [g2]
          rfl
      have hd := State.decideStart_class hi (hvalid.2 hv)
      unfold State.decideClass at hd
      cases hc : w.req.cls with
      | pool => exact absurd hc hp
      | chuff =>
        rw [hc] at hd
        obtain ⟨u, t, g1, g2, g3, g4, g5, g6⟩ := fixed 0 hd h0
        exact ⟨u, t, g1, g2, g3, g4, fun a _ => g5 a, g6⟩
      | background =>
        rw [hc] at hd
        obtain ⟨u, t, g1, g2, g3, g4, g5, g6⟩ := fixed 1 hd h1
        exact ⟨u, t, g1, g2, g3, g4, fun _ a => g5 a, g6⟩
    · have hd : s.decideStart w (Clip.ofWords w.words) = (s.replaceOn v .cut (Clip.ofWords w.words) w.req, .started v) := by
        rw [pool hi hv hp]
        have hr : s.restartVoice w.req = some v := by
          unfold State.restartVoice
          rw [if_neg ht]
          exact State.taggedVoice_of ht hto hva hvt
        unfold State.decidePool
        rw [hr]
      obtain ⟨h1, h2, h3⟩ := s.replaceOn_spec .cut hp ho hva
      obtain ⟨t, h4, h5⟩ := State.decided ha hw hl (by simp) hd h1
      generalize s.replaceOn v .cut (Clip.ofWords w.words) w.req = u at h1 h2 h3 h5
      refine ⟨_, t, h4, h5, ?_, ⟨h2.untagged, h2.tagged, h2.squeal⟩, ?_⟩
      · dsimp only
        rw [h1]
      · dsimp only
        rw [h3]
        rfl
    · have hd : s.decideStart w (Clip.ofWords w.words) = (s.startOn v (Clip.ofWords w.words) w.req, .started v) := by
        rw [pool hi hv hp]
        unfold State.decidePool
        rw [State.restartVoice_untagged ht, State.freePoolVoice_of hvp hvf hlow]
      rw [State.startOn_free hp ho hvf] at hd
      obtain ⟨t, h4, h5⟩ := State.decided ha hw hl (by simp) hd rfl
      exact ⟨t, h4, h5⟩
    · have hd : s.decideStart w (Clip.ofWords w.words) = (s, .refused .noVoice) := by
        rw [pool hi hv hp]
        unfold State.decidePool
        rw [State.restartVoice_untagged ht, State.freePoolVoice_none hall, victimOf_none hprio]
      exact State.decided ha hw hl (by simp) hd rfl

end Sys2Proof.Machine
end

section
/-!
PROOF. OUTPUT_SAMPLE_TIMER and CARRIER_PERIOD_START (O51): the voices' parts in an expiry are their advances, followed by the ends of
those that have reached their clip ends (R106, R107, R110 to R114).
-/
set_option Elab.async false

namespace Sys2Proof.Machine

/-! ### One voice -/

/-- A voice that plays out at this expiry (R110). -/
def Voice.endsNow (x : Voice) : Bool := x.active && x.advance.atEnd

theorem Voice.endsNow_iff (x : Voice) : x.endsNow
    = decide ((x.state = .playing ∨ x.state = .released) ∧ 256 * x.copy.length ≤ x.pos + x.pitch) := by
  unfold Voice.endsNow Voice.active Voice.atEnd Voice.advance
  have hp : (VoiceState.playing != .free) = true ∧ (VoiceState.playing != .looping) = true := by decide
  have hr : (VoiceState.released != .free) = true ∧ (VoiceState.released != .looping) = true := by decide
  cases h : x.state <;> simp [hp, hr, Nat.mul_comm]

/-- A position in its loop after the pitch step (R107). -/
theorem loopBack_spec (c : Clip) (p : Nat) (h : c.loopStart < c.loopEnd) : ∃ n, loopBack c p + n * ((c.loopEnd - c.loopStart) * 256) = p
    ∧ loopBack c p < c.loopEnd * 256 ∧ (0 < n → c.loopStart * 256 ≤ loopBack c p) := by
  unfold loopBack
  dsimp only
  obtain ⟨l, hl⟩ : ∃ l, l = (c.loopEnd - c.loopStart) * 256 := ⟨_, rfl⟩
  obtain ⟨e, he⟩ : ∃ e, e = c.loopEnd * 256 := ⟨_, rfl⟩
  rw [← hl, ← he]
  have hl0 : 0 < l := by omega
  have hle : c.loopStart * 256 + l = e := by omega
  by_cases hp : p < e
  · rw [if_pos hp]
    exact ⟨0, by omega, hp, fun h => absurd h (by omega)⟩
  · rw [if_neg hp]
    refine ⟨(p - e) / l + 1, ?_⟩
    have h1 := Nat.div_add_mod (p - e) l
    have h2 := Nat.mod_lt (p - e) hl0
    have h3 : l * ((p - e) / l + 1) = l * ((p - e) / l) + l := Nat.mul_succ _ _
    have h4 : ((p - e) / l + 1) * l = l * ((p - e) / l + 1) := Nat.mul_comm _ _
    rw [h4, h3]
    generalize l * ((p - e) / l) = q at *
    generalize (p - e) % l = r at *
    omega

/-! ### Voices advanced, then ended -/

/-- The voices of a list advanced by their pitch steps (R106, R107). -/
def State.advanced (s : State) (l : List (Fin 8)) : State :=
  { s with snd := { s.snd with voices := Octet.ofFn fun v => if v ∈ l ∧ (s.voice v).active = true then (s.voice v).advance else s.voice v } }

theorem State.advanced_voice (s : State) (l : List (Fin 8)) (v : Fin 8) :
    (s.advanced l).voice v = if v ∈ l ∧ (s.voice v).active = true then (s.voice v).advance else s.voice v := Octet.get_ofFn _ v

theorem State.setVoices_eq (s : State) {p q : Octet Voice} (h : ∀ v, p.get v = q.get v) :
    ({ s with snd := { s.snd with voices := p } } : State) = { s with snd := { s.snd with voices := q } } := by
  rw [Octet.ext_get h]

/-- The end of a voice does not look at the other voices (R110). -/
theorem State.endVoice_setVoices (s : State) (v : Fin 8) (reason : EndReason) (p : Octet Voice) (hp : p.get v = s.voice v) :
    ({ s with snd := { s.snd with voices := p } } : State).endVoice v reason
      = { s.endVoice v reason with snd := { (s.endVoice v reason).snd with
          voices := if (s.voice v).active then p.set v {} else p } } := by
  have hv : ({ s with snd := { s.snd with voices := p } } : State).voice v = s.voice v := hp
  unfold State.endVoice
  dsimp only
  rw [hv]
  cases (s.voice v).active with
  | false => rfl
  | true =>
    unfold State.recordEnd
    by_cases ht : (s.voice v).tag = 0
    · simp only [if_pos ht]
      rfl
    · simp only [if_neg ht]
      rfl

/-- Voice `v` played, and then the voices of `l` advanced: as if `v` had ended after all had advanced. -/
theorem State.playVoice_advanced (s : State) (sum : Int) {v : Fin 8} {l : List (Fin 8)} (hv : v ∉ l) :
    ((State.playVoice v (s, sum)).1.advanced l) = (if (s.voice v).endsNow then (s.advanced (v :: l)).endVoice v .playedOut
      else s.advanced (v :: l))
    ∧ (∀ w, w ≠ v → (State.playVoice v (s, sum)).1.voice w = s.voice w) ∧ (State.playVoice v (s, sum)).1.mem = s.mem
    ∧ (State.playVoice v (s, sum)).2 = sum + if (s.voice v).active then (s.voice v).contribution s.mem else 0 := by
  have hone : s.advanced [v] = if (s.voice v).active then s.setVoice v (s.voice v).advance else s := by
    split
    · next ha =>
      refine s.setVoices_eq fun w => ?_
      rw [Octet.get_ofFn, Octet.get_set_if]
      by_cases hw : w = v
      · subst hw
        simp [ha]
      · simp [hw, State.voice]
    · next ha =>
      refine (s.setVoices_eq (q := s.snd.voices) fun w => ?_).trans rfl
      rw [Octet.get_ofFn]
      by_cases hw : w = v
      · subst hw
        rw [if_neg fun x => ha x.2]
        rfl
      · simp [hw, State.voice]
  have hplay : State.playVoice v (s, sum) = (if (s.voice v).endsNow then (s.advanced [v]).endVoice v .playedOut else s.advanced [v],
      sum + if (s.voice v).active then (s.voice v).contribution s.mem else 0) := by
    unfold State.playVoice Voice.endsNow
    rw [hone]
    dsimp only
    cases ha : (s.voice v).active with
    | false => simp
    | true => simp
  rw [hplay]
  have hvv : ∀ w, w ≠ v → (s.advanced [v]).voice w = s.voice w := fun w hw => by
    rw [State.advanced_voice]
    simp [hw]
  have twice : (s.advanced [v]).advanced l = s.advanced (v :: l) := by
    refine State.setVoices_eq s fun w => ?_
    rw [Octet.get_ofFn, Octet.get_ofFn]
    by_cases hw : w = v
    · subst hw
      simp [hv, State.advanced_voice]
    · simp [hw, hvv w hw]
  by_cases he : (s.voice v).endsNow = true
  · rw [if_pos he, if_pos he]
    obtain ⟨a, ha⟩ : ∃ a, s.advanced [v] = a := ⟨_, rfl⟩
    rw [ha] at twice hvv ⊢
    have haa : (a.voice v).active = true := by
      rw [← ha, State.advanced_voice]
      have hsv : (s.voice v).active = true := ((Bool.and_eq_true _ _).mp he).1
      rw [if_pos ⟨List.mem_singleton_self v, hsv⟩]
      exact hsv
    obtain ⟨-, hend, -⟩ := State.endVoice_ended .playedOut haa
    have hothers := (a.endVoice_others v .playedOut).2.1
    refine ⟨?_, fun w hw => (hothers w hw).trans (hvv w hw), ?_, rfl⟩
    · rw [← twice]
      have hself : (a.advanced l).snd.voices.get v = a.voice v := by
        have := a.advanced_voice l v
        simp only [hv, false_and, if_false] at this
        exact this
      have e := a.endVoice_setVoices v .playedOut (a.advanced l).snd.voices hself
      rw [if_pos haa] at e
      have e' : (a.advanced l).endVoice v .playedOut = _ := e
      rw [e']
      refine State.setVoices_eq (a.endVoice v .playedOut) fun w => ?_
      rw [Octet.get_ofFn, Octet.get_set_if]
      by_cases hw : w = v
      · subst hw
        have : (a.endVoice w .playedOut).voice w = {} := by
          rw [(a.endVoice_others w .playedOut).1, if_pos haa]
        simp [hv, this]
      · rw [if_neg hw, hothers w hw]
        exact (a.advanced_voice l w).symm
    · rw [(State.endVoice_soundOnly a v .playedOut).fields.2.2.2.2.2.2.2.2.2.1, ← ha]
      rfl
  · rw [if_neg he, if_neg he]
    exact ⟨twice, hvv, rfl, rfl⟩

/-- The contribution of a voice to an expiry's sum (R106, R112). -/
def State.partOf (s : State) (v : Fin 8) : Int := if (s.voice v).active then (s.voice v).contribution s.mem else 0

theorem State.playVoices_eq (l : List (Fin 8)) (hn : l.Nodup) (s : State) (sum : Int) : State.playVoices l (s, sum)
    = (State.endVoices .playedOut (l.filter fun v => (s.voice v).endsNow) (s.advanced l), sum + (l.map s.partOf).sum) := by
  induction l generalizing s sum with
  | nil =>
    have : s.advanced [] = s := (s.setVoices_eq (q := s.snd.voices) fun w => by rw [Octet.get_ofFn]; simp [State.voice]).trans rfl
    rw [this]
    simp [State.playVoices, State.endVoices]
  | cons v rest ih =>
    obtain ⟨hv, hr⟩ := List.nodup_cons.mp hn
    obtain ⟨h1, h2, h3, h4⟩ := s.playVoice_advanced sum hv
    show State.playVoices rest (State.playVoice v (s, sum)) = _
    generalize State.playVoice v (s, sum) = p at *
    obtain ⟨u, sum'⟩ := p
    dsimp only at h1 h2 h3 h4
    have hrest : ∀ w ∈ rest, u.voice w = s.voice w := fun w hw => h2 w fun e => hv (e ▸ hw)
    rw [ih hr u sum', h1, h4]
    have hf : rest.filter (fun w => (u.voice w).endsNow) = rest.filter (fun w => (s.voice w).endsNow) :=
      List.filter_congr fun w hw => by rw [hrest w hw]
    have hm : rest.map u.partOf = rest.map s.partOf := List.map_congr_left fun w hw => by
      unfold State.partOf
      rw [hrest w hw, h3]
    rw [hf, hm, List.map_cons, List.sum_cons]
    refine Prod.ext ?_ (Int.add_assoc _ _ _)
    dsimp only
    by_cases he : (s.voice v).endsNow = true
    · rw [if_pos he, List.filter_cons_of_pos (p := fun w => (s.voice w).endsNow) he]
      rfl
    · rw [if_neg he, List.filter_cons_of_neg (p := fun w => (s.voice w).endsNow) he]

/-! ### The expiry (R106, R110 to R113) -/

/-- Voices that end leave the start order list (R110). -/
theorem State.endVoices_order (reason : EndReason) (l : List (Fin 8)) (hn : l.Nodup) (s : State) (ha : ∀ v ∈ l, (s.voice v).active = true)
    (ho : s.snd.order.Nodup) : (State.endVoices reason l s).snd.order = s.snd.order.filter fun v => !l.contains v := by
  induction l generalizing s with
  | nil => exact (List.filter_eq_self.mpr fun _ _ => rfl).symm
  | cons v rest ih =>
    obtain ⟨hv, hr⟩ := List.nodup_cons.mp hn
    obtain ⟨-, -, horder⟩ := State.endVoice_ended reason (ha v List.mem_cons_self)
    have hrest : ∀ w ∈ rest, ((s.endVoice v reason).voice w).active = true := fun w hw => by
      rw [(s.endVoice_others v reason).2.1 w fun e => hv (e ▸ hw)]
      exact ha w (List.mem_cons_of_mem _ hw)
    show (State.endVoices reason rest (s.endVoice v reason)).snd.order = _
    rw [ih hr _ hrest (by rw [horder]; exact ho.erase v), horder, ho.erase_eq_filter, List.filter_filter]
    refine List.filter_congr fun w _ => ?_
    by_cases hw : w = v
    · simp [hw]
    · simp [hw, bne]

/-- The records of the voices that end stand in the end list, and the other entries are kept (R111). -/
theorem VoicesEnded.entries {s t : State} {l : List (Fin 8)} {reason : EndReason} (h : VoicesEnded s t l reason) (hl : l.length ≤ 8)
    (i : Nat) (hi : i < 8) : t.snd.endList.get (s.entryAfter i) = match (s.taggedOf l)[i]? with
      | some v => ⟨(s.voice v).tag, reason, v.val⟩
      | none => s.snd.endList.get (s.entryAfter i) := by
  have hlen : (s.taggedOf l).length ≤ l.length := List.length_filter_le _ _
  by_cases hlt : i < (s.taggedOf l).length
  · have := h.made hl i hlt
    rw [List.getD, List.getElem?_eq_getElem hlt] at this
    rw [List.getElem?_eq_getElem hlt]
    exact this
  · rw [List.getElem?_eq_none (by omega)]
    refine h.kept _ fun j hj e => ?_
    have := congrArg Fin.val e
    simp only [State.entryAfter, Fin.val_ofNat] at this
    omega

/-- The state that the voices' parts in an expiry leave (R106, R110): every voice advanced, and those that reach their clip ends ended. -/
structure VoicesPlayed (s t : State) (ended : List (Fin 8)) : Prop where
  only   : t = { s with snd := t.snd, exc := { s.exc with nlat := t.exc.nlat } }
  sound  : t.snd = { s.snd with
    voices := t.snd.voices, order := t.snd.order, endList := t.snd.endList, endCount := t.snd.endCount, squeal := t.snd.squeal }
  voice  : ∀ v, t.voice v = if v ∈ ended then {} else if (s.voice v).active then (s.voice v).advance else s.voice v
  order  : s.snd.order.Nodup → t.snd.order = s.snd.order.filter fun v => !ended.contains v
  count  : t.snd.endCount = s.snd.endCount + BitVec.ofNat 32 (ended.filter fun v => (s.voice v).tag != 0).length
  nlat   : t.exc.nlat = if (ended.filter fun v => (s.voice v).tag != 0) = [] then s.exc.nlat else s.exc.nlat ||| 0x10
  list   : ∀ i < 8, t.snd.endList.get (s.entryAfter i) = match (ended.filter fun v => (s.voice v).tag != 0)[i]? with
    | some v => ⟨(s.voice v).tag, .playedOut, v.val⟩
    | none => s.snd.endList.get (s.entryAfter i)
  squeal : t.snd.squeal = if (ended.any fun v => (s.voice v).tag == 0x8010) = true ∧ s.snd.squeal = .sounding then .spent
    else s.snd.squeal

theorem State.endVoices_played (s : State) : VoicesPlayed s
    (State.endVoices .playedOut (octetIndices.filter fun v => (s.voice v).endsNow) (s.advanced octetIndices))
    (octetIndices.filter fun v => (s.voice v).endsNow) := by
  have hall : ∀ v : Fin 8, v ∈ octetIndices := by decide
  obtain ⟨l, hl⟩ : ∃ l, octetIndices.filter (fun v => (s.voice v).endsNow) = l := ⟨_, rfl⟩
  have hn : l.Nodup := hl ▸ (by decide : octetIndices.Nodup).filter _
  have hmem : ∀ v ∈ l, (s.voice v).endsNow = true := fun v hv => by
    rw [← hl] at hv
    exact (List.mem_filter.1 hv).2
  have hact : ∀ v ∈ l, (s.voice v).active = true := fun v hv => ((Bool.and_eq_true _ _).mp (hmem v hv)).1
  have hlen : l.length ≤ 8 := hl ▸ List.length_filter_le _ octetIndices
  obtain ⟨a, ha⟩ : ∃ a, s.advanced octetIndices = a := ⟨_, rfl⟩
  have avoice : ∀ v, a.voice v = if (s.voice v).active then (s.voice v).advance else s.voice v := fun v => by
    rw [← ha, State.advanced_voice]
    simp only [hall, true_and]
  have aact : ∀ v, (a.voice v).active = (s.voice v).active := fun v => by
    rw [avoice]
    split <;> rfl
  have atag : ∀ v, (a.voice v).tag = (s.voice v).tag := fun v => by
    rw [avoice]
    split <;> rfl
  have asnd : a.snd = { s.snd with voices := a.snd.voices } := by rw [← ha]; rfl
  have aonly : a = { s with snd := a.snd } := by rw [← ha]; rfl
  have told : EndsTold a _ l := a.endVoices_told .playedOut l hn
  have gone := State.endVoices_ended .playedOut l hn a
  have order := a.endVoices_order .playedOut l hn (fun v hv => (aact v).trans (hact v hv))
  have only := State.endVoices_soundOnly .playedOut l a
  rw [hl, ha]
  generalize State.endVoices .playedOut l a = t at told gone order only
  have htag : a.taggedOf l = l.filter fun v => (s.voice v).tag != 0 := List.filter_congr fun v hv => by
    rw [aact, hact v hv, atag, Bool.true_and]
  have aexc : a.exc = s.exc := by rw [aonly]
  have acount : a.snd.endCount = s.snd.endCount := by rw [asnd]
  have alist : a.snd.endList = s.snd.endList := by rw [asnd]
  have aentry : ∀ i, a.entryAfter i = s.entryAfter i := fun i => by unfold State.entryAfter; rw [acount]
  obtain ⟨t1, t2, t3, t4⟩ := told
  have hex : (∃ v ∈ l, (a.voice v).active = true ∧ (a.voice v).tag ≠ 0) ↔ (l.filter fun v => (s.voice v).tag != 0) ≠ [] := by
    rw [Ne, List.filter_eq_nil_iff, Classical.not_forall]
    refine exists_congr fun v => ?_
    rw [Classical.not_imp, aact, atag]
    refine and_congr_right fun hv => ?_
    simp [hact v hv]
  have hsq : (∃ v ∈ l, (a.voice v).active = true ∧ (a.voice v).tag = 0x8010) ↔ (l.any fun v => (s.voice v).tag == 0x8010) = true := by
    rw [List.any_eq_true]
    refine exists_congr fun v => and_congr_right fun hv => ?_
    rw [aact, atag, hact v hv]
    simp
  refine ⟨?_, ?_, fun v => ?_, fun ho => ?_, ?_, ?_, fun i hi => ?_, ?_⟩
  · unfold soundOnly at only
    have hs : t.exc.scan = s.exc.scan := by rw [t2, aexc]
    rw [hs, aonly] at only
    exact only
  · rw [t1, asnd]
  · rw [gone.voices v, aact, avoice]
    by_cases hv : v ∈ l
    · rw [if_pos ⟨hv, hact v hv⟩, if_pos hv]
    · rw [if_neg fun x => hv x.1, if_neg hv]
  · have ao : a.snd.order = s.snd.order := by rw [asnd]
    rw [order (by rw [ao]; exact ho), ao]
  · rw [gone.count, htag, acount]
  · rw [t3, aexc]
    by_cases hnil : (l.filter fun v => (s.voice v).tag != 0) = []
    · rw [if_neg fun x => (hex.1 x) hnil, if_pos hnil]
      exact BitVec.or_zero
    · rw [if_pos (hex.2 hnil), if_neg hnil]
  · have h := gone.entries hlen i hi
    rw [htag, aentry, alist] at h
    rw [h]
    split
    · rw [atag]
    · rfl
  · have asq : a.snd.squeal = s.snd.squeal := by rw [asnd]
    rw [t4, asq]
    by_cases hs : s.snd.squeal = .sounding
    · by_cases hany : (l.any fun v => (s.voice v).tag == 0x8010) = true
      · rw [if_pos ⟨hs, hsq.2 hany⟩, if_pos ⟨hany, hs⟩]
      · rw [if_neg fun x => hany (hsq.1 x.2), if_neg fun x => hany x.1]
    · rw [if_neg fun x => hs x.1, if_neg fun x => hs x.2]

/-- The squeal check count at an expiry (R129). -/
theorem State.countSqueal_spec (s : State) :
    s.countSqueal = { s with snd := { s.snd with squealCount := s.countSqueal.snd.squealCount, squealDue := s.countSqueal.snd.squealDue } }
    ∧ (s.exc.part.driving = true → s.countSqueal.snd.squealCount = (if 159 ≤ s.snd.squealCount then 0 else s.snd.squealCount + 1)
      ∧ s.countSqueal.snd.squealDue = (s.snd.squealDue || decide (159 ≤ s.snd.squealCount)))
    ∧ (s.exc.part.driving = false → s.countSqueal.snd.squealCount = s.snd.squealCount ∧ s.countSqueal.snd.squealDue = s.snd.squealDue) := by
  obtain ⟨h, e⟩ | ⟨h, hc, e⟩ | ⟨h, hc, e⟩ := s.countSqueal_cases <;> rw [e]
  · exact ⟨rfl, fun x => absurd (h.symm.trans x) (by decide), fun _ => ⟨rfl, rfl⟩⟩
  · refine ⟨rfl, fun _ => ⟨?_, ?_⟩, fun x => absurd (h.symm.trans x) (by decide)⟩
    · rw [if_neg (by omega)]
    · rw [decide_eq_false (by omega), Bool.or_false]
  · refine ⟨rfl, fun _ => ⟨?_, ?_⟩, fun x => absurd (h.symm.trans x) (by decide)⟩
    · rw [if_pos hc]
    · rw [decide_eq_true hc, Bool.or_true]

/-- In IDLE the output sample timer does nothing (R106). -/
theorem State.outputSample_idle {s : State} (h : s.exc.part = .idle) : exec .outputSampleTimer s = .next s := if_pos h

/-- Settles O51: an expiry is `VoicesPlayed`, with the output value and the squeal check count. -/
theorem outputSamples : Obligations.OutputSamples := by
  unfold Obligations.OutputSamples
  intro s hidle voices volume part ended told slot
  obtain ⟨h0, hh0⟩ : ∃ h0, s.handOutput = h0 := ⟨_, rfl⟩
  have hvoice : ∀ v, h0.voice v = s.voice v := fun v => by rw [← hh0]; rfl
  have hended : octetIndices.filter (fun v => (h0.voice v).endsNow) = ended :=
    List.filter_congr fun v _ => by rw [hvoice]; exact (s.voice v).endsNow_iff
  have hpart : octetIndices.map h0.partOf = voices.map part := List.map_congr_left fun v _ => by
    have hm : h0.mem = s.mem := by rw [← hh0]; rfl
    unfold State.partOf
    rw [hvoice, hm]
    show (if (s.voice v).active then _ else 0) = if (s.voice v).state = .free then (0 : Int) else _
    cases hs : (s.voice v).state with
    | free => rw [if_neg (by unfold Voice.active; rw [hs]; decide), if_pos rfl]
    | playing => rw [if_pos (by unfold Voice.active; rw [hs]; decide), if_neg (by decide)]; rfl
    | looping => rw [if_pos (by unfold Voice.active; rw [hs]; decide), if_neg (by decide)]; rfl
    | released => rw [if_pos (by unfold Voice.active; rw [hs]; decide), if_neg (by decide)]; rfl
  have hp := h0.endVoices_played
  rw [hended] at hp
  obtain ⟨e, he⟩ : ∃ e, State.endVoices .playedOut ended (h0.advanced octetIndices) = e := ⟨_, rfl⟩
  rw [he] at hp
  have hform : h0.formOutput = { e with snd := { e.snd with
      out := outputValue (0 + (voices.map part).sum) (min h0.snd.master h0.snd.cap) } } := by
    unfold State.formOutput
    rw [State.playVoices_eq octetIndices (by decide) h0 0, hended, hpart, he]
  have hx : exec .outputSampleTimer s = .next h0.formOutput.countSqueal := by
    rw [← hh0]
    exact if_neg hidle
  have hvol : min h0.snd.master h0.snd.cap = volume := by rw [← hh0]; rfl
  have h0snd : h0.snd = { s.snd with modIn := s.snd.out } := by rw [← hh0]; rfl
  have h0only : h0 = { s with snd := h0.snd } := by rw [← hh0]; rfl
  rw [hvol, Int.zero_add] at hform
  obtain ⟨p1, p2, p3, p4, p5, p6, p7, p8⟩ := hp
  simp only [hvoice] at p3 p5 p6 p7 p8
  obtain ⟨c1, c2, c3⟩ := h0.formOutput.countSqueal_spec
  rw [hform] at c1 c2 c3 hx
  generalize hu : ({ e with snd := { e.snd with out := outputValue (voices.map part).sum volume } } : State) = u at c1 c2 c3 hx
  have usnd : u.snd = { e.snd with out := outputValue (voices.map part).sum volume } := by rw [← hu]
  have upart : u.exc.part = s.exc.part := by rw [← hu, p1, h0only]
  have ucount : u.snd.squealCount = s.snd.squealCount ∧ u.snd.squealDue = s.snd.squealDue := by
    rw [usnd, p2, h0snd]
    exact ⟨rfl, rfl⟩
  rw [upart, ucount.1, ucount.2] at c2 c3
  generalize u.countSqueal = t at c1 c2 c3 hx
  have tsnd : t.snd = { u.snd with squealCount := t.snd.squealCount, squealDue := t.snd.squealDue } := congrArg State.snd c1
  have texc : t.exc = e.exc := by rw [c1, ← hu]
  have tvoice : ∀ v, t.voice v = e.voice v := fun v => by
    unfold State.voice
    rw [tsnd, usnd]
  have sframe : t.snd = { s.snd with
      modIn := s.snd.out, out := t.snd.out, voices := t.snd.voices, order := t.snd.order, endList := t.snd.endList,
      endCount := t.snd.endCount, squeal := t.snd.squeal, squealCount := t.snd.squealCount, squealDue := t.snd.squealDue } := by
    rw [tsnd, usnd, p2, h0snd]
  have hent : ∀ i, h0.entryAfter i = slot i := fun i => by unfold State.entryAfter; rw [h0snd]
  have hexc : h0.exc = s.exc := by rw [h0only]
  have mem_ended : ∀ v, v ∈ ended ↔ (s.voice v).endsNow = true := fun v => by
    have hall : ∀ v : Fin 8, v ∈ octetIndices := by decide
    rw [← hended, List.mem_filter, hvoice]
    exact and_iff_right (hall v)
  refine ⟨t, hx, ?_, sframe, ?_, fun v => ?_, fun ho => ?_, ?_, ?_, fun i hi => ?_, ?_, ?_, c2, c3, fun hm hlo hhi => ?_, fun hm => ?_⟩
  · have h1 : t = { u with snd := t.snd } := by rw [c1]
    rw [texc]
    refine h1.trans ?_
    generalize t.snd = y
    rw [← hu]
    have h2 := p1
    rw [hexc] at h2
    generalize e.exc.nlat = n at h2 ⊢
    generalize e.snd = z at h2 ⊢
    rw [h2, h0only]
  · rw [tsnd, usnd]
    rfl
  · have hv := p3 v
    rw [tvoice]
    intro x
    refine ⟨fun hs => ?_, fun hs => ?_, fun hs hn => ?_, fun hs hl => ?_⟩
    · have hf : (s.voice v).active = false := by unfold Voice.active; rw [hs]; rfl
      rw [hv, if_neg (by rw [mem_ended]; unfold Voice.endsNow; rw [hf]; simp), if_neg (by rw [hf]; decide)]
    · rw [hv, if_pos hs]
    · have ha : (s.voice v).active = true := by
        unfold Voice.active
        obtain h | h := hs <;> rw [h] <;> rfl
      rw [hv, if_neg hn, if_pos ha]
      unfold Voice.advance
      have hnl : (s.voice v).state ≠ .looping := by obtain h | h := hs <;> (intro y; exact absurd (h.symm.trans y) (by decide))
      dsimp only
      rw [if_neg hnl]
    · have ha : (s.voice v).active = true := by
        unfold Voice.active
        rw [hs]
        rfl
      have hne : v ∉ ended := by
        rw [mem_ended, Voice.endsNow_iff, decide_eq_true_iff, hs]
        simp
      obtain ⟨n, g1, g2, g3⟩ := loopBack_spec x.copy (x.pos + x.pitch) hl
      refine ⟨n, loopBack x.copy (x.pos + x.pitch), ?_, g1, g2, g3⟩
      rw [hv, if_neg hne, if_pos ha]
      unfold Voice.advance
      dsimp only
      rw [if_pos hs]
  · have horder : h0.snd.order = s.snd.order := by rw [h0snd]
    have := p4 (by rw [horder]; exact ho.1)
    rw [tsnd, usnd]
    dsimp only
    rw [this, horder]
  · rw [tsnd, usnd]
    dsimp only
    rw [p5, h0snd]
  · rw [texc, p6, hexc]
  · have h := p7 i hi
    rw [hent, h0snd] at h
    rw [tsnd, usnd]
    exact h
  · rw [tsnd, usnd]
    dsimp only
    rw [p8, h0snd]
  · exact State.outputSample_idle rfl
  · refine ⟨(s.snd.modIn + 32768).toNat, Int.toNat_of_nonneg (by omega), if_pos hm, ?_, ?_⟩
    · exact if_pos hm
    · have h1 : ({ s with snd := { s.snd with modNow := s.snd.modIn } } : State).spkpHigh = (s.snd.modIn + 32768).toNat := if_pos hm
      unfold State.spknHigh
      rw [h1]
      exact if_pos hm
  · refine ⟨if_neg (by rw [hm]; decide), State.pins_low hm⟩

end Sys2Proof.Machine
end

section
/-!
PROOF. Function operations (O36): the levels, the keys that end and the keys that start (R25, R36, R39, R40, R101, R108, R113, R123,
R124).
-/
set_option Elab.async false

namespace Sys2Proof.Machine

/-! ### Function state and the levels (R36, R39) -/

theorem FunctionOp.act_bit (op : FunctionOp) (mask f : BitVec 32) {n : Nat} (hn : n < 32) : (op.act mask f).getLsbD n = match op with
      | .set => f.getLsbD n || mask.getLsbD n
      | .clear => f.getLsbD n && !mask.getLsbD n
      | .toggle => f.getLsbD n ^^ mask.getLsbD n := by
  unfold FunctionOp.act
  cases op <;> simp [hn]

theorem levelOn_iff (g : Groups) (f : BitVec 32) (x : Target) :
    levelOn g f x = true ↔ ∃ n < 32, f.getLsbD n = true ∧ x ∈ g.map.getD n [] := by
  unfold levelOn Groups.targets
  simp only [List.any_eq_true, List.mem_range, Bool.and_eq_true, List.contains_iff_mem]

/-- What the levels evaluated over function state make of a state (R25, R39, R113, R136). -/
structure LevelsTaken (s t : State) : Prop where
  only : t = { s with drq := t.drq, smk := t.smk, snd := { s.snd with mute := t.snd.mute, cap := t.snd.cap } }
  drq  : t.drq = { s.drq with
    smokeEnable := levelOn s.cfg s.drq.functions .smoke, mute := levelOn s.cfg s.drq.functions .mute,
    shunt := levelOn s.cfg s.drq.functions .shunt, momentumOff := levelOn s.cfg s.drq.functions .momentumOff,
    s := if levelOn s.cfg s.drq.functions .shunt = s.drq.shunt then s.drq.s
      else deriveS s.cfg.curve s.drq.origin (levelOn s.cfg s.drq.functions .shunt) }
  smk  : t.smk = if levelOn s.cfg s.drq.functions .smoke = s.drq.smokeEnable then s.smk
    else ({ s with smk := { s.smk with enable := levelOn s.cfg s.drq.functions .smoke } }.evalSmoke).smk
  mute : levelOn s.cfg s.drq.functions .mute = s.drq.mute → t.snd.mute = s.snd.mute ∧ t.snd.cap = s.snd.cap
  cap  : levelOn s.cfg s.drq.functions .mute ≠ s.drq.mute → t.snd.mute = levelOn s.cfg s.drq.functions .mute
    ∧ t.snd.cap = min (supplyCap s.cfg.power s.sup.state) (muteCap (levelOn s.cfg s.drq.functions .mute))

theorem State.handSmoke_spec (s : State) : s.handSmoke = { s with
    drq := { s.drq with smokeEnable := levelOn s.cfg s.drq.functions .smoke }
    smk := if levelOn s.cfg s.drq.functions .smoke = s.drq.smokeEnable then s.smk
      else ({ s with smk := { s.smk with enable := levelOn s.cfg s.drq.functions .smoke } }.evalSmoke).smk } := by
  unfold State.handSmoke
  dsimp only
  generalize levelOn s.cfg s.drq.functions .smoke = on
  by_cases h : on = s.drq.smokeEnable
  · rw [if_pos h, if_pos h, h]
  · rw [if_neg h, if_neg h]
    rfl

theorem State.handMute_spec (s : State) : s.handMute = { s with
    drq := { s.drq with mute := levelOn s.cfg s.drq.functions .mute }
    snd := { s.snd with
      mute := if levelOn s.cfg s.drq.functions .mute = s.drq.mute then s.snd.mute else levelOn s.cfg s.drq.functions .mute
      cap := if levelOn s.cfg s.drq.functions .mute = s.drq.mute then s.snd.cap
        else min (supplyCap s.cfg.power s.sup.state) (muteCap (levelOn s.cfg s.drq.functions .mute)) } } := by
  unfold State.handMute
  dsimp only
  generalize levelOn s.cfg s.drq.functions .mute = on
  by_cases h : on = s.drq.mute
  · rw [if_pos h, if_pos h, if_pos h, h]
  · rw [if_neg h, if_neg h, if_neg h]
    rfl

theorem State.handShunt_spec (s : State) : s.handShunt = { s with drq := { s.drq with
    shunt := levelOn s.cfg s.drq.functions .shunt
    s := if levelOn s.cfg s.drq.functions .shunt = s.drq.shunt then s.drq.s
      else deriveS s.cfg.curve s.drq.origin (levelOn s.cfg s.drq.functions .shunt) } } := by
  unfold State.handShunt
  dsimp only
  generalize levelOn s.cfg s.drq.functions .shunt = on
  by_cases h : on = s.drq.shunt
  · rw [if_pos h, if_pos h, h]
  · rw [if_neg h, if_neg h]
    rfl

theorem State.evalLevels_taken (s : State) : LevelsTaken s s.evalLevels := by
  have e : s.evalLevels = { s with
      drq := { s.drq with
        smokeEnable := levelOn s.cfg s.drq.functions .smoke, mute := levelOn s.cfg s.drq.functions .mute,
        shunt := levelOn s.cfg s.drq.functions .shunt, momentumOff := levelOn s.cfg s.drq.functions .momentumOff,
        s := if levelOn s.cfg s.drq.functions .shunt = s.drq.shunt then s.drq.s
          else deriveS s.cfg.curve s.drq.origin (levelOn s.cfg s.drq.functions .shunt) }
      smk := if levelOn s.cfg s.drq.functions .smoke = s.drq.smokeEnable then s.smk
        else ({ s with smk := { s.smk with enable := levelOn s.cfg s.drq.functions .smoke } }.evalSmoke).smk
      snd := { s.snd with
        mute := if levelOn s.cfg s.drq.functions .mute = s.drq.mute then s.snd.mute else levelOn s.cfg s.drq.functions .mute
        cap := if levelOn s.cfg s.drq.functions .mute = s.drq.mute then s.snd.cap
          else min (supplyCap s.cfg.power s.sup.state) (muteCap (levelOn s.cfg s.drq.functions .mute)) } } := by
    unfold State.evalLevels State.handMomentum
    rw [s.handSmoke_spec, State.handMute_spec, State.handShunt_spec]
  rw [e]
  exact ⟨rfl, rfl, rfl, fun h => ⟨if_pos h, if_pos h⟩, fun h => ⟨if_neg h, if_neg h⟩⟩

/-! ### Keys (R40, R123, R124) -/

/-- A key of the list takes an end, and its tag is this one (R124). -/
def Groups.endsTag (g : Groups) (ks : List Nat) (tag : Half) : Bool :=
  ks.any fun k => (g.sound.keys.getD k {}).mode == .hold && (g.sound.keys.getD k {}).clip.isSome && keyTag k == tag

/-- What key ends make of a state (R108, R124). -/
structure KeysEnded (s t : State) (e : Half → Bool) : Prop where
  only    : t = { s with snd := { s.snd with voices := t.snd.voices, queue := t.snd.queue, current := t.snd.current } }
  voices  : ∀ v, t.voice v = if (s.voice v).state = .looping ∧ e (s.voice v).tag = true then { s.voice v with state := .released }
    else s.voice v
  queue   : t.snd.queue = s.snd.queue.map fun r => { r with mark := r.mark || e r.tag }
  current : t.snd.current = s.snd.current.map fun w => { w with req := { w.req with mark := w.req.mark || e w.req.tag } }

theorem KeysEnded.nothing {s : State} {e : Half → Bool} (h : ∀ tag, e tag = false) : KeysEnded s s e := by
  refine ⟨rfl, fun v => by rw [h]; simp, ?_, ?_⟩
  · simp only [h, Bool.or_false]
    exact (List.map_id _).symm
  · simp only [h, Bool.or_false]
    cases s.snd.current <;> rfl

theorem KeysEnded.trans {s t u : State} {e e' : Half → Bool} (h : KeysEnded s t e) (h' : KeysEnded t u e') :
    KeysEnded s u fun tag => e tag || e' tag := by
  obtain ⟨a1, a2, a3, a4⟩ := h
  obtain ⟨b1, b2, b3, b4⟩ := h'
  refine ⟨?_, fun v => ?_, ?_, ?_⟩
  · rw [b1, a1]
  · by_cases h : (s.voice v).state = .looping ∧ e (s.voice v).tag = true
    · rw [b2, (a2 v).trans (if_pos h), if_neg (by simp), if_pos ⟨h.1, by rw [h.2]; rfl⟩]
    · rw [b2, (a2 v).trans (if_neg h)]
      by_cases hl : (s.voice v).state = .looping
      · have he : e (s.voice v).tag = false := Bool.eq_false_iff.2 fun x => h ⟨hl, x⟩
        rw [he, Bool.false_or]
      · rw [if_neg fun x => hl x.1, if_neg fun x => hl x.1]
  · rw [b3, a3, List.map_map]
    exact List.map_congr_left fun r _ => by simp [Bool.or_assoc]
  · rw [b4, a4]
    cases s.snd.current with
    | none => rfl
    | some w => simp [Bool.or_assoc]

theorem KeysEnded.tagsOk {s t : State} {e : Half → Bool} (h : KeysEnded s t e) (hok : s.tagsOk) : t.tagsOk := by
  have htag : ∀ v, (t.voice v).tag = (s.voice v).tag := fun v => by
    rw [h.voices]
    split <;> rfl
  have hact : ∀ v, (t.voice v).active = (s.voice v).active := fun v => by
    rw [h.voices]
    split
    · next hl =>
      unfold Voice.active
      rw [hl.1]
      rfl
    · rfl
  obtain ⟨h0, h1, h2⟩ := hok
  refine ⟨(htag 0).trans h0, (htag 1).trans h1, fun u v => ?_⟩
  rw [hact, hact, htag, htag]
  exact h2 u v

/-- One key end (R124): a release by its tag for a HOLD key with a clip. -/
theorem State.keyEnd_ended {s : State} {k : Nat} (hk : keyTag k ≠ 0) (hok : s.tagsOk) :
    KeysEnded s (s.keyEnd k) fun tag => (s.key k).mode == .hold && (s.key k).clip.isSome && keyTag k == tag := by
  unfold State.keyEnd
  by_cases h : (s.key k).mode = .hold ∧ (s.key k).clip.isSome = true
  · rw [if_pos h]
    obtain ⟨r1, r2⟩ := State.releaseTag_spec hk hok
    simp only [h.1, h.2, beq_self_eq_true, Bool.true_and]
    generalize s.releaseTag (keyTag k) = t at r1 r2
    have mark (r : StartReq) : r.markTag (keyTag k) = { r with mark := r.mark || keyTag k == r.tag } := by
      unfold StartReq.markTag
      rw [Bool.beq_comm]
    refine ⟨?_, fun v => ?_, ?_, ?_⟩
    · have hq := congrArg (fun x : State => x.snd.queue) r1
      have hc := congrArg (fun x : State => x.snd.current) r1
      dsimp only at hq hc
      rw [hq, hc]
      exact r1
    · rw [r2]
      by_cases hl : (s.voice v).state = .looping ∧ (s.voice v).tag = keyTag k
      · rw [if_pos hl, if_pos ⟨hl.1, beq_iff_eq.2 hl.2.symm⟩]
      · rw [if_neg hl, if_neg fun x => hl ⟨x.1, (beq_iff_eq.1 x.2).symm⟩]
    · rw [r1]
      exact List.map_congr_left fun r _ => mark r
    · rw [r1]
      dsimp only
      simp only [mark]
  · rw [if_neg h]
    refine KeysEnded.nothing fun tag => ?_
    have : ((s.key k).mode == .hold && (s.key k).clip.isSome) = false := by
      rw [← Bool.not_eq_true, Bool.and_eq_true, beq_iff_eq]
      exact h
    rw [this]
    rfl

theorem State.endKeys_ended (ks : List Nat) {s : State} (hk : ∀ k ∈ ks, keyTag k ≠ 0) (hok : s.tagsOk) :
    KeysEnded s (State.endKeys ks s) (s.cfg.endsTag ks) := by
  induction ks generalizing s with
  | nil => exact KeysEnded.nothing fun _ => rfl
  | cons k rest ih =>
    have h1 := State.keyEnd_ended (hk k List.mem_cons_self) hok
    have h2 := ih (fun j hj => hk j (List.mem_cons_of_mem _ hj)) (h1.tagsOk hok)
    have hcfg : (s.keyEnd k).cfg = s.cfg := by rw [h1.only]
    rw [hcfg] at h2
    exact h1.trans h2

/-- A key start as requested (R123), for a key with a clip. -/
def Groups.keyStartOf (g : Groups) (k : Nat) : Option StartReq :=
  (g.sound.keys.getD k {}).clip.map fun clip =>
    { cls := .pool, asker := .key, clip := clip, pitch := 256, volume := (g.sound.keys.getD k {}).volume,
      priority := (g.sound.keys.getD k {}).priority, tag := keyTag k, loop := (g.sound.keys.getD k {}).mode == .hold }

theorem State.keyStart_eq (s : State) (k : Nat) : s.keyStart k = match s.cfg.keyStartOf k with
    | none => s
    | some r => if 32 ≤ s.snd.queue.length then s else { s with snd := { s.snd with queue := s.snd.queue ++ [r] } } := by
  unfold State.keyStart Groups.keyStartOf State.key
  cases (s.cfg.sound.keys.getD k {}).clip <;> rfl

/-- Key starts enter the queue for as long as it has a place (R40, R101). -/
theorem State.startKeys_eq (ks : List Nat) {s : State} (hq : s.snd.queue.length ≤ 32) : State.startKeys ks s
    = { s with snd := { s.snd with queue := (s.snd.queue ++ ks.filterMap s.cfg.keyStartOf).take 32 } } := by
  induction ks generalizing s with
  | nil =>
    rw [List.filterMap_nil, List.append_nil, List.take_of_length_le hq]
    rfl
  | cons k rest ih =>
    show State.startKeys rest (s.keyStart k) = _
    have e := s.keyStart_eq k
    cases hk : s.cfg.keyStartOf k with
    | none =>
      rw [hk] at e
      have e' : s.keyStart k = s := e
      rw [e', List.filterMap_cons_none hk]
      exact ih hq
    | some r =>
      rw [hk] at e
      have e' : s.keyStart k = if 32 ≤ s.snd.queue.length then s
        else { s with snd := { s.snd with queue := s.snd.queue ++ [r] } } := e
      rw [e', List.filterMap_cons_some hk]
      by_cases hl : 32 ≤ s.snd.queue.length
      · rw [if_pos hl, ih hq, List.take_append_of_le_length hl, List.take_append_of_le_length hl]
      · rw [if_neg hl, ih (by rw [List.length_append]; simp; omega)]
        dsimp only
        rw [List.append_assoc]
        rfl

theorem Groups.mem_keysIn (g : Groups) (mask : BitVec 32) (k : Nat) :
    k ∈ g.keysIn mask ↔ ∃ n < 32, mask.getLsbD n = true ∧ Target.soundKey k ∈ g.map.getD n [] := by
  have key : ∀ n, k ∈ g.keysOf n ↔ Target.soundKey k ∈ g.map.getD n [] := fun n => by
    unfold Groups.keysOf Groups.targets
    rw [List.mem_filterMap]
    constructor
    · rintro ⟨x, hx, h⟩
      cases x <;> simp at h
      rw [← h]
      exact hx
    · exact fun h => ⟨_, h, rfl⟩
  unfold Groups.keysIn
  rw [List.mem_flatMap]
  refine exists_congr fun n => ?_
  rw [List.mem_range]
  refine and_congr_right fun _ => ?_
  by_cases hm : mask.getLsbD n = true
  · rw [if_pos hm, key]
    exact (and_iff_right hm).symm
  · rw [if_neg hm]
    simp [hm]

/-! ### The operation (R36, R39, R40) -/

/-- What a function operation that changes function state makes of a state: the levels, then the key ends, then the key starts. -/
structure FunctionsTaken (s t : State) (f' : BitVec 32) : Prop where
  parts : ∃ u, LevelsTaken { s with drq := { s.drq with functions := f' } } u ∧ ∃ w,
    KeysEnded u w (s.cfg.endsTag (s.cfg.keysIn ((f' ^^^ s.drq.functions) &&& ~~~f')))
    ∧ t = { w with snd := { w.snd with
      queue := (w.snd.queue ++ (s.cfg.keysIn ((f' ^^^ s.drq.functions) &&& f')).filterMap s.cfg.keyStartOf).take 32 } }

theorem keyTag_ne_zero {k : Nat} (h : k ≤ 15) : keyTag k ≠ 0 := by
  intro e
  have h2 := congrArg BitVec.toNat e
  unfold keyTag at h2
  rw [BitVec.toNat_ofNat] at h2
  have h3 : (0 : Half).toNat = 0 := rfl
  omega

theorem State.functionOp_taken {s : State} {op : FunctionOp} {mask : BitVec 32} (hok : s.tagsOk) (hq : s.snd.queue.length ≤ 32)
    (hk : ∀ n k, Target.soundKey k ∈ s.cfg.map.getD n [] → k ≤ 15) :
    (op.act mask s.drq.functions = s.drq.functions → s.functionOp op mask = s)
    ∧ (op.act mask s.drq.functions ≠ s.drq.functions → FunctionsTaken s (s.functionOp op mask) (op.act mask s.drq.functions)) := by
  obtain ⟨f', hf⟩ : ∃ f', op.act mask s.drq.functions = f' := ⟨_, rfl⟩
  have h0 : f' ^^^ s.drq.functions = 0 ↔ f' = s.drq.functions := by
    rw [show (0 : BitVec 32) = 0#32 from rfl, BitVec.xor_eq_zero_iff]
  unfold State.functionOp
  dsimp only
  rw [hf]
  refine ⟨fun h => if_pos (h0.2 h), fun h => ?_⟩
  rw [if_neg (fun x => h (h0.1 x))]
  have lv := State.evalLevels_taken { s with drq := { s.drq with functions := f' } }
  generalize State.evalLevels { s with drq := { s.drq with functions := f' } } = u at lv ⊢
  have ucfg : u.cfg = s.cfg := by rw [lv.only]
  have uok : u.tagsOk := by
    have hv : ∀ v, u.voice v = s.voice v := fun v => congrArg (fun o => Octet.get o v) (by rw [lv.only] : u.snd.voices = s.snd.voices)
    unfold State.tagsOk
    simp only [hv]
    exact hok
  have uq : u.snd.queue = s.snd.queue := by rw [lv.only]
  rw [ucfg]
  have ke := State.endKeys_ended (s.cfg.keysIn ((f' ^^^ s.drq.functions) &&& ~~~f')) (s := u) (fun k hk' => by
    obtain ⟨n, -, -, hn⟩ := (s.cfg.mem_keysIn _ k).1 hk'
    exact keyTag_ne_zero (hk n k hn)) uok
  rw [ucfg] at ke
  generalize State.endKeys (s.cfg.keysIn ((f' ^^^ s.drq.functions) &&& ~~~f')) u = w at ke ⊢
  have wcfg : w.cfg = s.cfg := by rw [ke.only]; exact ucfg
  have wq : w.snd.queue.length ≤ 32 := by rw [ke.queue, List.length_map, uq]; exact hq
  exact ⟨u, lv, w, ke, by rw [State.startKeys_eq _ wq, wcfg]⟩

/-- The tags that key ends release, function by function (R40, R124). -/
theorem Groups.endsTag_iff (g : Groups) (f f' : BitVec 32) (tag : Half) : g.endsTag (g.keysIn ((f' ^^^ f) &&& ~~~f')) tag = true ↔
    ∃ n < 32, ∃ k, f.getLsbD n = true ∧ f'.getLsbD n = false ∧ Target.soundKey k ∈ g.map.getD n []
      ∧ (g.sound.keys.getD k {}).mode = .hold ∧ (g.sound.keys.getD k {}).clip ≠ Option.none ∧ tag = BitVec.ofNat 16 (0x8000 + k) := by
  have bit : ∀ n < 32, ((f' ^^^ f) &&& ~~~f').getLsbD n = true ↔ f.getLsbD n = true ∧ f'.getLsbD n = false := fun n hn => by
    simp only [BitVec.getLsbD_and, BitVec.getLsbD_xor, BitVec.getLsbD_not, hn]
    cases f'.getLsbD n <;> cases f.getLsbD n <;> decide
  unfold Groups.endsTag
  rw [List.any_eq_true]
  constructor
  · rintro ⟨k, hk, h⟩
    obtain ⟨n, hn, hb, hm⟩ := (g.mem_keysIn _ k).1 hk
    obtain ⟨h1, h2⟩ := (bit n hn).1 hb
    rw [Bool.and_eq_true, Bool.and_eq_true, beq_iff_eq, beq_iff_eq, Option.isSome_iff_ne_none] at h
    exact ⟨n, hn, k, h1, h2, hm, h.1.1, h.1.2, h.2.symm⟩
  · rintro ⟨n, hn, k, h1, h2, hm, h3, h4, h5⟩
    refine ⟨k, (g.mem_keysIn _ k).2 ⟨n, hn, (bit n hn).2 ⟨h1, h2⟩, hm⟩, ?_⟩
    rw [Bool.and_eq_true, Bool.and_eq_true, beq_iff_eq, beq_iff_eq, Option.isSome_iff_ne_none]
    exact ⟨⟨h3, h4⟩, h5.symm⟩

/-- The keys that start, function by function (R40, R123). -/
theorem Groups.keysIn_starts (g : Groups) (f f' : BitVec 32) (startOf : Target → Option StartReq)
    (hk : ∀ k, startOf (.soundKey k) = g.keyStartOf k) (ho : ∀ x, (∀ k, x ≠ .soundKey k) → startOf x = Option.none) :
    (g.keysIn ((f' ^^^ f) &&& f')).filterMap g.keyStartOf
      = (List.range 32).flatMap fun n => if f.getLsbD n = false ∧ f'.getLsbD n = true then (g.map.getD n []).filterMap startOf else [] := by
  have keys (n : Nat) : (g.keysOf n).filterMap g.keyStartOf = (g.map.getD n []).filterMap startOf := by
    unfold Groups.keysOf Groups.targets
    rw [List.filterMap_filterMap]
    refine congrArg (List.filterMap · _) (funext fun x => ?_)
    cases x with
    | soundKey k => exact (hk k).symm
    | _ =>
      refine Eq.symm (ho _ ?_)
      rintro k ⟨⟩
  unfold Groups.keysIn
  rw [List.filterMap_flatMap]
  rw [List.flatMap_def, List.flatMap_def]
  refine congrArg List.flatten (List.map_congr_left fun n hn => ?_)
  rw [List.mem_range] at hn
  have bit : ((f' ^^^ f) &&& f').getLsbD n = true ↔ f.getLsbD n = false ∧ f'.getLsbD n = true := by
    simp only [BitVec.getLsbD_and, BitVec.getLsbD_xor]
    cases f'.getLsbD n <;> cases f.getLsbD n <;> decide
  by_cases h : f.getLsbD n = false ∧ f'.getLsbD n = true
  · rw [if_pos h, if_pos (bit.2 h), keys]
  · rw [if_neg h, if_neg (fun x => h (bit.1 x))]
    rfl

/-- Settles O36: the parts of `FunctionsTaken`. -/
theorem functionOperations : Obligations.FunctionOperations := by
  unfold Obligations.FunctionOperations
  intro s op mask hok hq hkeys t f f' bound ended startOf starts
  obtain ⟨h1, h2⟩ := State.functionOp_taken (op := op) (mask := mask) hok hq hkeys
  have hf' : f' = op.act mask f := by
    by_cases h : op.act mask f = f
    · have ht : t = s := h1 h
      show t.drq.functions = _
      rw [ht]
      exact h.symm
    · obtain ⟨u, lv, w, ke, ht⟩ := (h2 h).parts
      have e : t = _ := ht
      show t.drq.functions = _
      rw [e, ke.only, lv.drq]
  refine ⟨fun n hn => by rw [hf']; exact op.act_bit mask f hn, fun h => h1 (hf'.symm.trans h), fun h => ?_⟩
  obtain ⟨u, lv, w, ke, ht⟩ := (h2 (fun x => h (hf'.trans x))).parts
  rw [← hf'] at lv ke ht
  have hte : t = _ := ht
  clear_value t
  have udrq := lv.drq
  have wdrq : w.drq = u.drq := by rw [ke.only]
  have tdrq : t.drq = u.drq := by rw [hte]; exact wdrq
  have tsnd : t.snd = { w.snd with queue := (w.snd.queue
      ++ (s.cfg.keysIn ((f' ^^^ s.drq.functions) &&& f')).filterMap s.cfg.keyStartOf).take 32 } := by rw [hte]
  have wsnd : w.snd = { u.snd with voices := w.snd.voices, queue := w.snd.queue, current := w.snd.current } := congrArg State.snd ke.only
  have usnd : u.snd = { s.snd with mute := u.snd.mute, cap := u.snd.cap } := congrArg State.snd lv.only
  have tmute : t.snd.mute = u.snd.mute ∧ t.snd.cap = u.snd.cap := by
    rw [tsnd]
    dsimp only
    rw [wsnd]
    exact ⟨rfl, rfl⟩
  have uvoice : ∀ v, u.voice v = s.voice v := fun v => congrArg (fun o => Octet.get o v) (by rw [usnd] : u.snd.voices = s.snd.voices)
  have tvoice : ∀ v, t.voice v = w.voice v := fun v => congrArg (fun o => Octet.get o v) (by rw [tsnd] : t.snd.voices = w.snd.voices)
  have lsmoke : t.drq.smokeEnable = levelOn s.cfg f' .smoke := by rw [tdrq, udrq]
  have lmute : t.drq.mute = levelOn s.cfg f' .mute := by rw [tdrq, udrq]
  have lshunt : t.drq.shunt = levelOn s.cfg f' .shunt := by rw [tdrq, udrq]
  have lmom : t.drq.momentumOff = levelOn s.cfg f' .momentumOff := by rw [tdrq, udrq]
  have hend : ∀ tag, s.cfg.endsTag (s.cfg.keysIn ((f' ^^^ s.drq.functions) &&& ~~~f')) tag = true ↔ ended tag :=
    fun tag => s.cfg.endsTag_iff f f' tag
  generalize s.cfg.endsTag (s.cfg.keysIn ((f' ^^^ s.drq.functions) &&& ~~~f')) = e at ke hend
  have tframe : t = { s with drq := t.drq, smk := t.smk, snd := t.snd } := by
    have h1 : t = { w with snd := t.snd } := by rw [tsnd]; exact hte
    have h2 : t.smk = u.smk := by rw [hte]; dsimp only; rw [ke.only]
    rw [h2, tdrq]
    refine h1.trans ?_
    generalize t.snd = y
    rw [ke.only, lv.only]
  refine ⟨tframe, ?_, ?_, ?_, ?_, ?_, ?_, ?_, ?_, fun hm => ?_, fun hm => ?_, fun v => ⟨fun hv => ?_, fun hv => ?_⟩, ?_, fun hc => ?_, fun x hx => ?_⟩
  · rw [tdrq, udrq]
  · rw [lsmoke, levelOn_iff]
  · rw [lmute, levelOn_iff]
  · rw [lshunt, levelOn_iff]
  · rw [lmom, levelOn_iff]
  · rw [lshunt, tdrq, udrq]
    dsimp only
    split
    · rfl
    · unfold deriveS Origin.base
      cases levelOn s.cfg f' .shunt with
      | true => cases s.drq.origin <;> rfl
      | false => cases s.drq.origin <;> exact (Nat.div_one _).symm
  · have h2 : t.smk = u.smk := by rw [hte]; dsimp only; rw [ke.only]
    rw [h2, lsmoke]
    exact lv.smk
  · rw [tmute.1, tmute.2, tsnd]
    dsimp only
    rw [wsnd]
    dsimp only
    rw [usnd]
  · rw [tmute.1, tmute.2]
    rw [lmute] at hm
    exact lv.mute hm
  · rw [tmute.1, tmute.2]
    rw [lmute] at hm ⊢
    exact lv.cap hm
  · rw [tvoice, ke.voices, uvoice, if_pos ⟨hv.1, (hend _).2 hv.2⟩]
  · rw [tvoice, ke.voices, uvoice, if_neg fun y => hv ⟨y.1, (hend _).1 y.2⟩]
  · have uq : u.snd.queue = s.snd.queue := by rw [usnd]
    refine ⟨w.snd.queue, ?_, by rw [ke.queue, List.length_map, uq], fun i r hr => ?_⟩
    · rw [tsnd]
      dsimp only
      rw [s.cfg.keysIn_starts f f' startOf (fun k => rfl) (fun y hy => ?_)]
      cases y with
      | soundKey k => exact absurd rfl (hy k)
      | _ => rfl
    · refine ⟨r.mark || e r.tag, ?_, ?_⟩
      · rw [ke.queue, List.getElem?_map, uq, hr]
        rfl
      · rw [Bool.or_eq_true, hend]
  · have uc : u.snd.current = s.snd.current := by rw [usnd]
    rw [tsnd]
    dsimp only
    rw [ke.current, uc, hc]
    rfl
  · have uc : u.snd.current = s.snd.current := by rw [usnd]
    refine ⟨x.req.mark || e x.req.tag, ?_, ?_⟩
    · rw [tsnd]
      dsimp only
      rw [ke.current, uc, hx]
      rfl
    · rw [Bool.or_eq_true, hend]

end Sys2Proof.Machine
end

section
/-!
PROOF. The inbox writer (O37): the grants that a frame needs, one after another, and the record they write (R6, R20, R159, R170, 1.5).
-/
set_option Elab.async false

namespace Sys2Proof.Machine

/-! ### Little-endian fields (0.8) -/

/-- Bytes that are the little-endian bytes of a value read as that value, as far as they hold it. -/
theorem Memory.readLe_of_bytes {m : Memory} {n a v : Nat} (h : ∀ i < n, m.read (a + i) = BitVec.ofNat 8 (v / 256 ^ i)) :
    m.readLe a n = v % 256 ^ n := by
  induction n generalizing a v with
  | zero => simp [Memory.readLe, Nat.mod_one]
  | succ n ih =>
    have first : m.read a = BitVec.ofNat 8 v := by simpa using h 0 (by omega)
    have rest : m.readLe (a + 1) n = v / 256 % 256 ^ n := ih fun i hi => by
      rw [show a + 1 + i = a + (i + 1) by omega, h (i + 1) (by omega), Nat.div_div_eq_div_mul, Nat.pow_succ, Nat.mul_comm]
    rw [Memory.readLe, first, rest, Nat.pow_succ, Nat.mul_comm _ 256, Nat.mod_mul, BitVec.toNat_ofNat]

/-- A field just written reads as the value written, as far as it holds it. -/
theorem Memory.readLe_writeField {m : Memory} {a n v : Nat} (ha : a + n ≤ memorySize) (h : m.wf = true) :
    (m.writeCells (leCells a n v)).readLe a n = v % 256 ^ n :=
  Memory.readLe_of_bytes fun i hi => by
    rw [Memory.read_writeField ha h, if_pos (by omega), Nat.add_sub_cancel_left]

/-! ### The record's bytes (1.5, R170) -/

/-- The 13 bytes of a record before its payload. -/
def InboxRecord.head (r : InboxRecord) : List Byte :=
  leBytes 1 r.verdict.code ++ [r.kind] ++ leBytes 2 r.sender.toNat ++ [r.seq] ++ leBytes 1 r.length ++ leBytes 2 r.target.toNat
    ++ leBytes 4 r.time.toNat ++ [r.signal]

theorem InboxRecord.bytes_eq (r : InboxRecord) : r.bytes = r.head ++ (r.payload.take 16 ++ List.replicate 32 0).take 19 := by
  show (r.head ++ r.payload.take 16 ++ List.replicate 32 0).take 32 = _
  rw [List.append_assoc, List.take_append, List.take_of_length_le (show r.head.length ≤ 32 from (by decide : 13 ≤ 32))]
  rfl

/-- A byte before the payload. -/
theorem InboxRecord.bytes_head (r : InboxRecord) {i : Nat} (h : i < 13) : r.bytes.getD i 0 = r.head.getD i 0 := by
  rw [r.bytes_eq, List.getD_eq_getElem?_getD, List.getElem?_append_left (show i < r.head.length from h), List.getD_eq_getElem?_getD]

/-- A byte of the payload, which is padded with 0. -/
theorem InboxRecord.bytes_payload {r : InboxRecord} (hl : r.payload.length ≤ 16) {i : Nat} (h : i < 19) :
    r.bytes.getD (13 + i) 0 = r.payload.getD i 0 := by
  have past : r.bytes.getD (13 + i) 0 = ((r.payload.take 16 ++ List.replicate 32 0).take 19).getD i 0 := by
    rw [r.bytes_eq, List.getD_eq_getElem?_getD, List.getElem?_append_right (show r.head.length ≤ 13 + i from Nat.le_add_right 13 i),
      List.getD_eq_getElem?_getD]
    exact congrArg (fun k => ((r.payload.take 16 ++ List.replicate 32 0).take 19)[k]?.getD 0) (show 13 + i - 13 = i by omega)
  rw [past, List.take_of_length_le hl]
  simp only [List.getD_eq_getElem?_getD, List.getElem?_take, h, if_true]
  by_cases hi : i < r.payload.length
  · rw [List.getElem?_append_left hi]
  · rw [List.getElem?_append_right (by omega), List.getElem?_replicate, if_pos (by omega), List.getElem?_eq_none (by omega)]
    rfl

/-! ### The grants of a frame (R20) -/

/-- Nothing waits at the arbiter before the inbox writer (R6). -/
structure State.InboxAlone (s : State) : Prop where
  sound  : s.soundWaits = false
  port   : s.port.awaiting = none
  board  : s.exc.board = none

/-- With nothing before it, the arbiter's grant is the inbox writer's. -/
theorem State.InboxAlone.grant_eq {s : State} (h : s.InboxAlone) (hw : s.inboxWaits = true) :
    s.grant = (s.noteGrant .inbox).inboxGrant := by
  simp [State.grant, State.writerGrant, State.class3Grant, h.sound, h.port, h.board, hw]

/-- The state with the inbox writer's progress, the note of its grants, and exchange memory as they leave it. -/
def State.inboxAt (s : State) (p : InboxProgress) (m : Memory) : State :=
  { s with exc := { s.exc with inboxStep := p, class3Last := s.exc.class3Last.map fun _ => .inbox }, mem := m }

/-- The put tally less the seen tally as read, modulo 65536 (R20). -/
theorem State.inboxAhead_eq (s : State) : s.inboxAhead = (s.exc.inboxPut.toNat + 65536 - s.mem.readLe 0x0A 2) % 65536 := by
  have hs := Memory.readLe_two_lt s.mem 0x0A
  rw [State.inboxAhead, BitVec.toNat_sub, BitVec.toNat_ofNat, Nat.mod_eq_of_lt hs]
  congr 1
  omega

theorem State.inboxGrant_seen {s : State} {j : InboxJob} {rest : List InboxJob} (hq : s.exc.inboxQueue = j :: rest)
    (ha : s.exc.inboxStep.ahead = none) :
    s.inboxGrant = { s with exc := { s.exc with inboxStep := ⟨some s.inboxAhead, s.exc.inboxStep.words⟩ } } := by
  unfold State.inboxGrant State.readSeen
  split
  next h0 => rw [hq] at h0; cases h0
  next =>
    rw [if_pos (by rw [ha]; rfl)]
    split
    next h0 => rw [ha] at h0; cases h0
    next => rfl

theorem State.inboxGrant_word {s : State} {j : InboxJob} {rest : List InboxJob} {k : Nat} (hq : s.exc.inboxQueue = j :: rest)
    (ha : s.exc.inboxStep.ahead = some k) :
    s.inboxGrant = { s with
      exc := { s.exc with inboxStep := ⟨some k, s.exc.inboxStep.words + 1⟩ }
      mem := s.mem.writeCells (inboxCells s.exc.inboxPut j.record.bytes s.exc.inboxStep.words) } := by
  unfold State.inboxGrant State.writeRecord
  split
  next h0 => rw [hq] at h0; cases h0
  next h0 =>
    rw [hq] at h0
    cases h0
    rw [if_neg (by rw [ha]; simp), ← ha]
    rfl

/-- The first grant of a frame reads the seen tally. -/
theorem State.InboxAlone.grant_seen {s : State} (h : s.InboxAlone) {j : InboxJob} {rest : List InboxJob}
    (hq : s.exc.inboxQueue = j :: rest) (ha : s.exc.inboxStep.ahead = none) :
    s.grant = s.inboxAt ⟨some s.inboxAhead, s.exc.inboxStep.words⟩ s.mem := by
  rw [h.grant_eq (by simp [State.inboxWaits, hq, ha])]
  exact State.inboxGrant_seen (s := s.noteGrant .inbox) hq ha

/-- A later grant writes the next word of the record. -/
theorem State.InboxAlone.grant_word {s : State} (h : s.InboxAlone) {j : InboxJob} {rest : List InboxJob} {k : Nat}
    (hq : s.exc.inboxQueue = j :: rest) (ha : s.exc.inboxStep.ahead = some k) (hk : k < 32) (hn : s.exc.inboxStep.words < 8) :
    s.grant = s.inboxAt ⟨some k, s.exc.inboxStep.words + 1⟩
      (s.mem.writeCells (inboxCells s.exc.inboxPut j.record.bytes s.exc.inboxStep.words)) := by
  rw [h.grant_eq (by simp [State.inboxWaits, inboxWords, hq, ha, hk, hn])]
  exact State.inboxGrant_word (s := s.noteGrant .inbox) hq ha

/-- The record's place lies inside exchange memory. -/
theorem inboxAddr_inside (put : Half) : inboxAddr put + 32 ≤ memorySize := by
  unfold inboxAddr memorySize
  omega

/-- A word of a record written at its place. -/
theorem Memory.read_inboxCells {m : Memory} (hw : m.wf = true) (put : Half) (bs : List Byte) {n : Nat} (hn : n < 8) (x : Nat) :
    (m.writeCells (inboxCells put bs n)).read x
      = if inboxAddr put + 4 * n ≤ x ∧ x < inboxAddr put + 4 * n + 4 then bs.getD (4 * n + (x - (inboxAddr put + 4 * n))) 0
        else m.read x := by
  have inside := inboxAddr_inside put
  have run := Memory.read_writeRun (l := [bs.getD (4 * n) 0, bs.getD (4 * n + 1) 0, bs.getD (4 * n + 2) 0, bs.getD (4 * n + 3) 0])
    (a := inboxAddr put + 4 * n) (b := x) (show _ + 4 ≤ _ by omega) hw
  refine run.trans ?_
  show (if _ ∧ x < inboxAddr put + 4 * n + 4 then _ else _) = _
  split
  · generalize hd : x - (inboxAddr put + 4 * n) = d
    have small : d < 4 := by omega
    match d, small with
    | 0, _ => rfl
    | 1, _ => rfl
    | 2, _ => rfl
    | 3, _ => rfl
  · rfl

theorem Memory.wf_inboxCells {m : Memory} (hw : m.wf = true) (put : Half) (bs : List Byte) {n : Nat} (hn : n < 8) :
    (m.writeCells (inboxCells put bs n)).wf = true := by
  have inside := inboxAddr_inside put
  refine Memory.wf_writeCells ?_ hw
  simp only [cellsInside, inboxCells, List.all_cons, List.all_nil, Bool.and_eq_true, decide_eq_true_eq, and_true]
  omega

/-- The record of the frame at the head of the queue is written up to word `n`. -/
structure RecordUpTo (s : State) (bs : List Byte) (k n : Nat) (t : State) : Prop where
  only : t = s.inboxAt ⟨some k, n⟩ t.mem
  wf   : t.mem.wf = true
  read : ∀ x, t.mem.read x
    = if inboxAddr s.exc.inboxPut ≤ x ∧ x < inboxAddr s.exc.inboxPut + 4 * n then bs.getD (x - inboxAddr s.exc.inboxPut) 0
      else s.mem.read x

/-- A grant writes the next word. -/
theorem RecordUpTo.next {s t : State} {j : InboxJob} {rest : List InboxJob} {k n : Nat} (hs : s.InboxAlone)
    (hq : s.exc.inboxQueue = j :: rest) (hk : k < 32) (hn : n < 8) (h : RecordUpTo s j.record.bytes k n t) :
    RecordUpTo s j.record.bytes k (n + 1) t.grant := by
  obtain ⟨m, rfl⟩ : ∃ m, t = s.inboxAt ⟨some k, n⟩ m := ⟨t.mem, h.only⟩
  have e : (s.inboxAt ⟨some k, n⟩ m).grant = s.inboxAt ⟨some k, n + 1⟩ (m.writeCells (inboxCells s.exc.inboxPut j.record.bytes n)) := by
    have alone : (s.inboxAt ⟨some k, n⟩ m).InboxAlone := ⟨hs.sound, hs.port, hs.board⟩
    rw [alone.grant_word (k := k) hq rfl hk hn]
    unfold State.inboxAt
    cases s.exc.class3Last <;> rfl
  rw [e]
  have hw : m.wf = true := h.wf
  have hr : ∀ x, m.read x = _ := h.read
  refine ⟨rfl, Memory.wf_inboxCells hw _ _ hn, fun x => ?_⟩
  show (m.writeCells _).read x = _
  rw [Memory.read_inboxCells hw _ _ hn, hr x]
  by_cases hx : inboxAddr s.exc.inboxPut + 4 * n ≤ x ∧ x < inboxAddr s.exc.inboxPut + 4 * n + 4
  · rw [if_pos hx, if_pos (by omega)]
    congr 1
    omega
  · rw [if_neg hx]
    by_cases hy : inboxAddr s.exc.inboxPut ≤ x ∧ x < inboxAddr s.exc.inboxPut + 4 * n
    · rw [if_pos hy, if_pos (by omega)]
    · rw [if_neg hy, if_neg (by omega)]

/-- Enough grants write the record to its end. -/
theorem RecordUpTo.done {s : State} {j : InboxJob} {rest : List InboxJob} {k : Nat} (hs : s.InboxAlone)
    (hq : s.exc.inboxQueue = j :: rest) (hk : k < 32) (fuel : Nat) :
    ∀ {t : State} {n : Nat}, n ≤ 8 → 8 - n ≤ fuel → RecordUpTo s j.record.bytes k n t →
      RecordUpTo s j.record.bytes k 8 (State.grantWhile State.inboxWaits fuel t) := by
  have waits : ∀ {t : State} {n : Nat}, RecordUpTo s j.record.bytes k n t → t.inboxWaits = decide (n < 8) := by
    intro t n h
    rw [h.only]
    simp [State.inboxWaits, State.inboxAt, hq, hk, inboxWords]
  induction fuel with
  | zero =>
    intro t n hn hf h
    obtain rfl : n = 8 := by omega
    exact h
  | succ fuel ih =>
    intro t n hn hf h
    by_cases hlast : n = 8
    · subst hlast
      rw [State.grantWhile_idle (by simpa using waits h)]
      exact h
    · have hlt : n < 8 := by omega
      rw [State.grantWhile, if_pos (by simpa [hlt] using waits h)]
      exact ih hlt (by omega) (h.next hs hq hk hlt)

/-- The inbox full: one grant reads the seen tally, and no word is written. -/
theorem State.serveInbox_full {s : State} {j : InboxJob} {rest : List InboxJob} (hs : s.InboxAlone)
    (hq : s.exc.inboxQueue = j :: rest) (hp : s.exc.inboxStep = {}) (hk : 32 ≤ s.inboxAhead) :
    s.serveInbox = s.inboxAt ⟨some s.inboxAhead, 0⟩ s.mem := by
  show State.grantWhile _ (22 + 1) s = _
  rw [State.grantWhile, if_pos (by simp [State.inboxWaits, hq, hp]), hs.grant_seen hq (by rw [hp]), hp]
  exact State.grantWhile_idle (by simp [State.inboxWaits, State.inboxAt, hq]; omega) _

/-- The inbox not full: the record is written whole. -/
theorem State.serveInbox_record {s : State} {j : InboxJob} {rest : List InboxJob} (hw : s.mem.wf = true) (hs : s.InboxAlone)
    (hq : s.exc.inboxQueue = j :: rest) (hp : s.exc.inboxStep = {}) (hk : s.inboxAhead < 32) :
    RecordUpTo s j.record.bytes s.inboxAhead 8 s.serveInbox := by
  show RecordUpTo _ _ _ _ (State.grantWhile _ (22 + 1) s)
  rw [State.grantWhile, if_pos (by simp [State.inboxWaits, hq, hp]), hs.grant_seen hq (by rw [hp]), hp]
  exact RecordUpTo.done (n := 0) hs hq hk 22 (by omega) (by omega) ⟨rfl, hw, fun x => by rw [if_neg (by omega)]; rfl⟩

/-! ### The frame at the head of the queue -/

/-- The end of a frame that was not recorded, or was. -/
def State.inboxEnd (s : State) : State :=
  if 32 ≤ s.exc.inboxStep.ahead.getD 0 then s.inboxDone.latch .inboxFull
  else ((s.setInboxPut (s.exc.inboxPut + 1)).inboxDone).latch .radioFrame

theorem exec_inboxWrite {s : State} {j : InboxJob} {rest : List InboxJob} (hq : s.exc.inboxQueue = j :: rest) :
    exec .inboxWrite s = .next s.serveInbox.inboxEnd := by
  show Host.Outcome.next s.inboxFinish = _
  simp only [State.inboxFinish, hq]
  rfl

/-- A frame done with: the queue's rest, and its buffer free (R159). -/
theorem State.inboxDone_eq {s : State} {j : InboxJob} {rest : List InboxJob} (hq : s.exc.inboxQueue = j :: rest) :
    s.inboxDone = { s with exc := { s.exc with inboxQueue := rest, inboxStep := {} }, rrx := s.rrx.setBuffer j.buffer none } := by
  simp only [State.inboxDone, hq, State.freeBuffer]

theorem State.inboxEnd_full {s : State} {j : InboxJob} {rest : List InboxJob} (hq : s.exc.inboxQueue = j :: rest)
    (hk : 32 ≤ s.exc.inboxStep.ahead.getD 0) :
    s.inboxEnd = { s with
      exc := { s.exc with inboxQueue := rest, inboxStep := {}, nlat := s.exc.nlat ||| 0x40 },
      rrx := s.rrx.setBuffer j.buffer none } := by
  rw [State.inboxEnd, if_pos hk, State.inboxDone_eq hq]
  rfl

theorem State.inboxEnd_record {s : State} {j : InboxJob} {rest : List InboxJob} (hq : s.exc.inboxQueue = j :: rest)
    (hk : s.exc.inboxStep.ahead.getD 0 < 32) :
    s.inboxEnd = { s with
      exc := { s.exc with inboxQueue := rest, inboxStep := {}, inboxPut := s.exc.inboxPut + 1, nlat := s.exc.nlat ||| 0x20 },
      mem := s.mem.writeCells (leCells 0x08 2 (s.exc.inboxPut + 1).toNat), rrx := s.rrx.setBuffer j.buffer none } := by
  rw [State.inboxEnd, if_neg (by omega), State.inboxDone_eq (s := s.setInboxPut (s.exc.inboxPut + 1)) hq]
  rfl

/-- What INBOX_WRITE does with the record that was written. -/
structure FrameRecorded (s : State) (j : InboxJob) (rest : List InboxJob) (t : State) : Prop where
  only : t = { s with
    exc := { s.exc with
      inboxQueue := rest, inboxStep := {}, inboxPut := s.exc.inboxPut + 1, nlat := s.exc.nlat ||| 0x20,
      class3Last := t.exc.class3Last },
    mem := t.mem, rrx := s.rrx.setBuffer j.buffer none }
  put  : t.mem.readLe 0x08 2 = (s.exc.inboxPut.toNat + 1) % 65536
  read : ∀ i < 32, t.mem.read (inboxAddr s.exc.inboxPut + i) = j.record.bytes.getD i 0
  rest : ∀ a, a ≠ 0x08 → a ≠ 0x09 → (a < inboxAddr s.exc.inboxPut ∨ inboxAddr s.exc.inboxPut + 32 ≤ a) → t.mem.read a = s.mem.read a

theorem RecordUpTo.recorded {s u : State} {j : InboxJob} {rest : List InboxJob} {k : Nat} (hq : s.exc.inboxQueue = j :: rest)
    (hk : k < 32) (h : RecordUpTo s j.record.bytes k 8 u) : FrameRecorded s j rest u.inboxEnd := by
  obtain ⟨m, rfl⟩ : ∃ m, u = s.inboxAt ⟨some k, 8⟩ m := ⟨u.mem, h.only⟩
  rw [State.inboxEnd_record (s := s.inboxAt ⟨some k, 8⟩ m) hq hk]
  have hw : m.wf = true := h.wf
  have hr : ∀ x, m.read x = _ := h.read
  have low : 0xC00 ≤ inboxAddr s.exc.inboxPut := Nat.le_add_right _ _
  refine ⟨rfl, ?_, fun i hi => ?_, fun a h8 h9 ha => ?_⟩
  · exact (Memory.readLe_writeField (by decide) hw).trans (by rw [BitVec.toNat_add]; exact Nat.mod_mod _ _)
  · refine (Memory.read_writeField (by decide) hw).trans ?_
    rw [if_neg (by omega), hr, if_pos (by omega), Nat.add_sub_cancel_left]
  · refine (Memory.read_writeField (by decide) hw).trans ?_
    rw [if_neg (by omega), hr, if_neg (by omega)]

/-- The fields of a record (1.5, R170). -/
theorem FrameRecorded.fields {s t : State} {j : InboxJob} {rest : List InboxJob} (h : FrameRecorded s j rest t)
    (hl : j.record.payload.length ≤ 16) (hn : j.record.length = j.record.payload.length) :
    let base := inboxAddr s.exc.inboxPut
    t.mem.read base = BitVec.ofNat 8 j.record.verdict.code ∧ t.mem.read (base + 1) = j.record.kind
    ∧ t.mem.readLe (base + 2) 2 = j.record.sender.toNat ∧ t.mem.read (base + 4) = j.record.seq
    ∧ (t.mem.read (base + 5)).toNat = j.record.payload.length ∧ t.mem.readLe (base + 6) 2 = j.record.target.toNat
    ∧ t.mem.readLe (base + 8) 4 = j.record.time.toNat ∧ t.mem.read (base + 12) = j.record.signal
    ∧ ∀ i < 19, t.mem.read (base + 13 + i) = j.record.payload.getD i 0 := by
  intro base
  have head : ∀ i, i < 13 → t.mem.read (base + i) = j.record.head.getD i 0 := fun i hi =>
    (h.read i (by omega)).trans (j.record.bytes_head hi)
  have two : ∀ (o : Nat) (v : Half), t.mem.read (base + o) = BitVec.ofNat 8 v.toNat →
      t.mem.read (base + o + 1) = BitVec.ofNat 8 (v.toNat / 256) → t.mem.readLe (base + o) 2 = v.toNat := by
    intro o v h0 h1
    rw [Memory.readLe_of_bytes (v := v.toNat)]
    · exact Nat.mod_eq_of_lt v.isLt
    · intro i hi
      match i, hi with
      | 0, _ => simpa using h0
      | 1, _ => simpa using h1
  refine ⟨head 0 (by omega), head 1 (by omega), two 2 _ (head 2 (by omega)) (head 3 (by omega)), head 4 (by omega), ?_,
    two 6 _ (head 6 (by omega)) (head 7 (by omega)), ?_, head 12 (by omega), fun i hi => ?_⟩
  · rw [head 5 (by omega)]
    show (BitVec.ofNat 8 j.record.length).toNat = _
    rw [hn, BitVec.toNat_ofNat]
    omega
  · rw [Memory.readLe_of_bytes (v := j.record.time.toNat)]
    · exact Nat.mod_eq_of_lt j.record.time.isLt
    · intro i hi
      rw [Nat.add_assoc, head (8 + i) (by omega)]
      match i, hi with
      | 0, _ => exact congrArg (BitVec.ofNat 8) (Nat.div_one _).symm
      | 1, _ => rfl
      | 2, _ => exact congrArg (BitVec.ofNat 8) (Nat.div_div_eq_div_mul _ 256 256)
      | 3, _ => exact congrArg (BitVec.ofNat 8) (show _ / 256 / 256 / 256 = _ / (256 * 256 * 256) by rw [Nat.div_div_eq_div_mul, Nat.div_div_eq_div_mul])
  · rw [Nat.add_assoc]
    exact (h.read (13 + i) (by omega)).trans (InboxRecord.bytes_payload hl hi)

/-- Settles O37: the inbox full, or the record's eight words. -/
theorem inboxRecorded : Obligations.InboxRecorded := by
  unfold Obligations.InboxRecorded
  intro s j rest hw hq hp hsound hport hboard hl hn k base
  have alone : s.InboxAlone := ⟨hsound, hport, hboard⟩
  rw [exec_inboxWrite hq]
  have hk : s.inboxAhead = k := s.inboxAhead_eq
  by_cases hfull : 32 ≤ k
  · rw [State.serveInbox_full alone hq hp (hk ▸ hfull)]
    rw [State.inboxEnd_full (s := s.inboxAt ⟨some s.inboxAhead, 0⟩ s.mem) hq (hk ▸ hfull)]
    exact ⟨_, rfl, rfl, fun _ => ⟨rfl, by rw [← hp]; rfl⟩, fun hlt => absurd hfull (by omega)⟩
  · have h := (State.serveInbox_record hw alone hq hp (by omega)).recorded hq (by omega)
    generalize s.serveInbox.inboxEnd = t at h ⊢
    have f := h.fields hl hn
    have exc : t.exc = { s.exc with
        inboxQueue := rest, inboxStep := {}, inboxPut := s.exc.inboxPut + 1, nlat := s.exc.nlat ||| 0x20,
        class3Last := t.exc.class3Last } := congrArg State.exc h.only
    obtain ⟨f0, f1, f2, f4, f5, f6, f8, f12, f13⟩ := f
    refine ⟨t, rfl, ?_, fun hge => absurd hge hfull, fun _ => ⟨?_, h.put, f0, f1, f2, f4, f5, f6, f8, f12, f13, h.rest⟩⟩
    · have only := h.only
      rwa [← exc] at only
    · rwa [← hp] at exc

end Sys2Proof.Machine
end

section
/-!
PROOF. The status board (O26): where each field lies, and what each grant of its writer changes (R6, R21, 1.5).
-/
set_option Elab.async false

namespace Sys2Proof.Machine

/-! ### Where the fields of the board lie (1.5) -/

/-- Offset and size of every field of the board, in the order of `State.boardFields`. -/
def boardShape : List (Nat × Nat) :=
  [ (0x004, 1), (0x005, 1), (0x006, 1), (0x007, 1), (0x008, 2), (0x00A, 2), (0x00C, 2), (0x00E, 2), (0x010, 2), (0x012, 2),
    (0x014, 2), (0x016, 2), (0x018, 1), (0x019, 1), (0x01A, 1), (0x01B, 1), (0x020, 1), (0x024, 4), (0x028, 4), (0x02C, 2),
    (0x030, 1), (0x032, 2), (0x034, 2), (0x036, 2), (0x038, 1), (0x040, 1), (0x041, 1), (0x042, 2), (0x044, 1), (0x046, 2) ]
  ++ ((List.range 8).map fun k => (0x050 + k, 1))
  ++ ((List.range 8).flatMap fun k =>
    [(0x060 + 8 * k, 1), (0x061 + 8 * k, 1), (0x062 + 8 * k, 1), (0x063 + 8 * k, 1), (0x064 + 8 * k, 2), (0x066 + 8 * k, 2)])
  ++ ((List.range 8).flatMap fun k => [(0x0A0 + 4 * k, 2), (0x0A2 + 4 * k, 1), (0x0A3 + 4 * k, 1)])
  ++ [ (0x0C0, 4), (0x0C4, 1), (0x0C5, 1), (0x0D0, 2), (0x0D2, 2), (0x0D4, 1), (0x0D5, 1), (0x0E0, 4) ]

/-- A field covers the byte at an offset. -/
def covers (o : Nat) (f : Nat × Nat) : Bool := decide (f.1 ≤ o ∧ o < f.1 + f.2)

theorem State.boardFields_shape (s : State) : s.boardFields.map (fun f => (f.off, f.size)) = boardShape := rfl

/-- No field covers a byte of one before it. -/
theorem boardShape_apart : boardShape.Pairwise fun f g => f.1 + f.2 ≤ g.1 := by decide

/-- Every field ends before offset 0xE4. -/
theorem boardShape_end : ∀ f ∈ boardShape, f.1 + f.2 ≤ 0xE4 := by decide

theorem State.boardFields_apart (s : State) : s.boardFields.Pairwise fun f g => f.off + f.size ≤ g.off := by
  have h := boardShape_apart
  rw [← s.boardFields_shape, List.pairwise_map] at h
  exact h

/-- A byte that a field covers is that field's. -/
theorem State.boardByte_of_field {s : State} {i o n v j : Nat} (hf : s.boardFields[i]? = some ⟨o, n, v⟩) (hj : j < n) :
    s.boardByte (o + j) = BitVec.ofNat 8 (v / 256 ^ j) := by
  obtain ⟨hi, hf⟩ := List.getElem?_eq_some_iff.mp hf
  have found : s.boardFields.find? (fun f => decide (f.off ≤ o + j ∧ o + j < f.off + f.size)) = some ⟨o, n, v⟩ := by
    refine List.find?_eq_some_iff_getElem.mpr ⟨by simp; omega, i, hi, hf, fun m hm => ?_⟩
    have apart := List.pairwise_iff_getElem.mp s.boardFields_apart m i (by omega) hi hm
    rw [hf] at apart
    simp only [Bool.not_eq_true', decide_eq_false_iff_not, not_and, Nat.not_lt]
    intro _
    exact Nat.le_trans apart (Nat.le_add_right o j)
  simp only [State.boardByte, found, Nat.add_sub_cancel_left]

/-- A byte that no field covers is 0 (R21). -/
theorem State.boardByte_of_none (s : State) {o : Nat} (h : boardShape.all fun f => !covers o f) : s.boardByte o = 0 := by
  have none : s.boardFields.find? (fun f => decide (f.off ≤ o ∧ o < f.off + f.size)) = none := by
    rw [List.find?_eq_none]
    intro f hf
    have hm : (f.off, f.size) ∈ boardShape := by
      rw [← s.boardFields_shape]
      exact List.mem_map.mpr ⟨f, hf, rfl⟩
    have hc := List.all_eq_true.mp h _ hm
    simp only [covers, Bool.not_eq_true', decide_eq_false_iff_not] at hc
    simpa only [decide_eq_true_eq] using hc
  simp only [State.boardByte, none]

theorem State.boardFields_lamp (s : State) (i : Fin 8) :
    s.boardFields[30 + i.val]? = some ⟨0x050 + i.val, 1, (s.lgt.lamps.get i).level⟩ := by
  match i with
  | 0 | 1 | 2 | 3 | 4 | 5 | 6 | 7 => rfl

/-- The six fields of a voice's entry (R99). -/
theorem State.boardFields_voice (s : State) (i : Fin 8) (j : Nat) (hj : j < 6) :
    s.boardFields[38 + 6 * i.val + j]? = (voiceFields i (s.voice i))[j]? := by
  match i with
  | 0 | 1 | 2 | 3 | 4 | 5 | 6 | 7 => match j, hj with | 0, _ | 1, _ | 2, _ | 3, _ | 4, _ | 5, _ => rfl

/-- The three fields of an end record's entry (R111). -/
theorem State.boardFields_end (s : State) (i : Fin 8) (j : Nat) (hj : j < 3) :
    s.boardFields[86 + 3 * i.val + j]? = (endFields i (s.snd.endList.get i))[j]? := by
  match i with
  | 0 | 1 | 2 | 3 | 4 | 5 | 6 | 7 => match j, hj with | 0, _ | 1, _ | 2, _ => rfl

/-! ### A word of the board (R21) -/

/-- The grant of word `k`. -/
structure BoardWord (s : State) (k : Nat) (t : State) : Prop where
  read : ∀ i < 4, t.mem.read (0x100 + 4 * k + i) = s.boardByte (4 * k + i)
  rest : ∀ a, a < 0x100 + 4 * k ∨ 0x104 + 4 * k ≤ a → t.mem.read a = s.mem.read a

/-- A byte of the word. -/
theorem BoardWord.byte_at {s t : State} {k o : Nat} (h : BoardWord s k t) (ho : 4 * k ≤ o) (ho' : o < 4 * k + 4) :
    t.mem.read (0x100 + o) = s.boardByte o := by
  obtain ⟨i, rfl⟩ := Nat.exists_eq_add_of_le ho
  rw [← Nat.add_assoc]
  exact h.read i (by omega)

/-- A field of the word, with what its bytes hold of its value. -/
theorem BoardWord.field {s t : State} {k o n v a : Nat} (h : BoardWord s k t) (i : Nat) (hf : s.boardFields[i]? = some ⟨o, n, v⟩)
    (ha : a = 0x100 + o := by omega) (ho : 4 * k ≤ o := by omega) (ho' : o + n ≤ 4 * k + 4 := by omega) :
    t.mem.readLe a n = v % 256 ^ n :=
  Memory.readLe_of_bytes fun j hj => by
    rw [ha, Nat.add_assoc, h.byte_at (by omega) (by omega), State.boardByte_of_field hf hj]

/-- A field of one byte. -/
theorem BoardWord.byte {s t : State} {k o v a : Nat} (h : BoardWord s k t) (i : Nat) (hf : s.boardFields[i]? = some ⟨o, 1, v⟩)
    (ha : a = 0x100 + o := by omega) (ho : 4 * k ≤ o := by omega) (ho' : o < 4 * k + 4 := by omega) :
    t.mem.read a = BitVec.ofNat 8 v := by
  rw [ha, h.byte_at ho ho']
  simpa using State.boardByte_of_field hf (j := 0) (by omega)

/-- Bytes of the word that no field covers. -/
theorem BoardWord.blank {s t : State} {k n a : Nat} (h : BoardWord s k t) (o : Nat)
    (hb : ∀ j < n, (boardShape.all fun f => !covers (o + j) f) = true) (ha : a = 0x100 + o := by omega) (ho : 4 * k ≤ o := by omega)
    (ho' : o + n ≤ 4 * k + 4 := by omega) : t.mem.readLe a n = 0 := by
  rw [Memory.readLe_of_bytes (v := 0) fun j hj => ?_, Nat.zero_mod]
  rw [ha, Nat.add_assoc, h.byte_at (by omega) (by omega), s.boardByte_of_none (hb j hj), Nat.zero_div]
  rfl

/-- A byte of the word that no field covers. -/
theorem BoardWord.blankByte {s t : State} {k a : Nat} (h : BoardWord s k t) (o : Nat)
    (hb : (boardShape.all fun f => !covers o f) = true) (ha : a = 0x100 + o := by omega) (ho : 4 * k ≤ o := by omega)
    (ho' : o < 4 * k + 4 := by omega) : t.mem.read a = 0 := by
  rw [ha, h.byte_at ho ho', s.boardByte_of_none hb]

/-- A word of the board written at its place. -/
theorem BoardWord.of_grant {s : State} {k : Nat} (hw : s.mem.wf = true) (hk : k < 256) (e : Exc) :
    BoardWord s k { s with exc := e, mem := s.mem.writeCells (s.boardCells k) } := by
  have inside : 0x100 + 4 * k
      + [s.boardByte (4 * k), s.boardByte (4 * k + 1), s.boardByte (4 * k + 2), s.boardByte (4 * k + 3)].length ≤ memorySize := by
    simp only [memorySize, List.length_cons, List.length_nil]
    omega
  have run : ∀ x, (s.mem.writeCells (s.boardCells k)).read x
      = if 0x100 + 4 * k ≤ x ∧ x < 0x100 + 4 * k + 4 then
          [s.boardByte (4 * k), s.boardByte (4 * k + 1), s.boardByte (4 * k + 2), s.boardByte (4 * k + 3)].getD (x - (0x100 + 4 * k)) 0
        else s.mem.read x := fun x => Memory.read_writeRun inside hw
  refine ⟨fun i hi => ?_, fun a ha => ?_⟩
  · refine (run _).trans ?_
    rw [if_pos (by omega), Nat.add_sub_cancel_left]
    match i, hi with
    | 0, _ | 1, _ | 2, _ | 3, _ => rfl
  · refine (run _).trans ?_
    rw [if_neg (by omega)]

/-! ### The codes fit their bytes (1.5) -/

theorem PartState.code_lt (p : PartState) : p.code < 256 := by cases p <;> decide
theorem TractionState.code_lt (p : TractionState) : p.code < 256 := by cases p <;> decide
theorem directionCode_lt (d : Direction) : directionCode d < 256 := by cases d <;> decide
theorem Source.code_lt (p : Source) : p.code < 256 := by cases p <;> decide

/-- A field of motor B. -/
theorem State.ofMotorB_mod (s : State) (n : Nat) :
    s.ofMotorB n % 256 ^ 2 = if 2 ≤ s.cfg.traction.motors then n % 65536 else 0 := by
  unfold State.ofMotorB Traction.present
  by_cases h : 2 ≤ s.cfg.traction.motors
  · exact (congrArg (· % 256 ^ 2) (if_pos (by simpa using h))).trans (if_pos h).symm
  · exact (congrArg (· % 256 ^ 2) (if_neg (by simpa using h))).trans (if_neg h).symm

/-- A temperature's field fits two bytes. -/
theorem State.signedField_temp (s : State) : signedField s.smk.temp < 256 ^ 2 := by
  unfold signedField
  omega

/-- A field of two parts. -/
theorem Memory.readLe_add (m : Memory) (a p q : Nat) : m.readLe a (p + q) = m.readLe a p + 256 ^ p * m.readLe (a + p) q := by
  induction p generalizing a with
  | zero => simp [Memory.readLe]
  | succ p ih =>
    rw [Nat.add_right_comm, Memory.readLe, Memory.readLe, ih, Nat.pow_succ, Nat.add_right_comm a 1 p, Nat.mul_add, Nat.mul_comm (256 ^ p) 256]
    simp only [Nat.mul_assoc, Nat.add_assoc]

/-! ### What each word holds -/

section
variable {s t : State} {k : Nat} (h : BoardWord s k t)
include h

theorem BoardWord.states (hk : k = 1) :
    t.mem.readLe 0x104 4 = s.exc.part.code + 2 ^ 8 * s.srg.traction.code + 2 ^ 16 * directionCode s.srg.bridgeDir
      + 2 ^ 24 * s.drq.source.code := by
  subst hk
  have h0 : t.mem.read 0x104 = _ := h.byte 0 rfl
  have h1 : t.mem.read 0x105 = _ := h.byte 1 rfl
  have h2 : t.mem.read 0x106 = _ := h.byte 2 rfl
  have h3 : t.mem.read 0x107 = _ := h.byte 3 rfl
  have l0 := s.exc.part.code_lt
  have l1 := s.srg.traction.code_lt
  have l2 := directionCode_lt s.srg.bridgeDir
  have l3 := s.drq.source.code_lt
  simp only [Memory.readLe, Nat.reduceAdd, h0, h1, h2, h3, BitVec.toNat_ofNat]
  omega

theorem BoardWord.holder (hk : k = 52) :
    (s.rrx.holder = none → t.mem.readLe 0x1D0 4 = 0)
    ∧ ∀ x, s.rrx.holder = some x → t.mem.readLe 0x1D0 2 = x.id.toNat ∧ t.mem.readLe 0x1D2 2 = min 65535 (s.exc.ms - x.heard).toNat := by
  subst hk
  have id : t.mem.readLe 0x1D0 2 = s.holderId % 256 ^ 2 := h.field 113 rfl
  have age : t.mem.readLe 0x1D2 2 = s.holderAge % 256 ^ 2 := h.field 114 rfl
  refine ⟨fun hn => ?_, fun x hx => ⟨?_, ?_⟩⟩
  · rw [Memory.readLe_add t.mem 0x1D0 2 2, id, age]
    simp [State.holderId, State.holderAge, hn]
  · rw [id, State.holderId, hx]
    exact Nat.mod_eq_of_lt x.id.isLt
  · rw [age, State.holderAge, hx]
    exact Nat.mod_eq_of_lt (Nat.lt_of_le_of_lt (Nat.min_le_left 65535 _) (by decide))

/-- Where no field lies, the word is 0. -/
theorem BoardWord.empty (hk : k = 7 ∨ k = 15 ∨ k = 18 ∨ k = 19 ∨ k = 22 ∨ k = 23 ∨ k = 50 ∨ k = 51 ∨ k = 54 ∨ k = 55 ∨ (57 ≤ k ∧ k < 256)) :
    t.mem.readLe (0x100 + 4 * k) 4 = 0 := by
  refine h.blank (4 * k) fun j hj => ?_
  by_cases high : 57 ≤ k
  · refine List.all_eq_true.mpr fun f hf => ?_
    have := boardShape_end f hf
    simp only [covers, Bool.not_eq_true', decide_eq_false_iff_not]
    omega
  · have low : ∀ k ∈ [7, 15, 18, 19, 22, 23, 50, 51, 54, 55], ∀ j < 4, (boardShape.all fun f => !covers (4 * k + j) f) = true := by
      decide
    exact low k (by simp; omega) j hj

/-- The words of a voice and of an end record. -/
theorem BoardWord.entries (i : Fin 8) :
    (k = 24 + 2 * i.val → t.mem.read (0x160 + 8 * i.val) = BitVec.ofNat 8 (s.voice i).state.code
      ∧ t.mem.read (0x161 + 8 * i.val) = BitVec.ofNat 8 (s.voice i).clip
      ∧ t.mem.read (0x162 + 8 * i.val) = BitVec.ofNat 8 (s.voice i).priority
      ∧ t.mem.read (0x163 + 8 * i.val) = BitVec.ofNat 8 (s.voice i).volume)
    ∧ (k = 25 + 2 * i.val → t.mem.readLe (0x164 + 8 * i.val) 2 = (s.voice i).tag.toNat
      ∧ t.mem.readLe (0x166 + 8 * i.val) 2 = (s.voice i).pitch % 65536)
    ∧ (k = 40 + i.val → t.mem.readLe (0x1A0 + 4 * i.val) 2 = (s.snd.endList.get i).tag.toNat
      ∧ t.mem.read (0x1A2 + 4 * i.val) = BitVec.ofNat 8 (s.snd.endList.get i).reason.code
      ∧ t.mem.read (0x1A3 + 4 * i.val) = BitVec.ofNat 8 (s.snd.endList.get i).voice) := by
  refine ⟨fun hk => ⟨?_, ?_, ?_, ?_⟩, fun hk => ⟨?_, ?_⟩, fun hk => ⟨?_, ?_, ?_⟩⟩
  · exact h.byte _ (s.boardFields_voice i 0 (by decide))
  · exact h.byte _ (s.boardFields_voice i 1 (by decide))
  · exact h.byte _ (s.boardFields_voice i 2 (by decide))
  · exact h.byte _ (s.boardFields_voice i 3 (by decide))
  · exact (h.field _ (s.boardFields_voice i 4 (by decide))).trans (Nat.mod_eq_of_lt (s.voice i).tag.isLt)
  · exact h.field _ (s.boardFields_voice i 5 (by decide))
  · exact (h.field _ (s.boardFields_end i 0 (by decide))).trans (Nat.mod_eq_of_lt (s.snd.endList.get i).tag.isLt)
  · exact h.byte _ (s.boardFields_end i 1 (by decide))
  · exact h.byte _ (s.boardFields_end i 2 (by decide))

end

/-! ### The writer's grants (R6, R21) -/

/-- With nothing before it, the arbiter's grant is the status board writer's. -/
theorem State.grant_board {s : State} {k : Nat} (hsound : s.soundWaits = false) (hport : s.port.awaiting = none)
    (hinbox : s.inboxWaits = false) (hb : s.exc.board = some k) : s.grant = (s.noteGrant .board).boardGrant k := by
  simp [State.grant, State.writerGrant, State.class3Grant, hsound, hport, hinbox, hb]

theorem State.boardGrant_first (s : State) :
    s.boardGrant 0 = { s with exc := { s.exc with board := some 1 }, mem := s.mem.writeCells (leCells 0x100 4 s.exc.boardGen.toNat) } :=
  rfl

theorem State.boardGrant_word {k : Nat} (s : State) (h0 : 0 < k) (hk : k < 256) :
    s.boardGrant k = { s with exc := { s.exc with board := some (k + 1) }, mem := s.mem.writeCells (s.boardCells k) } := by
  rw [State.boardGrant, if_neg (by omega), if_pos (by unfold boardWords; exact hk)]
  rfl

theorem State.boardGrant_last {k : Nat} (s : State) (hk : 256 ≤ k) :
    s.boardGrant k = { s with
      exc := { s.exc with board := none, boardGen := s.exc.boardGen + 1 },
      mem := s.mem.writeCells (leCells 0x100 4 (s.exc.boardGen + 1).toNat) } := by
  rw [State.boardGrant, if_neg (by omega), if_neg (by unfold boardWords; omega)]
  rfl

/-- The generation written to its word. -/
theorem Memory.generation_written {m : Memory} (hw : m.wf = true) (g : Word) :
    (m.writeCells (leCells 0x100 4 g.toNat)).readLe 0x100 4 = g.toNat
    ∧ ∀ a, a < 0x100 ∨ 0x104 ≤ a → (m.writeCells (leCells 0x100 4 g.toNat)).read a = m.read a :=
  ⟨(Memory.readLe_writeField (by decide) hw).trans (Nat.mod_eq_of_lt g.isLt), fun a ha => by
    rw [Memory.read_writeField (by decide) hw, if_neg (by omega)]⟩

/-- What a grant of the status board writer alone does (R21). -/
structure BoardGranted (s : State) (k : Nat) (t : State) : Prop where
  only : t = { s with exc := t.exc, mem := t.mem }
  exc  : t.exc = { s.exc with
    board := if 256 ≤ k then none else some (k + 1), boardGen := if 256 ≤ k then s.exc.boardGen + 1 else s.exc.boardGen,
    class3Last := t.exc.class3Last }
  gen  : k = 0 ∨ 256 ≤ k → t.mem.readLe 0x100 4 = t.exc.boardGen.toNat ∧ ∀ a, a < 0x100 ∨ 0x104 ≤ a → t.mem.read a = s.mem.read a
  word : 0 < k → k < 256 → BoardWord s k t

theorem State.grant_boardGranted {s : State} {k : Nat} (hw : s.mem.wf = true) (hsound : s.soundWaits = false)
    (hport : s.port.awaiting = none) (hinbox : s.inboxWaits = false) (hb : s.exc.board = some k) : BoardGranted s k s.grant := by
  rw [State.grant_board hsound hport hinbox hb]
  rcases Nat.eq_zero_or_pos k with rfl | h0
  · rw [State.boardGrant_first]
    exact ⟨rfl, rfl, fun _ => Memory.generation_written hw s.exc.boardGen, fun h => absurd h (by omega)⟩
  · rcases Nat.lt_or_ge k 256 with hk | hk
    · rw [State.boardGrant_word _ h0 hk]
      refine ⟨rfl, ?_, fun h => absurd h (by omega), fun _ _ => BoardWord.of_grant hw hk _⟩
      rw [if_neg (by omega), if_neg (by omega)]
      rfl
    · rw [State.boardGrant_last _ hk]
      refine ⟨rfl, ?_, fun _ => Memory.generation_written hw (s.exc.boardGen + 1), fun _ h => absurd h (by omega)⟩
      rw [if_pos hk, if_pos hk]
      rfl

/-- Settles O26: the timer's cases, and the writer's grants word by word. -/
theorem boardWrites : Obligations.BoardWrites := by
  unfold Obligations.BoardWrites
  refine ⟨fun s => ⟨fun h => ?_, fun h hb => ?_, fun h hb => ?_, fun h hb => ?_, fun h hb => ?_⟩, ?_⟩
  · show execBoardTimer s = _
    rw [execBoardTimer, if_pos h]
  · show execBoardTimer s = _
    rw [execBoardTimer, if_neg h, if_neg (by simp [hb])]
    rfl
  · show execBoardTimer s = _
    rw [execBoardTimer, if_neg h, if_pos (Option.isSome_iff_ne_none.mpr hb)]
  · show execBoardWriteDeferred s = _
    rw [execBoardWriteDeferred, if_pos ⟨h, hb⟩]
    rfl
  · show execBoardWriteDeferred s = _
    rw [execBoardWriteDeferred, if_neg fun hc => hb hc.2]
  intro s k hw hsound hport hinbox hb byte ofB
  have g := State.grant_boardGranted hw hsound hport hinbox hb
  have e : exec .arbiterGrant s = .next s.grant := rfl
  generalize s.grant = t at g e
  have at' : ∀ n, 0 < n → n < 256 → k = n → BoardWord s n t := fun n h0 hn hk => hk ▸ g.word (hk ▸ h0) (hk ▸ hn)
  refine ⟨t, e, g.only, g.exc, g.gen, fun h0 hk => (g.word h0 hk).rest, fun hk => (at' 1 (by decide) (by decide) hk).states rfl,
    ?_, ?_, ?_, ?_, ?_, ?_, ?_, ?_, ?_, ?_, ?_, ?_, ?_, ?_, ?_, ?_, ?_, ?_, ?_, ?_, ?_, ?_⟩
  · intro hk
    have h := at' 2 (by decide) (by decide) hk
    exact ⟨h.field 4 rfl, h.field 5 rfl⟩
  · intro hk
    have h := at' 3 (by decide) (by decide) hk
    exact ⟨h.field 6 rfl, (h.field 7 rfl).trans (s.ofMotorB_mod _)⟩
  · intro hk
    have h := at' 4 (by decide) (by decide) hk
    exact ⟨h.field 8 rfl, (h.field 9 rfl).trans (s.ofMotorB_mod _)⟩
  · intro hk
    have h := at' 5 (by decide) (by decide) hk
    exact ⟨h.field 10 rfl, (h.field 11 rfl).trans (s.ofMotorB_mod _)⟩
  · intro hk
    have h := at' 6 (by decide) (by decide) hk
    exact ⟨h.byte 12 rfl, h.byte 13 rfl, h.byte 14 rfl, h.byte 15 rfl⟩
  · intro hk
    have h := at' 8 (by decide) (by decide) hk
    exact ⟨h.byte 16 rfl, h.blank 0x21 (by decide)⟩
  · intro hk
    have h := at' 9 (by decide) (by decide) hk
    exact (h.field 17 rfl).trans (Nat.mod_eq_of_lt s.chk.count.isLt)
  · intro hk
    exact (at' 10 (by decide) (by decide) hk).field 18 rfl
  · intro hk
    have h := at' 11 (by decide) (by decide) hk
    exact ⟨h.field 19 rfl, h.blank 0x2E (by decide)⟩
  · intro hk
    have h := at' 12 (by decide) (by decide) hk
    exact ⟨h.byte 20 rfl, h.blankByte 0x31 (by decide), h.field 21 rfl⟩
  · intro hk
    have h := at' 13 (by decide) (by decide) hk
    exact ⟨h.field 22 rfl, h.field 23 rfl⟩
  · intro hk
    have h := at' 14 (by decide) (by decide) hk
    exact ⟨h.byte 24 rfl, h.blank 0x39 (by decide)⟩
  · intro hk
    have h := at' 16 (by decide) (by decide) hk
    exact ⟨h.byte 25 rfl, h.byte 26 rfl, (h.field 27 rfl).trans (Nat.mod_eq_of_lt s.signedField_temp)⟩
  · intro hk
    have h := at' 17 (by decide) (by decide) hk
    exact ⟨h.byte 28 rfl, h.blankByte 0x45 (by decide), h.field 29 rfl⟩
  · intro i hk
    exact (at' _ (by omega) (by omega) hk).byte _ (s.boardFields_lamp i)
  · intro i
    refine ⟨fun hk => ?_, fun hk => ?_, fun hk => ?_⟩
    · exact ((at' _ (by omega) (by omega) hk).entries i).1 rfl
    · exact ((at' _ (by omega) (by omega) hk).entries i).2.1 rfl
    · exact ((at' _ (by omega) (by omega) hk).entries i).2.2 rfl
  · intro hk
    exact ((at' 48 (by decide) (by decide) hk).field 110 rfl).trans (Nat.mod_eq_of_lt s.snd.endCount.isLt)
  · intro hk
    have h := at' 49 (by decide) (by decide) hk
    exact ⟨h.byte 111 rfl, h.byte 112 rfl, h.blank 0xC6 (by decide)⟩
  · intro hk
    exact (at' 52 (by decide) (by decide) hk).holder rfl
  · intro hk
    have h := at' 53 (by decide) (by decide) hk
    exact ⟨(h.byte 115 rfl).trans (by simp), h.byte 116 rfl, h.blank 0xD6 (by decide)⟩
  · intro hk
    exact ((at' 56 (by decide) (by decide) hk).field 117 rfl).trans (Nat.mod_eq_of_lt s.drq.functions.isLt)
  · intro hk
    exact (g.word (by omega) (by omega)).empty hk

end Sys2Proof.Machine
end

section
/-!
PROOF. The memory arbiter (O25): which waiting request a grant goes to, and what each grant does (R6, R20).
-/
set_option Elab.async false

namespace Sys2Proof.Machine

/-! ### What a grant of classes 1 to 3 leaves of EXC -/

/-- A grant of classes 1 to 3 touches the two class 3 writers' progress alone within EXC. -/
def WriterGrant (s t : State) : Prop :=
  t.exc = { s.exc with
    inboxStep := t.exc.inboxStep, class3Last := t.exc.class3Last, board := t.exc.board, boardGen := t.exc.boardGen }

theorem WriterGrant.trans {s t u : State} (h : WriterGrant s t) (h' : WriterGrant t u) : WriterGrant s u := by
  unfold WriterGrant at *
  rw [h'] at *
  rw [h]

theorem State.boardGrant_exc (s : State) (k : Nat) : WriterGrant s (s.boardGrant k) := by
  unfold State.boardGrant
  split
  · rfl
  · split <;> rfl

theorem State.inboxGrant_exc (s : State) : WriterGrant s s.inboxGrant := by
  unfold State.inboxGrant
  split
  · rfl
  · split
    · unfold State.readSeen
      split <;> rfl
    · rfl

theorem State.class3Grant_exc (s : State) (x : Class3) : WriterGrant s (s.class3Grant x) := by
  cases x with
  | board =>
    unfold State.class3Grant
    split
    next k h =>
      show WriterGrant s (match s.exc.board with | some k => (s.noteGrant .board).boardGrant k | none => s)
      split
      · exact WriterGrant.trans (t := s.noteGrant .board) rfl (State.boardGrant_exc _ _)
      · rfl
    next h => cases h
  | inbox => exact WriterGrant.trans (t := s.noteGrant .inbox) rfl (State.inboxGrant_exc _)

theorem State.writerGrant_exc (s : State) : WriterGrant s s.writerGrant := by
  unfold State.writerGrant
  split
  · exact WriterGrant.trans (t := { s with exc := { s.exc with class3Last := some (Class3.turn s.exc.class3Last) } }) rfl
      (State.class3Grant_exc _ _)
  · split <;> exact State.class3Grant_exc _ _

/-- While a request of class 1, 2 or 3 waits, the grant is theirs. -/
theorem State.grant_exc {s : State} (h : s.lowerWaits = true) : WriterGrant s s.grant := by
  unfold State.grant
  split
  · rfl
  next hsound =>
    split
    · rw [WriterGrant, State.portGrant_exc]
    next hport =>
      rw [if_pos (by simpa [State.lowerWaits, hsound, hport] using h)]
      exact s.writerGrant_exc

theorem State.inboxWaits_lower {s : State} (h : s.inboxWaits = true) : s.lowerWaits = true := by
  simp [State.lowerWaits, h]

theorem State.soundWaits_lower {s : State} (h : s.soundWaits = true) : s.lowerWaits = true := by
  simp [State.lowerWaits, h]

/-! ### The runs of grants that serve one writer -/

/-- The sound engine's turn begins with the arbiter's next grant (R6). -/
theorem State.serveSound_grant {s : State} (h : s.soundWaits = true) : s.serveSound = s.grant.serveSound := by
  have falls : ∀ u : State, u.soundWaits = true → u.grant.soundLeft < u.soundLeft := by
    intro u hu
    rw [State.grant, if_pos hu]
    unfold State.soundWaits at hu
    cases hc : u.snd.current with
    | none => simp [hc] at hu
    | some w =>
      simp only [hc, decide_eq_true_eq] at hu
      simp only [State.soundLeft, State.soundGrant, hc, Option.map_some, Option.getD_some, StartWork.readMore, List.length_append,
        List.length_singleton]
      omega
  have few : s.soundLeft ≤ 4 := by
    unfold State.soundLeft
    cases s.snd.current <;> simp
  have first : s.serveSound = State.grantWhile State.soundWaits 3 s.grant := by
    show (if s.soundWaits then _ else _) = _
    rw [if_pos h]
  rw [first]
  exact (State.grantWhile_stable falls 3 s.grant (by have := falls s h; omega)).symm

/-- What the inbox writer waits for, counted with a board grant before each of its own, but the one whose turn it is (R6). -/
def State.inboxTurns (s : State) : Nat :=
  s.soundLeft + s.portLeft + (2 * s.inboxLeft - if Class3.turn s.exc.class3Last = .inbox then 1 else 0)

theorem State.inboxTurns_le (s : State) : s.inboxTurns ≤ 23 := by
  have hs : s.soundLeft ≤ 4 := by
    unfold State.soundLeft
    cases s.snd.current <;> simp
  have hp : s.portLeft ≤ 1 := by
    unfold State.portLeft
    split <;> omega
  have hi : s.inboxLeft ≤ 9 := by
    unfold State.inboxLeft
    split
    · omega
    · omega
    · split <;> omega
  unfold State.inboxTurns
  omega

theorem State.boardGrant_keeps (s : State) (k : Nat) :
    (s.boardGrant k).snd = s.snd ∧ (s.boardGrant k).port = s.port ∧ (s.boardGrant k).exc.inboxQueue = s.exc.inboxQueue
    ∧ (s.boardGrant k).exc.inboxStep = s.exc.inboxStep ∧ (s.boardGrant k).exc.class3Last = s.exc.class3Last := by
  unfold State.boardGrant
  split
  · exact ⟨rfl, rfl, rfl, rfl, rfl⟩
  · split <;> exact ⟨rfl, rfl, rfl, rfl, rfl⟩

theorem State.inboxGrant_keeps (s : State) :
    s.inboxGrant.snd = s.snd ∧ s.inboxGrant.port = s.port ∧ s.inboxGrant.exc.inboxQueue = s.exc.inboxQueue
    ∧ s.inboxGrant.exc.board = s.exc.board ∧ s.inboxGrant.exc.class3Last = s.exc.class3Last := by
  unfold State.inboxGrant
  split
  · exact ⟨rfl, rfl, rfl, rfl, rfl⟩
  · split
    · unfold State.readSeen
      split <;> exact ⟨rfl, rfl, rfl, rfl, rfl⟩
    · exact ⟨rfl, rfl, rfl, rfl, rfl⟩

/-- What the inbox writer waits for stands in its own fields. -/
theorem State.inboxLeft_congr {s t : State} (hq : t.exc.inboxQueue = s.exc.inboxQueue) (hp : t.exc.inboxStep = s.exc.inboxStep) :
    t.inboxLeft = s.inboxLeft := by
  rw [State.inboxLeft, State.inboxLeft, hq, hp]

/-- A writer that waits has a grant left. -/
theorem State.inboxLeft_pos {s : State} (h : s.inboxWaits = true) : 0 < s.inboxLeft := by
  unfold State.inboxWaits at h
  unfold State.inboxLeft
  split at h
  · cases h
  next hq =>
    rw [hq]
    split at h
    next ha => simp [ha]
    next k ha =>
      simp only [Bool.and_eq_true, decide_eq_true_eq, inboxWords] at h
      obtain ⟨hk, hw⟩ := h
      have hw : s.exc.inboxStep.words < 8 := of_decide_eq_true hw
      simp only [ha, hk, if_true]
      omega

/-- A grant of the inbox writer is one less to wait for. -/
theorem State.inboxGrant_fewer {s : State} (h : s.inboxWaits = true) (x : Option Class3) :
    (({ s with exc := { s.exc with class3Last := x } } : State).inboxGrant).inboxLeft < s.inboxLeft := by
  have less := State.inboxGrant_left h x
  obtain ⟨hsnd, hport, _, hboard, _⟩ := State.inboxGrant_keeps { s with exc := { s.exc with class3Last := x } }
  generalize State.inboxGrant { s with exc := { s.exc with class3Last := x } } = t at *
  have es : t.soundLeft = s.soundLeft := by rw [State.soundLeft, State.soundLeft, hsnd]
  have ep : t.portLeft = s.portLeft := by rw [State.portLeft, State.portLeft, hport]
  have eb : t.boardLeft = s.boardLeft := by rw [State.boardLeft, State.boardLeft, hboard]
  unfold State.lowerLeft at less
  omega

/-- The grant of a class 3 writer that the inbox writer's request is served by, at once or after the board's turn. -/
theorem State.writerGrant_turns {s : State} (h : s.inboxWaits = true) : s.writerGrant.inboxTurns < s.inboxTurns := by
  have turns : ∀ t : State, t.snd = s.snd → t.port = s.port →
      (t.inboxLeft < s.inboxLeft ∨ t.inboxLeft = s.inboxLeft ∧ Class3.turn s.exc.class3Last = .board ∧ t.exc.class3Last = some .board) →
      t.inboxTurns < s.inboxTurns := by
    intro t hsnd hport hl
    have es : t.soundLeft = s.soundLeft := by rw [State.soundLeft, State.soundLeft, hsnd]
    have ep : t.portLeft = s.portLeft := by rw [State.portLeft, State.portLeft, hport]
    have pos := State.inboxLeft_pos h
    unfold State.inboxTurns
    rw [es, ep]
    rcases hl with less | ⟨same, before, after⟩
    · have now : (if Class3.turn s.exc.class3Last = .inbox then 1 else 0) ≤ 1 := by split <;> omega
      omega
    · rw [same, before, after]
      simp only [Class3.turn, reduceCtorEq, if_true, if_false]
      omega
  unfold State.writerGrant
  split
  next both =>
    generalize hturn : Class3.turn s.exc.class3Last = w
    cases w with
    | board =>
      obtain ⟨k, hk⟩ := Option.isSome_iff_exists.mp both.1
      simp only [State.class3Grant, hk]
      obtain ⟨hsnd, hport, hq, hp, hlast⟩ := State.boardGrant_keeps
        (State.noteGrant { s with exc := { s.exc with class3Last := some .board } } .board) k
      exact turns _ hsnd hport (.inr ⟨State.inboxLeft_congr hq hp, hturn, hlast⟩)
    | inbox =>
      obtain ⟨hsnd, hport, _⟩ := State.inboxGrant_keeps
        (State.noteGrant { s with exc := { s.exc with class3Last := some .inbox } } .inbox)
      exact turns _ hsnd hport (.inl (State.inboxGrant_fewer h _))
  next both =>
    rw [if_neg (by simpa [h] using both)]
    obtain ⟨hsnd, hport, _⟩ := State.inboxGrant_keeps (s.noteGrant .inbox)
    exact turns _ hsnd hport (.inl (State.inboxGrant_fewer h _))

/-- Every grant brings the inbox writer nearer to the end of its frame. -/
theorem State.grant_turns {s : State} (h : s.inboxWaits = true) : s.grant.inboxTurns < s.inboxTurns := by
  unfold State.grant
  split
  next hsound =>
    unfold State.soundWaits at hsound
    cases hc : s.snd.current with
    | none => simp [hc] at hsound
    | some w =>
      simp only [hc, decide_eq_true_eq] at hsound
      have less : s.soundGrant.soundLeft < s.soundLeft := by
        simp only [State.soundLeft, State.soundGrant, hc, Option.map_some, Option.getD_some, StartWork.readMore, List.length_append,
          List.length_singleton]
        omega
      exact Nat.add_lt_add_right (Nat.add_lt_add_right less _) _
  next =>
    split
    next hport =>
      have less : s.portGrant.portLeft < s.portLeft := by
        rw [State.portGrant_eq, State.portLeft, State.portLeft, if_pos hport]
        exact Nat.one_pos
      have same : s.portGrant.soundLeft = s.soundLeft := by rw [State.portGrant_eq]; rfl
      have inbox : s.portGrant.inboxLeft = s.inboxLeft := by rw [State.portGrant_eq]; rfl
      unfold State.inboxTurns
      rw [same, inbox, State.portGrant_exc]
      omega
    next =>
      rw [if_pos (by simp [h])]
      exact State.writerGrant_turns h

/-- The inbox writer's turn begins with the arbiter's next grant (R6). -/
theorem State.serveInbox_grant {s : State} (h : s.inboxWaits = true) : s.serveInbox = s.grant.serveInbox := by
  have first : s.serveInbox = State.grantWhile State.inboxWaits 22 s.grant := by
    show (if s.inboxWaits then _ else _) = _
    rw [if_pos h]
  rw [first]
  exact (State.grantWhile_stable (fun _ h => State.grant_turns h) 22 s.grant (by
    have := State.grant_turns h
    have := s.inboxTurns_le
    omega)).symm

/-! ### One grant by class (R6) -/

theorem State.grant_sound {s : State} {w : StartWork} (hc : s.snd.current = some w) (hl : w.words.length < 4) :
    s.grant = { s with snd := { s.snd with current := some { w with
      words := w.words ++ [s.mem.readWord (0x2000 + 16 * w.req.clip + 4 * w.words.length)] } } } := by
  rw [State.grant, if_pos (by simp [State.soundWaits, hc, hl]), State.soundGrant, hc]
  rfl

theorem State.grant_port {s : State} {q : List Host.Cell} (hs : s.soundWaits = false) (hq : s.port.awaiting = some q) :
    s.grant = { s with mem := s.mem.writeCells q, port := { s.port with awaiting := none } } := by
  rw [State.grant, if_neg (by simp [hs]), if_pos (by simp [hq]), State.portGrant_eq, hq]
  rfl

theorem State.grant_reader {s : State} {a : Adoption} (hl : s.lowerWaits = false) (ha : s.exc.adoption = some a)
    (hw : a.words.length < groupWords a.group) :
    s.grant = { s with exc := { s.exc with adoption := some { a with
      words := a.words ++ [s.mem.readWord (groupBase a.group + 4 * a.words.length)] } } } := by
  simp only [State.lowerWaits, Bool.or_eq_false_iff] at hl
  obtain ⟨⟨⟨hs, hp⟩, hb⟩, hi⟩ := hl
  rw [State.grant, if_neg (by simp [hs]), if_neg (by simp [hp]), if_neg (by simp [hb, hi]),
    if_pos (by simp [State.adoptionWaits, ha, hw]), State.readerGrant, ha]
  rfl

theorem State.grant_none {s : State} (hl : s.lowerWaits = false) (ha : s.adoptionWaits = false) : s.grant = s := by
  simp only [State.lowerWaits, Bool.or_eq_false_iff] at hl
  obtain ⟨⟨⟨hs, hp⟩, hb⟩, hi⟩ := hl
  rw [State.grant, if_neg (by simp [hs]), if_neg (by simp [hp]), if_neg (by simp [hb, hi]), if_neg (by simp [ha])]

/-! ### The grant order -/

/-- The board write goes on, or ends. -/
theorem State.boardGrant_board (s : State) (k : Nat) : (s.boardGrant k).exc.board ≠ some k := by
  unfold State.boardGrant
  split
  next h0 => simp [State.boardAt, h0]
  next => split <;> simp [State.boardAt]

/-- When both class 3 writers wait, they take turns (R6). -/
theorem State.grant_contention {s : State} {k : Nat} (hs : s.soundWaits = false) (hp : s.port.awaiting = none)
    (hb : s.exc.board = some k) (hi : s.inboxWaits = true) :
    (s.exc.class3Last ≠ some .board → s.grant.exc.class3Last = some .board ∧ s.grant.exc.board ≠ s.exc.board
        ∧ s.grant.exc.inboxStep = s.exc.inboxStep ∧ s.grant.exc.inboxQueue = s.exc.inboxQueue)
    ∧ (s.exc.class3Last = some .board → s.grant.exc.class3Last = some .inbox ∧ s.grant.exc.board = s.exc.board
        ∧ s.grant.exc.inboxStep ≠ s.exc.inboxStep ∧ s.grant.exc.inboxQueue = s.exc.inboxQueue)
    ∧ s.grant = { s with exc := s.grant.exc, mem := s.grant.mem } := by
  have e : s.grant = ({ s with exc := { s.exc with class3Last := some (Class3.turn s.exc.class3Last) } } : State).class3Grant
      (Class3.turn s.exc.class3Last) := by
    rw [State.grant, if_neg (by simp [hs]), if_neg (by simp [hp]), if_pos (by simp [hi]), State.writerGrant, if_pos (by simp [hb, hi])]
  rw [e]
  cases hw : Class3.turn s.exc.class3Last with
  | board =>
    have before : s.exc.class3Last ≠ some .board := fun h => by rw [h] at hw; cases hw
    have grants : State.class3Grant { s with exc := { s.exc with class3Last := some .board } } .board
        = (State.noteGrant { s with exc := { s.exc with class3Last := some .board } } .board).boardGrant k := by
      simp only [State.class3Grant, hb]
    rw [grants]
    generalize hu : State.noteGrant { s with exc := { s.exc with class3Last := some .board } } .board = u
    have only := State.boardGrant_grantOnly u k
    have next := u.boardGrant_board k
    obtain ⟨hsnd, hport, hq, hp', hlast⟩ := State.boardGrant_keeps u k
    generalize u.boardGrant k = t at *
    subst hu
    refine ⟨fun _ => ⟨hlast, by rw [hb]; exact next, hp', hq⟩, fun h => absurd h before, ?_⟩
    rw [only, hsnd, hport]
    rfl
  | inbox =>
    have before : s.exc.class3Last = some .board := by
      cases hl : s.exc.class3Last with
      | none => rw [hl] at hw; cases hw
      | some x => cases x with
        | board => rfl
        | inbox => rw [hl] at hw; cases hw
    have grants : State.class3Grant { s with exc := { s.exc with class3Last := some .inbox } } .inbox
        = (State.noteGrant { s with exc := { s.exc with class3Last := some .inbox } } .inbox).inboxGrant := rfl
    rw [grants]
    have fewer := State.inboxGrant_fewer hi (some .inbox)
    generalize hu : State.noteGrant { s with exc := { s.exc with class3Last := some .inbox } } .inbox = u
    have only := State.inboxGrant_grantOnly u
    obtain ⟨hsnd, hport, hq, hboard, hlast⟩ := State.inboxGrant_keeps u
    have fewer : u.inboxGrant.inboxLeft < s.inboxLeft := by rw [← hu]; exact fewer
    generalize u.inboxGrant = t at *
    subst hu
    refine ⟨fun h => absurd before h, fun _ => ⟨hlast, hboard, fun same => ?_, hq⟩, ?_⟩
    · rw [State.inboxLeft_congr (s := s) hq same] at fewer
      exact Nat.lt_irrefl _ fewer
    · rw [only, hsnd, hport]
      rfl

/-- Settles O25: each class's grant, and the waiting requests that go before what a step asks for. -/
theorem grantOrder : Obligations.GrantOrder := by
  unfold Obligations.GrantOrder
  refine ⟨fun s => ⟨fun w hc hl => ?_, fun hs => ⟨fun q hq => ?_, fun hp hb hi => ⟨fun a ha hw => ?_, fun ha => ?_⟩⟩⟩, ?_, ?_, ?_⟩
  · exact congrArg Host.Outcome.next (State.grant_sound hc hl)
  · exact congrArg Host.Outcome.next (State.grant_port hs hq)
  · exact congrArg Host.Outcome.next (State.grant_reader (by simp [State.lowerWaits, hs, hp, hb, hi]) ha hw)
  · exact congrArg Host.Outcome.next (State.grant_none (by simp [State.lowerWaits, hs, hp, hb, hi]) ha)
  · intro s k hs hp hb hi
    exact ⟨s.grant, rfl, State.grant_contention hs hp hb hi⟩
  · intro s j rest hw hs hp hb hq
    have alone : s.InboxAlone := ⟨hs, hp, hb⟩
    refine ⟨fun ha => ⟨s.grant, rfl, ?_⟩, fun k ha hk hn => ⟨s.grant, rfl, ?_⟩⟩
    · rw [alone.grant_seen hq ha, ← s.inboxAhead_eq]
      exact ⟨rfl, rfl, rfl⟩
    · rw [alone.grant_word hq ha hk hn]
      refine ⟨?_, fun i hi => ?_, fun x hx => ?_⟩
      · rfl
      · refine (Memory.read_inboxCells hw _ _ hn _).trans ?_
        rw [if_pos (by unfold inboxAddr; omega)]
        congr 1
        unfold inboxAddr
        omega
      · refine (Memory.read_inboxCells hw _ _ hn _).trans ?_
        rw [if_neg (by unfold inboxAddr; omega)]
  · intro s
    refine ⟨s.grant, rfl, fun h => ⟨fun hp => ?_, fun hh hc => ?_, fun hh hc hp => ?_, fun ha => ?_⟩, fun h => ?_, fun h => ⟨?_, ?_⟩⟩
    · have e := State.grant_exc h
      show execScanTimer s = execScanTimer s.grant
      rw [execScanTimer, execScanTimer, if_neg hp, if_neg (by rw [e]; exact hp), State.serveLower_grant h]
    · have e := State.grant_exc h
      show execScanWorkDeferred s = execScanWorkDeferred s.grant
      rw [execScanWorkDeferred, execScanWorkDeferred, if_pos ⟨hh, by simp [State.scanBusy, hc]⟩,
        if_pos ⟨by rw [e]; exact hh, by rw [State.scanBusy, e]; simp [hc]⟩, State.serveLower_grant h]
    · have e := State.grant_exc h
      have chuff : s.grant.exc.chuffHeld = s.exc.chuffHeld := by rw [e]
      have scan : s.grant.exc.scan = s.exc.scan := by rw [e]
      have part : s.grant.exc.part = s.exc.part := by rw [e]
      show execAtChuffSlotTake s = execAtChuffSlotTake s.grant
      rw [execAtChuffSlotTake, execAtChuffSlotTake, State.scanBusy, State.scanBusy, chuff, scan, part, State.serveLower_grant h, if_pos hp,
        if_pos ⟨hh, by simp [hc]⟩, if_pos ⟨hh, by simp [hc]⟩, if_pos hp]
    · have e : s.grant.exc.adoption = s.exc.adoption := by rw [State.grant_exc h]
      have waits : s.grant.adoptionWaits = true := by rw [State.adoptionWaits, e]; exact ha
      have turn : s.readerTurn = s.grant.readerTurn := by
        rw [State.readerTurn, State.readerTurn, if_pos ha, if_pos waits, State.serveLower_grant h]
      show execAdoptionGroupRead s = execAdoptionGroupRead s.grant
      unfold execAdoptionGroupRead
      rw [e, turn]
      cases hA : s.exc.adoption with
      | none => simp [State.adoptionWaits, hA] at ha
      | some a => rfl
    · have e : s.grant.exc.inboxQueue = s.exc.inboxQueue := by rw [State.grant_exc (State.inboxWaits_lower h)]
      show Host.Outcome.next s.inboxFinish = Host.Outcome.next s.grant.inboxFinish
      unfold State.inboxFinish
      rw [e, State.serveInbox_grant h]
      cases hq : s.exc.inboxQueue with
      | nil => simp [State.inboxWaits, hq] at h
      | cons j rest => rfl
    · intro lanes addr n late hn
      show execReadMemory lanes addr n late s = execReadMemory lanes addr n late s.grant
      have e : s.grant.exc = s.exc := by rw [State.grant, if_pos h]; rfl
      rw [execReadMemory, execReadMemory, if_neg (by omega), if_neg (by omega), e, State.serveSound_grant h]
    · intro lanes addr data tail delays hd hc
      show execWriteMemory lanes addr data tail delays s = execWriteMemory lanes addr data tail delays s.grant
      have e : s.grant.exc = s.exc ∧ s.grant.port = s.port := by rw [State.grant, if_pos h]; exact ⟨rfl, rfl⟩
      have needs : s.writeNeedsGrant data = true := by
        simp only [State.writeNeedsGrant, Bool.or_eq_true, Bool.not_eq_true', List.isEmpty_eq_false_iff,
          Option.isSome_iff_ne_none]
        exact hd
      have needs' : s.grant.writeNeedsGrant data = true := by rw [State.writeNeedsGrant, e.2]; exact needs
      have open' : ¬ s.exc.clearing = true := by simp [hc]
      rw [execWriteMemory, execWriteMemory, e.1, if_neg open', if_neg open', if_pos needs, if_pos needs', State.serveSound_grant h]

end Sys2Proof.Machine
end

section
/-!
PROOF. The adoption reader (O23): a group held, and a group refused (R8, R9, R21, R114, R161).
-/
set_option Elab.async false

namespace Sys2Proof.Machine

/-- The directory's four result bytes (R8, R9, R10, R19). -/
theorem State.writeAdoptionResult_read {s : State} (result group index reason : Nat) (hw : s.mem.wf = true) (a : Nat) :
    (s.writeAdoptionResult result group index reason).mem.read a
      = if a = 0x11 then BitVec.ofNat 8 result else if a = 0x12 then BitVec.ofNat 8 group
        else if a = 0x13 then BitVec.ofNat 8 index else if a = 0x14 then BitVec.ofNat 8 reason else s.mem.read a := by
  refine (Memory.read_writeRun (l := [BitVec.ofNat 8 result, BitVec.ofNat 8 group, BitVec.ofNat 8 index, BitVec.ofNat 8 reason])
    (a := 0x11) (b := a) (show 0x11 + 4 ≤ memorySize by decide) hw).trans ?_
  show (if 0x11 ≤ a ∧ a < 0x15 then _ else _) = _
  by_cases h : 0x11 ≤ a ∧ a < 0x15
  · rw [if_pos h]
    obtain rfl | rfl | rfl | rfl : a = 0x11 ∨ a = 0x12 ∨ a = 0x13 ∨ a = 0x14 := by omega
    all_goals rfl
  · rw [if_neg h, if_neg (by omega), if_neg (by omega), if_neg (by omega), if_neg (by omega)]

theorem State.writeAdoptionResult_wf {s : State} (result group index reason : Nat) (hw : s.mem.wf = true) :
    (s.writeAdoptionResult result group index reason).mem.wf = true :=
  Memory.wf_writeCells (by rfl) hw

/-- With no lower-numbered request, or no word still to read, the group is judged at once. -/
theorem exec_adoptionGroupRead {s : State} {a : Adoption} (ha : s.exc.adoption = some a)
    (hl : s.lowerWaits = false ∨ s.adoptionWaits = false) :
    exec .adoptionGroupRead s = s.judgeGroup a := by
  have turn : s.readerTurn = s := by
    rcases hl with hl | hl
    · rw [State.readerTurn, State.serveLower_idle hl, ite_self]
    · rw [State.readerTurn, if_neg (by simp [hl])]
  show execAdoptionGroupRead s = _
  simp only [execAdoptionGroupRead, ha, turn]

/-- The bytes of a group as read, with the words that were still to be read. -/
def State.adoptedBytes (s : State) (a : Adoption) : List Byte :=
  bytesOf (a.words ++ s.mem.readWords (groupBase a.group + 4 * a.words.length) (groupWords a.group - a.words.length))

theorem State.judgeGroup_held {s : State} {a : Adoption} {g : Groups} (hg : a.group ≠ 9)
    (hv : validateGroup a.group (s.adoptedBytes a) a.values = .valid g) : s.judgeGroup a = .next (s.nextGroup a g) := by
  have hv' : validateGroup a.group (bytesOf (a.finishGroup s.mem).words) a.values = .valid g := hv
  simp only [State.judgeGroup, hv']
  exact if_neg hg

theorem State.judgeGroup_accepted {s : State} {a : Adoption} {g : Groups} (hg : a.group = 9)
    (hv : validateGroup a.group (s.adoptedBytes a) a.values = .valid g) : s.judgeGroup a = finish (s.adoptAccepted g) := by
  have hv' : validateGroup a.group (bytesOf (a.finishGroup s.mem).words) a.values = .valid g := hv
  simp only [State.judgeGroup, hv']
  exact if_pos hg

theorem State.judgeGroup_refused {s : State} {a : Adoption} {i : Nat} {r : GroupReason}
    (hv : validateGroup a.group (s.adoptedBytes a) a.values = .refused i r) : s.judgeGroup a = finish (s.adoptRefused a i r) := by
  have hv' : validateGroup a.group (bytesOf (a.finishGroup s.mem).words) a.values = .refused i r := hv
  simp only [State.judgeGroup, hv']

/-- A refused group's bytes in the directory, in the state adoption began in. -/
theorem State.adoptResult_read {u : State} {p : PartState} (g i r : Nat) (hw : u.mem.wf = true) (x : Nat) :
    (((u.setPart p).writeAdoptionResult 2 g i r).latch .configResult).mem.read x
      = if x = 0x10 then BitVec.ofNat 8 p.code else if x = 0x11 then 2 else if x = 0x12 then BitVec.ofNat 8 g
        else if x = 0x13 then BitVec.ofNat 8 i else if x = 0x14 then BitVec.ofNat 8 r else u.mem.read x := by
  have hw' : (u.setPart p).mem.wf = true := State.wf_writeField (s := { u with exc := { u.exc with part := p } }) (by decide) hw
  refine (State.writeAdoptionResult_read 2 g i r hw' x).trans ?_
  rw [State.setPart_read p hw]
  by_cases h : x = 0x10
  · subst h
    rfl
  · simp only [h, if_false]
    rfl

/-- Settles O23: the next group, or the end of adoption where it began. -/
theorem adoptionGroupRead : Obligations.AdoptionGroupRead := by
  unfold Obligations.AdoptionGroupRead
  refine ⟨fun s a g ha hg hl hv => ?_, fun s a i r hw hq ha hl hv => ?_⟩
  · rw [exec_adoptionGroupRead ha hl, State.judgeGroup_held hg hv]
    rfl
  · rw [exec_adoptionGroupRead ha hl, State.judgeGroup_refused hv]
    cases hfrom : a.fromHalted with
    | true =>
      have e : s.adoptRefused a i r
          = ((({ s with exc := { s.exc with adoption := none } } : State).setPart .halted).writeAdoptionResult 2 a.group i r.code).latch
              .configResult := by
        simp only [State.adoptRefused, hfrom, if_true]
      rw [e]
      exact ⟨_, finish_idle hq, rfl, rfl, rfl, rfl, fun _ => ⟨rfl, rfl, rfl, rfl⟩, fun h => absurd h (by decide),
        State.adoptResult_read (u := { s with exc := { s.exc with adoption := none } }) _ _ _ hw⟩
    | false =>
      have e : s.adoptRefused a i r
          = ((({ s with exc := { s.exc with adoption := none } } : State).toIdle).writeAdoptionResult 2 a.group i r.code).latch
              .configResult := by
        simp only [State.adoptRefused, hfrom, Bool.false_eq_true, if_false]
      rw [e]
      exact ⟨_, finish_idle hq, rfl, rfl, rfl, rfl, fun h => absurd h (by decide), fun _ => ⟨rfl, rfl, rfl, rfl, rfl⟩,
        State.adoptResult_read (u := { s with exc := { s.exc with adoption := none } }) _ _ _ hw⟩

end Sys2Proof.Machine
end

section
/-!
PROOF. The acceptance of adoption (O24): the initial values of every block, what follows from them, the hold-up timer's new limit, the
background request and DRVFLT (R10, R24, R36, R43, R60, R66, R78, R79, R84, R85, R113, R115, R127, R131, R133, R136, R144, R147, R155, R156,
R161, R163, R166, R175, R180).
-/
set_option Elab.async false

namespace Sys2Proof.Machine

/-! ### The initial values -/

/-- The lamp cap of a supply state in RUNNING (R155). -/
def runningLampCap (p : Power) : Supply → Nat
  | .normal => 255
  | .lean => 255
  | .holdup => p.holdLamp
  | .dark => 0

/-- The part as the acceptance leaves it, with its supply unit, before the smoke unit, the background and DRVFLT have answered (R10). -/
def State.adoptedAt (s : State) (g : Groups) (u : Sup) : State :=
  { s with
    cfg := g, configured := true, drq := {}, srg := { regTimer := true }, chk := { source := g.chuff.mode.initial },
    snd := { s.snd.adopt g.sound.master with cap := min (supplyCap g.power u.state) 255 },
    smk := s.smk.adopt g.smoke.capacity,
    lgt := { timer := true, lamps := s.lgt.lamps.map Lamp.halted, cap := runningLampCap g.power u.state },
    rrx := s.rrx.adopt, sup := u,
    bfu := { chans := PerMotor.both { pos := some 0 }, drvflt := s.bfu.drvflt },
    mem := (((s.setPart .running).setMs 0).writeAdoptionResult 1 0 0 0).mem,
    exc := { s.exc with part := .running, ms := 0, adoption := none, chuffHeld := false, nlat := s.exc.nlat ||| 1 } }

/-- Outputs that are off stay off under any cap. -/
theorem halted_capped (l : Octet Lamp) (c : Nat) :
    (l.map Lamp.halted).map (fun x => { x with level := min x.program c }) = l.map Lamp.halted := by
  refine Octet.ext_get fun i => ?_
  simp [Lamp.halted]

theorem State.adoptValues_at (s : State) (g : Groups) :
    (s.adoptValues g).adoptExchange.recomputeCap.recomputeLampCap = s.adoptedAt g { s.sup.clearRuns with share := true } := by
  have lamps := halted_capped s.lgt.lamps (runningLampCap g.power s.sup.state)
  have cap : (s.adoptValues g).adoptExchange.recomputeCap.lampCap = runningLampCap g.power s.sup.state := by
    show (match s.sup.state with | .normal => _ | .lean => _ | .holdup => _ | .dark => _) = _
    cases s.sup.state <;> rfl
  unfold State.recomputeLampCap
  rw [cap]
  unfold State.adoptedAt
  rw [← lamps]
  rfl

/-! ### The smoke unit -/

/-- With heater, fan and puff at rest, a change of state other than into READY changes state and target alone (R136). -/
theorem Smk.change_resting {k : Smk} (hh : k.heater = 0) (hf : k.fan = 0) (hp : k.puff = none) (idle : Nat) {x : SmokeState} (t : SmokeTarget)
    (hx : x ≠ .ready) : k.change idle x t = { k with state := x, target := t } := by
  obtain ⟨state, target, _, _, _, _, heater, _, _, _, fan, puff⟩ := k
  obtain rfl : heater = 0 := hh
  obtain rfl : fan = 0 := hf
  obtain rfl : puff = none := hp
  unfold Smk.change
  by_cases hs : x = state
  · rw [if_neg (by simpa using hs)]
    subst hs
    by_cases ht : t = target
    · subst ht
      simp
    · rw [if_pos (by simpa using ht)]
  · rw [if_pos (by simpa using hs), if_neg hx]

/-- Without the smoke enable there is no READY (R136). -/
theorem State.smokeRank_disabled {s : State} (h : s.smk.enable = false) : s.smokeRank.1 ≠ .ready := by
  unfold State.smokeRank
  rw [if_pos h]
  repeat' split
  all_goals simp

/-- The smoke unit with heater, fan and puff at rest and its enable off. -/
structure SmokeRests (k : Smk) : Prop where
  heater : k.heater = 0
  fan    : k.fan = 0
  puff   : k.puff = none
  enable : k.enable = false

theorem State.evalSmoke_rests {s : State} (h : SmokeRests s.smk) :
    s.evalSmoke = { s with smk := { s.smk with state := s.smokeRank.1, target := s.smokeRank.2 } } := by
  rw [State.evalSmoke, Smk.change_resting h.heater h.fan h.puff _ _ (State.smokeRank_disabled h.enable)]

/-- The smoke unit evaluated twice, what it ranks by changed in between. -/
theorem State.evalSmoke_again {s t : State} (h : SmokeRests s.smk) (ht : t.smk = s.evalSmoke.smk) :
    t.evalSmoke = { t with smk := s.smk }.evalSmoke := by
  have first : t.smk = { s.smk with state := s.smokeRank.1, target := s.smokeRank.2 } := by rw [ht, State.evalSmoke_rests h]
  have rank : t.smokeRank = ({ t with smk := s.smk } : State).smokeRank := by
    unfold State.smokeRank
    rw [first]
    rfl
  have rests : SmokeRests t.smk := by
    rw [first]
    exact ⟨h.heater, h.fan, h.puff, h.enable⟩
  rw [State.evalSmoke_rests rests, State.evalSmoke_rests (s := { t with smk := s.smk }) h, rank, first]

/-! ### The drive at rest -/

/-- SRG and BFU as the acceptance leaves them: no duty, and fresh channels. -/
structure DriveFresh (s : State) : Prop where
  motors : s.srg.motors = PerMotor.both {}
  chans  : s.bfu.chans = PerMotor.both { pos := some 0 }

theorem DriveFresh.limitDuty {s : State} (h : DriveFresh s) : s.limitDuty = s := by
  obtain ⟨exc, port, drq, srg, bfu, chk, snd, smk, lgt, rrx, sup, mem, cfg, configured, free, pending⟩ := s
  obtain ⟨traction, dir, r, motors, vl, labour, band, turnTimer, turnMark, regTimer, tick, brake⟩ := srg
  obtain ⟨chans, window, trip, drvflt, slip, slipRun, faster⟩ := bfu
  obtain rfl : motors = _ := h.motors
  obtain rfl : chans = _ := h.chans
  simp [State.limitDuty, State.setDuty, State.handDuty, State.onChan, PerMotor.both, PerMotor.get, PerMotor.set, Channel.hand]

/-- The trip of a part at rest (R60, R79). -/
theorem DriveFresh.tripped {s : State} (h : DriveFresh s) (ht : s.bfu.trip = .none) (hp : s.exc.part = .running) (reason : TripReason) :
    s.tripNow reason = { s with
      exc := { s.exc with nlat := s.exc.nlat ||| 0x80 },
      srg := { s.srg with traction := .tripped, r := 0, brakeOrder := false, turnTimer := none, turnMark := false },
      bfu := { s.bfu with trip := reason, slip := .normal, slipRun := 0, faster := none } } := by
  obtain ⟨exc, port, drq, srg, bfu, chk, snd, smk, lgt, rrx, sup, mem, cfg, configured, free, pending⟩ := s
  obtain ⟨traction, dir, r, motors, vl, labour, band, turnTimer, turnMark, regTimer, tick, brake⟩ := srg
  obtain ⟨chans, window, trip, drvflt, slip, slipRun, faster⟩ := bfu
  obtain rfl : motors = _ := h.motors
  obtain rfl : chans = _ := h.chans
  have running : ¬ exc.part = .stopping := by
    have hp : exc.part = .running := hp
    simp [hp]
  rw [State.tripNow, if_pos ht]
  exact if_neg fun hc => running hc.1

/-- The part at the acceptance with a state of the smoke unit. -/
def State.adoptedWith (s : State) (g : Groups) (u : Sup) (k : Smk) : State := { s.adoptedAt g u with smk := k }

/-- The part at an acceptance that its hold-up timer does not outlast: DARK, with a start in progress to be refused (R115, R180). -/
def State.adoptedDark (s : State) (g : Groups) (u : Sup) (k : Smk) : State :=
  { s.adoptedWith g { u with state := .dark } k with
    exc := { (s.adoptedAt g u).exc with nlat := s.exc.nlat ||| 1 ||| 0x2000 },
    snd := { (s.adoptedAt g { u with state := .dark }).snd with current := s.snd.current.map fun w => { w with doomed := true } } }

theorem State.adoptedWith_voice (s : State) (g : Groups) (u : Sup) (k : Smk) (v : Fin 8) : (s.adoptedWith g u k).voice v = {} := by
  show (Octet.rep ({} : Voice)).get v = {}
  match v with
  | 0 | 1 | 2 | 3 | 4 | 5 | 6 | 7 => rfl

/-- SUPPLY_CHANGE latched and the new state taken, before it reaches the other units (R177). -/
def State.adoptedLimited (s : State) (g : Groups) (u : Sup) (k : Smk) : State :=
  { s.adoptedWith g { u with state := .dark } k with
    snd := (s.adoptedAt g u).snd, lgt := (s.adoptedAt g u).lgt, exc := { (s.adoptedAt g u).exc with nlat := s.exc.nlat ||| 1 ||| 0x2000 } }

/-- The volume cap taken and the voices shed, before the lamp cap. -/
def State.adoptedShed (s : State) (g : Groups) (u : Sup) (k : Smk) : State :=
  { s.adoptedDark g u k with lgt := (s.adoptedAt g u).lgt }

theorem State.adopted_limited (s : State) (g : Groups) (u : Sup) (k : Smk) :
    (s.adoptedWith g u k).supplyLimited .dark = s.adoptedLimited g u k := by
  unfold State.supplyLimited
  rw [DriveFresh.limitDuty ⟨rfl, rfl⟩]
  rfl

theorem State.adopted_stopped (s : State) (g : Groups) (u : Sup) (k : Smk) : (s.adoptedLimited g u k).darkStop = s.adoptedLimited g u k :=
  rfl

theorem State.adopted_shed (s : State) (g : Groups) (u : Sup) (k : Smk) : (s.adoptedLimited g u k).supplySound = s.adoptedShed g u k := by
  have silent : ∀ v, ((s.adoptedLimited g u k).recomputeCap.voice v).active = false := fun v =>
    congrArg Voice.active (s.adoptedWith_voice g u k v)
  have shed := State.shedVoices_quiet silent rfl
  have dark : (s.adoptedLimited g u k).supplySound = (s.adoptedLimited g u k).recomputeCap.shedVoices := by
    unfold State.supplySound
    exact if_pos (show Supply.dark = .dark from rfl)
  rw [dark, shed]
  rfl

theorem State.adopted_lights (s : State) (g : Groups) (u : Sup) (k : Smk) :
    (s.adoptedShed g u k).evalSmoke.recomputeLampCap = (s.adoptedDark g u k).evalSmoke := by
  have lamps := halted_capped s.lgt.lamps 0
  have cap : (s.adoptedShed g u k).evalSmoke.lampCap = 0 := rfl
  unfold State.recomputeLampCap
  rw [cap]
  have lgt : (s.adoptedDark g u k).evalSmoke
      = { (s.adoptedShed g u k).evalSmoke with lgt := { timer := true, lamps := s.lgt.lamps.map Lamp.halted, cap := 0 } } := rfl
  rw [lgt, ← lamps]
  rfl

/-- DARK at the acceptance: no voice sounds and no start waits, so that only what follows from the supply state changes. -/
theorem State.adopted_dark (s : State) (g : Groups) (u : Sup) (k : Smk) :
    (s.adoptedWith g u k).supplyChange .dark = (s.adoptedDark g u k).evalSmoke := by
  rw [State.supplyChange_eq, if_pos rfl, State.adopted_limited, State.adopted_stopped, State.adopted_shed]
  have last : (s.adoptedShed g u k).supplyLast = (s.adoptedDark g u k).evalSmoke := State.adopted_lights s g u k
  rw [last]
  exact if_neg fun hc => absurd hc.1 (show ¬ PartState.running = .stopping by decide)

/-! ### The hold-up timer's new limit (R180) -/

/-- The supply unit at the acceptance: run counts 0, and the current share runs (R180). -/
def Sup.adopted (u : Sup) (holdup : Option Nat) : Sup := { u.clearRuns with share := true, holdup := holdup }

/-- The part at the acceptance with supply unit `u`, the notices `n` and the start in progress `w`, its smoke unit evaluated. -/
structure Adopted (s : State) (g : Groups) (u : Sup) (n : BitVec 15) (w : Option StartWork) (t : State) : Prop where
  only  : t = { s.adoptedWith g u t.smk with
    exc := { (s.adoptedAt g u).exc with nlat := n }, snd := { (s.adoptedAt g u).snd with current := w } }
  smoke : t = ({ t with smk := s.smk.adopt g.smoke.capacity } : State).evalSmoke

theorem Smk.adopt_rests (c : Nat) (k : Smk) : SmokeRests (k.adopt c) := ⟨rfl, rfl, rfl, rfl⟩

theorem State.adopted_bright (s : State) (g : Groups) (h : Option Nat) :
    Adopted s g (s.sup.adopted h) (s.exc.nlat ||| 1) s.snd.current (s.adoptedAt g (s.sup.adopted h)).evalSmoke :=
  ⟨rfl, rfl⟩

theorem State.adopted_darkened (s : State) (g : Groups) (k : Smk) (hk : k = (s.adoptedAt g (s.sup.adopted none)).evalSmoke.smk) :
    Adopted s g { s.sup.adopted none with state := .dark } (s.exc.nlat ||| 1 ||| 0x2000)
      (s.snd.current.map fun w => { w with doomed := true }) (s.adoptedDark g (s.sup.adopted none) k).evalSmoke := by
  have again := State.evalSmoke_again (s := s.adoptedAt g (s.sup.adopted none)) (t := s.adoptedDark g (s.sup.adopted none) k)
    (Smk.adopt_rests _ _) hk
  refine ⟨rfl, ?_⟩
  exact again

theorem State.newPower_spec (s : State) :
    (s.sup.holdup = none → s.newPower = { s with sup := s.sup.clearRuns })
    ∧ ∀ x, s.sup.holdup = some x →
      (min x s.cfg.power.holdTime = 0 → s.newPower = { s with sup := { s.sup.clearRuns with holdup := some 0 } }.holdupExpires)
      ∧ (min x s.cfg.power.holdTime ≠ 0 →
        s.newPower = { s with sup := { s.sup.clearRuns with holdup := some (min x s.cfg.power.holdTime) } }) := by
  unfold State.newPower
  refine ⟨fun h => ?_, fun x h => ⟨fun hz => ?_, fun hz => ?_⟩⟩
  · rw [h]
  · rw [h]
    dsimp only
    rw [if_pos hz, hz]
  · rw [h]
    exact if_neg hz

/-- The new hold-up time: a timer left with nothing expires at once. -/
theorem State.adopted_power (s : State) (g : Groups) :
    let left := s.sup.holdup.map fun x => min x g.power.holdTime
    let t := (s.adoptedAt g { s.sup.clearRuns with share := true }).evalSmoke.newPower
    (left = some 0 → Adopted s g { s.sup.adopted none with state := .dark } (s.exc.nlat ||| 1 ||| 0x2000)
      (s.snd.current.map fun w => { w with doomed := true }) t)
    ∧ (left ≠ some 0 → Adopted s g (s.sup.adopted left) (s.exc.nlat ||| 1) s.snd.current t) := by
  intro left t
  obtain ⟨stopped, runs⟩ := State.newPower_spec (s.adoptedAt g { s.sup.clearRuns with share := true }).evalSmoke
  cases hh : s.sup.holdup with
  | none =>
    have hl : left = none := by simp [left, hh]
    have e : t = (s.adoptedAt g (s.sup.adopted none)).evalSmoke := by
      refine (stopped hh).trans ?_
      rw [← hh]
      rfl
    rw [e, hl]
    exact ⟨fun h => (nomatch h), fun _ => s.adopted_bright g none⟩
  | some x =>
    have hl : left = some (min x g.power.holdTime) := by simp [left, hh]
    obtain ⟨expires, counts⟩ := runs x hh
    by_cases hz : min x g.power.holdTime = 0
    · have e : t = (s.adoptedDark g (s.sup.adopted none) (s.adoptedAt g (s.sup.adopted none)).evalSmoke.smk).evalSmoke :=
        (expires hz).trans (s.adopted_dark g (s.sup.adopted none) _)
      rw [e, hl, hz]
      exact ⟨fun _ => s.adopted_darkened g _ rfl, fun h => absurd rfl h⟩
    · have e : t = (s.adoptedAt g (s.sup.adopted (some (min x g.power.holdTime)))).evalSmoke := counts hz
      rw [e, hl]
      exact ⟨fun h => absurd (Option.some.inj h) hz, fun _ => s.adopted_bright g _⟩

/-! ### The background and DRVFLT -/

/-- The waiting starts at the acceptance: the background's, in NORMAL and LEAN (R127). -/
def adoptedQueue (g : Groups) (x : Supply) : List StartReq :=
  match g.sound.bgClip with
  | none => []
  | some clip => if x = .normal ∨ x = .lean then
      [{ cls := .background, asker := .background, clip := clip, pitch := 256, volume := g.sound.bgVolume, priority := 0, tag := 0,
         loop := true }]
    else []

theorem State.adoptBackground_spec {s : State} (hq : s.snd.queue = []) :
    s.adoptBackground = { s with snd := { s.snd with queue := adoptedQueue s.cfg s.sup.state } } := by
  have same : ({ s with snd := { s.snd with queue := [] } } : State) = s := by rw [← hq]
  have good : s.sup.state.good = true ↔ s.sup.state = .normal ∨ s.sup.state = .lean := by cases s.sup.state <;> simp [Supply.good]
  obtain ⟨asks, silent⟩ := s.requestBackground_spec
  unfold State.adoptBackground adoptedQueue
  cases hc : s.cfg.sound.bgClip with
  | none => rw [silent (.inl hc), ite_self, same]
  | some clip =>
    by_cases hg : s.sup.state = .normal ∨ s.sup.state = .lean
    · rw [if_pos (good.mpr hg), asks clip hc (by rw [hq]; decide), hq]
      simp only [if_pos hg]
      rfl
    · rw [if_neg (fun h => hg (good.mp h))]
      simp only [if_neg hg]
      exact same.symm

/-- DRVFLT active under the new polarity. -/
def State.faultyUnder (s : State) (g : Groups) : Prop := s.bfu.drvflt = some g.traction.polarity

/-- What the part is after the background's request and the first look at DRVFLT. -/
structure AdoptionEnd (s : State) (g : Groups) (u : Sup) (n : BitVec 15) (w : Option StartWork) (t : State) : Prop where
  only    : t = { s.adoptedWith g u t.smk with exc := t.exc, snd := t.snd, srg := t.srg, bfu := t.bfu }
  exc     : t.exc = { (s.adoptedAt g u).exc with nlat := t.exc.nlat }
  snd     : t.snd = { (s.adoptedAt g u).snd with current := w, queue := adoptedQueue g u.state }
  smoke   : t = ({ t with smk := s.smk.adopt g.smoke.capacity } : State).evalSmoke
  faulty  : s.faultyUnder g → t.exc.nlat = n ||| 0x80 ∧ t.srg = { regTimer := true, traction := .tripped }
    ∧ t.bfu = { (s.adoptedAt g u).bfu with trip := .driver }
  sound   : ¬ s.faultyUnder g → t.exc.nlat = n ∧ t.srg = { regTimer := true } ∧ t.bfu = (s.adoptedAt g u).bfu

/-- The part at the acceptance, with its notices, its start in progress and its waiting starts. -/
def State.adoptedWhole (s : State) (g : Groups) (u : Sup) (n : BitVec 15) (w : Option StartWork) (q : List StartReq) (k : Smk) : State :=
  { s.adoptedWith g u k with
    exc := { (s.adoptedAt g u).exc with nlat := n }, snd := { (s.adoptedAt g u).snd with current := w, queue := q } }

/-- The same part, tripped DRIVER at once (R78, R79). -/
def State.adoptedTripped (s : State) (g : Groups) (u : Sup) (n : BitVec 15) (w : Option StartWork) (q : List StartReq) (k : Smk) : State :=
  { s.adoptedWhole g u (n ||| 0x80) w q k with
    srg := { regTimer := true, traction := .tripped }, bfu := { (s.adoptedAt g u).bfu with trip := .driver } }

theorem Adopted.whole {s t : State} {g : Groups} {u : Sup} {n : BitVec 15} {w : Option StartWork} (h : Adopted s g u n w t) :
    t = s.adoptedWhole g u n w [] t.smk := h.only

theorem Adopted.ends {s t : State} {g : Groups} {u : Sup} {n : BitVec 15} {w : Option StartWork} (h : Adopted s g u n w t) :
    AdoptionEnd s g u n w t.adoptBackground.checkDriver := by
  have smoke : t.smk = ({ s.adoptedWhole g u n w [] t.smk with smk := s.smk.adopt g.smoke.capacity } : State).evalSmoke.smk := by
    have smoke := congrArg State.smk h.smoke
    rwa [h.whole] at smoke
  rw [h.whole]
  generalize t.smk = k at smoke
  have background : (s.adoptedWhole g u n w [] k).adoptBackground = s.adoptedWhole g u n w (adoptedQueue g u.state) k :=
    State.adoptBackground_spec rfl
  have fault : (s.adoptedWhole g u n w (adoptedQueue g u.state) k).drvfltActive = true ↔ s.faultyUnder g := beq_iff_eq
  rw [background]
  by_cases hf : s.faultyUnder g
  · have e : (s.adoptedWhole g u n w (adoptedQueue g u.state) k).checkDriver
        = (s.adoptedWhole g u n w (adoptedQueue g u.state) k).tripNow .driver := if_pos ⟨fault.mpr hf, rfl, rfl⟩
    have trips : (s.adoptedWhole g u n w (adoptedQueue g u.state) k).tripNow .driver
        = s.adoptedTripped g u n w (adoptedQueue g u.state) k :=
      DriveFresh.tripped (s := s.adoptedWhole g u n w (adoptedQueue g u.state) k) ⟨rfl, rfl⟩ rfl rfl .driver
    rw [e, trips]
    exact ⟨rfl, rfl, rfl, congrArg (s.adoptedTripped g u n w (adoptedQueue g u.state)) smoke, fun _ => ⟨rfl, rfl, rfl⟩, fun h => absurd hf h⟩
  · have e : (s.adoptedWhole g u n w (adoptedQueue g u.state) k).checkDriver = s.adoptedWhole g u n w (adoptedQueue g u.state) k :=
      if_neg fun h => hf (fault.mp h.1)
    rw [e]
    exact ⟨rfl, rfl, rfl, congrArg (s.adoptedWhole g u n w (adoptedQueue g u.state)) smoke, fun h => absurd h hf, fun _ => ⟨rfl, rfl, rfl⟩⟩

/-! ### Exchange memory (R10) -/

theorem State.adopted_read {s : State} (hw : s.mem.wf = true) (g : Groups) (u : Sup) (x : Nat) :
    (s.adoptedAt g u).mem.read x = if x = 0x10 then 2 else if 0x0C ≤ x ∧ x ≤ 0x0F then 0 else if x = 0x11 then 1
      else if 0x12 ≤ x ∧ x ≤ 0x14 then 0 else s.mem.read x := by
  have hp : (s.setPart .running).mem.wf = true := State.wf_writeField (s := { s with exc := { s.exc with part := .running } }) (by decide) hw
  have hm : ((s.setPart .running).setMs 0).mem.wf = true :=
    State.wf_writeField (s := { s.setPart .running with exc := { (s.setPart .running).exc with ms := 0 } }) (by decide) hp
  have ms : ((s.setPart .running).setMs 0).mem.read x = if 0x0C ≤ x ∧ x ≤ 0x0F then 0 else (s.setPart .running).mem.read x := by
    refine (Memory.read_writeField (a := 0x0C) (n := 4) (by decide) hp).trans ?_
    have range : (0x0C ≤ x ∧ x < 0x0C + 4) ↔ (0x0C ≤ x ∧ x ≤ 0x0F) := by omega
    simp only [range, show (0 : Word).toNat = 0 from rfl, Nat.zero_div]
    rfl
  refine (State.writeAdoptionResult_read 1 0 0 0 hm x).trans ?_
  rw [ms, State.setPart_read .running hw]
  by_cases h10 : x = 0x10
  · subst h10
    rfl
  · by_cases h12 : 0x12 ≤ x ∧ x ≤ 0x14
    · obtain rfl | rfl | rfl : x = 0x12 ∨ x = 0x13 ∨ x = 0x14 := by omega
      all_goals rfl
    · rw [if_neg h10, if_neg h10, if_neg h12, if_neg (show ¬ x = 0x12 by omega), if_neg (show ¬ x = 0x13 by omega),
        if_neg (show ¬ x = 0x14 by omega)]
      by_cases h11 : x = 0x11
      · subst h11
        rfl
      · rw [if_neg h11, if_neg h11]

/-- Settles O24: the initial values, and what follows from the hold-up timer, the background and DRVFLT. -/
theorem adoptionAccepted : Obligations.AdoptionAccepted := by
  unfold Obligations.AdoptionAccepted
  intro s a g hw hs ha hg hl hv faulty left supply
  obtain ⟨expires, counts⟩ := s.adopted_power g
  have accepted : exec .adoptionGroupRead s = finish (s.adoptAccepted g) := by
    rw [exec_adoptionGroupRead ha hl, State.judgeGroup_accepted hg hv]
  have value : s.adoptAccepted g
      = (s.adoptedAt g { s.sup.clearRuns with share := true }).evalSmoke.newPower.adoptBackground.checkDriver := by
    rw [← State.adoptValues_at]
    rfl
  rw [accepted, value]
  generalize (s.adoptedAt g { s.sup.clearRuns with share := true }).evalSmoke.newPower = p at *
  have ends : AdoptionEnd s g { s.sup.adopted (if left = some 0 then none else left) with state := supply }
      (s.exc.nlat ||| 1 ||| (if left = some 0 then 0x2000 else 0))
      (if left = some 0 then s.snd.current.map fun w => { w with doomed := true } else s.snd.current) p.adoptBackground.checkDriver := by
    by_cases hz : left = some 0
    · simp only [supply, if_pos hz]
      exact (expires hz).ends
    · simp only [supply, if_neg hz]
      have e : s.exc.nlat ||| 1 ||| 0 = s.exc.nlat ||| 1 := BitVec.or_zero
      rw [e]
      exact (counts hz).ends
  generalize p.adoptBackground.checkDriver = t at ends
  have quiet : t.scanQuiet := by
    have scan : t.exc.scan = none := (congrArg Exc.scan ends.exc).trans hs
    simp [State.scanQuiet, scan]
  refine ⟨t, finish_idle quiet, ?_⟩
  have only := ends.only
  obtain ⟨nlat, srg, bfu⟩ : t.exc.nlat = s.exc.nlat ||| 1 ||| (if left = some 0 then 0x2000 else 0) ||| (if faulty then 0x80 else 0)
      ∧ t.srg = { regTimer := true, traction := if faulty then .tripped else .standing, r := 0 }
      ∧ t.bfu = { chans := PerMotor.both { pos := some 0 }, trip := if faulty then .driver else .none, drvflt := s.bfu.drvflt } := by
    by_cases hf : faulty
    · obtain ⟨h1, h2, h3⟩ := ends.faulty hf
      simp only [if_pos hf]
      exact ⟨h1, h2, h3⟩
    · obtain ⟨h1, h2, h3⟩ := ends.sound hf
      simp only [if_neg hf]
      exact ⟨h1.trans BitVec.or_zero.symm, h2, h3⟩
  refine ⟨?_, ?_, ?_, ?_, srg, bfu, ?_, ?_, ?_, ?_, ?_, ?_, ?_, ?_, ?_, ?_⟩
  · rw [ends.exc, nlat]
    rfl
  · rw [only]; rfl
  · rw [only]; rfl
  · rw [only]; rfl
  · rw [only]
    show ({ source := g.chuff.mode.initial } : Chk) = _
    cases g.chuff.mode <;> rfl
  · rw [ends.snd]
    clear ends only
    clear_value supply
    cases supply <;> rfl
  · intro v
    show t.snd.voices.get v = {}
    rw [ends.snd]
    exact s.adoptedWith_voice g { s.sup with state := supply } {} v
  · rw [ends.snd]
    rfl
  · have evaluated := ({ t with smk := s.smk.adopt g.smoke.capacity } : State).evalSmoke_spec
    rw [← ends.smoke] at evaluated
    exact evaluated
  · rw [only]
    clear ends only
    clear_value supply
    cases supply <;> rfl
  · intro k
    rw [only]
    show (s.lgt.lamps.map Lamp.halted).get k = _
    rw [Octet.get_map]
    rfl
  · rw [only]; rfl
  · rw [only]; rfl
  · rw [only]
    exact s.adopted_read hw g s.sup

end Sys2Proof.Machine
end

section
/-!
PROOF. Scan work with one cue (R14, R17): what it comes to once the record has been judged, and how the record is written back.
-/
set_option Elab.async false

namespace Sys2Proof.Machine

/-! ### The one record of the strip -/

/-- The strip holds exactly one record that has not been taken. -/
def State.oneCue (s : State) : Prop := s.mem.readLe 0x04 2 = (s.exc.cueTake.toNat + 1) % 65536

theorem State.scanCues_one {s : State} (h : s.oneCue) : s.scanCues = State.takeCues 1 s := by
  have n : (s.appendTally - s.exc.cueTake).toNat = 1 := by
    have ht := s.exc.cueTake.isLt
    rw [BitVec.toNat_sub, s.appendTally_toNat, h]
    omega
  simp only [State.scanCues, n]
  rfl

/-- With nothing to do at the drive slot, the scan goes to the strip (R14). -/
theorem State.scanWork_cue {s : State} (hp : s.exc.part.takesCues = true)
    (hslot : s.exc.part = .running → s.mem.read 0x500 = s.exc.lastTaken ∧ s.exc.slotState ≠ .pending) (h : s.oneCue) :
    s.scanWork = State.takeCues 1 s := by
  unfold State.scanWork
  cases hpart : s.exc.part with
  | running =>
    rw [← State.scanCues_one h]
    exact congrArg State.scanCues (State.examineSlot_idle (hslot hpart))
  | halted => exact State.scanCues_one h
  | idle | adopting | stopping => simp [hpart, PartState.takesCues] at hp

theorem State.takeCues_done {s u : State} {r : List Byte} {reason : CueReason} (hp : s.exc.part.takesCues = true)
    (hr : s.mem.readCue s.exc.cueTake = r) (hj : s.judgeCue r = (u, .done reason)) :
    State.takeCues 1 s = u.writeBack (r.getD 1 0) reason := by
  simp only [State.takeCues, hp, hr, hj, if_true]

theorem State.takeCues_waiting {s u : State} {r : List Byte} (hp : s.exc.part.takesCues = true)
    (hr : s.mem.readCue s.exc.cueTake = r) (hj : s.judgeCue r = (u, .waiting)) :
    State.takeCues 1 s = { u with exc := { u.exc with scan := some ⟨r.getD 1 0, 0, none⟩ } } := by
  simp only [State.takeCues, hp, hr, hj, if_true]

/-- A list of 16 bytes that stand at the record's place is the record as read. -/
theorem Memory.readCue_of {m : Memory} {t : Half} {r : List Byte} (hl : r.length = 16)
    (h : ∀ i < 16, m.read (0x800 + 16 * (t.toNat % 64) + i) = r.getD i 0) : m.readCue t = r := by
  have bytes : ∀ (n a : Nat) (l : List Byte), l.length = n → (∀ i < n, m.read (a + i) = l.getD i 0) → m.readBytes a n = l := by
    intro n
    induction n with
    | zero => intro a l hl _; rw [List.length_eq_zero_iff.mp hl]; rfl
    | succ n ih =>
      intro a l hl hi
      match l, hl with
      | b :: l, hl =>
        have first : m.read a = b := hi 0 (by omega)
        have rest : m.readBytes (a + 1) n = l := ih (a + 1) l (by simpa using hl) fun i hin => by
          have := hi (i + 1) (by omega)
          rwa [show a + (i + 1) = a + 1 + i by omega] at this
        rw [Memory.readBytes, first, rest]
  exact bytes 16 _ r hl h

/-! ### Held scan work (R14) -/

theorem exec_scanWorkDeferred {s : State} (hh : s.exc.scanHeld = true) (hs : s.exc.scan = none) (hl : s.lowerWaits = false) :
    exec .scanWorkDeferred s = finish (s.holdScan false).scanWork := by
  show execScanWorkDeferred s = _
  rw [execScanWorkDeferred, if_pos ⟨hh, by simp [State.scanBusy, hs]⟩, State.serveLower_idle hl]

theorem State.CueReady.exec {s : State} {r : List Byte} (h : s.CueReady r) :
    exec .scanWorkDeferred s = finish (State.takeCues 1 (s.holdScan false)) := by
  rw [exec_scanWorkDeferred h.held h.free h.alone, State.scanWork_cue (s := s.holdScan false) h.takes h.slot h.tally]

theorem State.CueReady.read {s : State} {r : List Byte} (h : s.CueReady r) :
    (s.holdScan false).mem.readCue (s.holdScan false).exc.cueTake = r :=
  Memory.readCue_of h.length h.record

/-- A record written back, from a state that has changed no byte but those of the adoption result. -/
theorem CueWritten.of {s u : State} (r : List Byte) (reason : CueReason) (hw : u.mem.wf = true) (ht : u.exc.cueTake = s.exc.cueTake)
    (hm : ∀ a, ¬ (0x11 ≤ a ∧ a ≤ 0x14) → u.mem.read a = s.mem.read a) :
    CueWritten s (u.writeBack (r.getD 1 0) reason) r reason.code u.mem.read := by
  obtain ⟨-, tally, state, kind, why, zero, others⟩ := State.writeBack_spec (s := u) (r.getD 1 0) reason hw
  rw [ht] at tally state kind why zero others
  refine ⟨state, ?_, ?_, ?_, tally, fun a h0 h1 => others a (by omega) (by omega) (by omega), fun a h6 h7 ha hb => ?_⟩
  · rw [show 0x801 + 16 * (s.exc.cueTake.toNat % 64) = 0x800 + 16 * (s.exc.cueTake.toNat % 64) + 1 by omega]
    exact kind
  · rw [show 0x802 + 16 * (s.exc.cueTake.toNat % 64) = 0x800 + 16 * (s.exc.cueTake.toNat % 64) + 2 by omega]
    exact why
  · rw [show 0x803 + 16 * (s.exc.cueTake.toNat % 64) = 0x800 + 16 * (s.exc.cueTake.toNat % 64) + 3 by omega]
    exact zero
  · rw [others a h6 h7 (by omega), hm a ha]

theorem notice_none (n : BitVec 15) : n ||| 0 = n := BitVec.or_zero

theorem State.writeBack_only (s : State) (kind : Byte) (reason : CueReason) :
    s.writeBack kind reason = { s with exc := (s.writeBack kind reason).exc, mem := (s.writeBack kind reason).mem } := by
  unfold State.writeBack
  dsimp only
  split <;> rfl

theorem State.writeBack_scan (s : State) (kind : Byte) (reason : CueReason) : (s.writeBack kind reason).exc.scan = s.exc.scan := by
  unfold State.writeBack
  dsimp only
  split <;> rfl

/-- The notice of a cue's reason (R17). -/
def CueReason.notice (reason : CueReason) : BitVec 15 := if reason.code = 0 then 0 else 4

/-- EXC in scan work that has latched notices, before the write-back. -/
def State.workExc (s : State) (n : BitVec 15) : Exc := { s.exc with scanHeld := false, nlat := s.exc.nlat ||| n }

/-- Held scan work whose record has been judged: the record is written back. -/
theorem State.CueReady.taken {s u : State} {r : List Byte} {reason : CueReason} {n : BitVec 15} (h : s.CueReady r)
    (hj : (s.holdScan false).judgeCue r = (u, .done reason))
    (he : u.exc = s.workExc n) (hw : u.mem.wf = true)
    (hm : ∀ a, ¬ (0x11 ≤ a ∧ a ≤ 0x14) → u.mem.read a = s.mem.read a) :
    ∃ t, Machine.exec .scanWorkDeferred s = .next t ∧ t = { u with exc := s.cueExc (n ||| reason.notice), mem := t.mem }
      ∧ CueWritten s t r reason.code u.mem.read := by
  have ht : u.exc.cueTake = s.exc.cueTake := by rw [he]; rfl
  have only := (State.writeBack_spec (s := u) (r.getD 1 0) reason hw).1
  have exc : (u.writeBack (r.getD 1 0) reason).exc = s.cueExc (n ||| reason.notice) := by
    have notices : (if reason.code = 0 then s.exc.nlat ||| n else s.exc.nlat ||| n ||| 4) = s.exc.nlat ||| (n ||| reason.notice) := by
      unfold CueReason.notice
      split
      · rw [notice_none]
      · rw [BitVec.or_assoc]
    have e := congrArg State.exc only
    rw [State.cueExc, ← notices]
    refine e.trans ?_
    rw [he]
    rfl
  have free : (u.writeBack (r.getD 1 0) reason).exc.scan = none := by
    rw [exc]
    exact h.free
  refine ⟨u.writeBack (r.getD 1 0) reason, ?_, ?_, CueWritten.of r reason hw ht hm⟩
  · rw [h.exec, State.takeCues_done (s := s.holdScan false) h.takes h.read hj]
    exact finish_none free
  · rw [← exc]
    exact u.writeBack_only (r.getD 1 0) reason

/-- A refused record: nothing but the record, the tally and the notice changes (R17). -/
theorem State.CueReady.refused {s : State} {r : List Byte} {reason : CueReason} (h : s.CueReady r) (hr : reason ≠ .none)
    (hj : (s.holdScan false).judgeCue r = (s.holdScan false, .done reason)) :
    ∃ t, Machine.exec .scanWorkDeferred s = .next t ∧ t = { s with exc := s.cueExc 4, mem := t.mem }
      ∧ CueWritten s t r reason.code s.mem.read := by
  have code : reason.code ≠ 0 := by cases reason <;> simp_all [CueReason.code]
  have notice : (0 : BitVec 15) ||| reason.notice = 4 := by rw [CueReason.notice, if_neg code]; rfl
  have exc : (s.holdScan false).exc = s.workExc 0 := by rw [State.workExc, notice_none]; rfl
  have t := h.taken hj exc h.mem fun _ _ => rfl
  rw [notice] at t
  exact t

/-- A record applied that leaves exchange memory and the notices to the write-back. -/
theorem State.CueReady.applied {s u : State} {r : List Byte} {n : BitVec 15} (h : s.CueReady r)
    (hj : (s.holdScan false).judgeCue r = (u, .done .none))
    (he : u.exc = s.workExc n) (hm : u.mem = s.mem) :
    ∃ t, Machine.exec .scanWorkDeferred s = .next t ∧ CueWritten s t r 0 s.mem.read
      ∧ t = { u with exc := s.cueExc n, mem := t.mem } := by
  obtain ⟨t, ht, only, written⟩ := h.taken hj he (by rw [hm]; exact h.mem) fun _ _ => by rw [hm]
  rw [hm] at written
  have e : n ||| CueReason.none.notice = n := notice_none n
  rw [e] at only
  exact ⟨t, ht, written, only⟩

end Sys2Proof.Machine
end

section
/-!
PROOF. The kinds of cue but RELOAD (O32): PLAY, RELEASE, STOP, MASTER_VOLUME, FUNCTION, REFILL, and what is refused (R17, R37, R101, R108,
R109, R118 to R122, R140).
-/
set_option Elab.async false

namespace Sys2Proof.Machine

/-! ### The judging of a record (R17) -/

theorem State.judgeCue_notPosted (s : State) {r : List Byte} (h : byteAt r 0 ≠ 1) : s.judgeCue r = (s, .done .notPosted) := by
  rw [State.judgeCue, if_pos h]

theorem State.judgeCue_badKind (s : State) {r : List Byte} (h : byteAt r 0 = 1) (hk : byteAt r 1 = 0 ∨ 7 < byteAt r 1) :
    s.judgeCue r = (s, .done .badKind) := by
  rw [State.judgeCue, if_neg (Classical.not_not.mpr h), if_pos hk]

theorem State.judgeCue_inactive {s : State} {r : List Byte} (h : byteAt r 0 = 1) (hk : 1 ≤ byteAt r 1) (hk' : byteAt r 1 ≤ 5)
    (hp : s.exc.part = .halted) : s.judgeCue r = (s, .done .inactive) := by
  rw [State.judgeCue, if_neg (Classical.not_not.mpr h), if_neg (by omega), if_pos ⟨hp, by omega, by omega⟩]

/-- A record of a known kind that the part state admits goes to its block. -/
theorem State.judgeCue_kind {s : State} {r : List Byte} (h : byteAt r 0 = 1) (hk : 1 ≤ byteAt r 1) (hk' : byteAt r 1 ≤ 7)
    (hp : s.exc.part = .halted → byteAt r 1 = 6 ∨ byteAt r 1 = 7) : s.judgeCue r = s.cueKind r := by
  rw [State.judgeCue, if_neg (Classical.not_not.mpr h), if_neg (by omega)]
  refine if_neg fun hc => ?_
  rcases hp hc.1 with h6 | h7
  · exact hc.2.1 h6
  · exact hc.2.2 h7

theorem State.cueKind_spec (s : State) (r : List Byte) :
    (byteAt r 1 = 1 → s.cueKind r = s.cuePlay r) ∧ (byteAt r 1 = 2 → s.cueKind r = s.cueRelease r)
    ∧ (byteAt r 1 = 3 → s.cueKind r = s.cueStop r) ∧ (byteAt r 1 = 4 → s.cueKind r = s.cueMaster r)
    ∧ (byteAt r 1 = 5 → s.cueKind r = s.cueFunction r) ∧ (byteAt r 1 = 6 → s.cueKind r = s.cueReload r)
    ∧ (byteAt r 1 = 7 → s.cueKind r = s.cueRefill r) := by
  refine ⟨?_, ?_, ?_, ?_, ?_, ?_, ?_⟩ <;> intro h <;> simp only [State.cueKind, h]

/-! ### Function operations and EXC -/

/-- The part with another EXC. -/
def State.withExc (s : State) (e : Exc) : State := { s with exc := e }

theorem State.releaseTag_withExc (s : State) (e : Exc) (tag : Half) : (s.withExc e).releaseTag tag = (s.releaseTag tag).withExc e := by
  unfold State.releaseTag
  split
  · rfl
  · rw [show (s.withExc e).taggedVoice tag = s.taggedVoice tag from rfl]
    cases s.taggedVoice tag with
    | none => rfl
    | some v =>
      dsimp only
      rw [show (s.withExc e).voice v = s.voice v from rfl]
      split <;> rfl

/-- The end of a voice, as far as it does not concern EXC. -/
theorem State.endVoice_withExc (s : State) (e e' : Exc) (v : Fin 8) (reason : EndReason) :
    ((s.withExc e).endVoice v reason).withExc e' = (s.endVoice v reason).withExc e' := by
  unfold State.endVoice State.recordEnd
  dsimp only
  rw [show (s.withExc e).voice v = s.voice v from rfl]
  split
  · split <;> rfl
  · rfl

theorem State.keyEnd_withExc (s : State) (e : Exc) (k : Nat) : (s.withExc e).keyEnd k = (s.keyEnd k).withExc e := by
  unfold State.keyEnd
  rw [State.releaseTag_withExc, apply_ite (State.withExc · e)]
  rfl

theorem State.endKeys_withExc (ks : List Nat) (e : Exc) : ∀ s : State, State.endKeys ks (s.withExc e) = (State.endKeys ks s).withExc e := by
  induction ks with
  | nil => exact fun _ => rfl
  | cons k ks ih =>
    intro s
    show State.endKeys ks ((s.withExc e).keyEnd k) = (State.endKeys ks (s.keyEnd k)).withExc e
    rw [State.keyEnd_withExc, ih]

theorem State.keyStart_withExc (s : State) (e : Exc) (k : Nat) : (s.withExc e).keyStart k = (s.keyStart k).withExc e := by
  rw [State.keyStart_eq, State.keyStart_eq, show (s.withExc e).cfg = s.cfg from rfl]
  cases s.cfg.keyStartOf k with
  | none => rfl
  | some r =>
    show (if 32 ≤ s.snd.queue.length then s.withExc e else _) = State.withExc (if 32 ≤ s.snd.queue.length then s else _) e
    split <;> rfl

theorem State.startKeys_withExc (ks : List Nat) (e : Exc) :
    ∀ s : State, State.startKeys ks (s.withExc e) = (State.startKeys ks s).withExc e := by
  induction ks with
  | nil => exact fun _ => rfl
  | cons k ks ih =>
    intro s
    show State.startKeys ks ((s.withExc e).keyStart k) = (State.startKeys ks (s.keyStart k)).withExc e
    rw [State.keyStart_withExc, ih]

/-- The smoke unit asks EXC for the part state and for adoption alone. -/
theorem State.evalSmoke_withExc {s : State} {e : Exc} (hp : e.part = s.exc.part) (ha : e.adoption = s.exc.adoption) :
    (s.withExc e).evalSmoke = s.evalSmoke.withExc e := by
  have halted : (s.withExc e).haltedLike = s.haltedLike := by
    unfold State.haltedLike
    rw [show (s.withExc e).exc = e from rfl, hp, ha]
  have rank : (s.withExc e).smokeRank = s.smokeRank := by
    unfold State.smokeRank
    rw [halted]
    rfl
  unfold State.evalSmoke
  rw [rank]
  rfl

theorem State.evalLevels_withExc {s : State} {e : Exc} (hp : e.part = s.exc.part) (ha : e.adoption = s.exc.adoption) :
    (s.withExc e).evalLevels = s.evalLevels.withExc e := by
  have smoke : (s.withExc e).handSmoke = s.handSmoke.withExc e := by
    unfold State.handSmoke
    dsimp only
    rw [show (s.withExc e).cfg = s.cfg from rfl, show (s.withExc e).drq = s.drq from rfl]
    split
    · rfl
    · exact State.evalSmoke_withExc (s := { s with drq := _, smk := _ }) hp ha
  have mute : ∀ u : State, (u.withExc e).handMute = u.handMute.withExc e := fun u => by
    rw [State.handMute_spec, State.handMute_spec]
    rfl
  have shunt : ∀ u : State, (u.withExc e).handShunt = u.handShunt.withExc e := fun u => by
    rw [State.handShunt_spec, State.handShunt_spec]
    rfl
  unfold State.evalLevels
  rw [smoke, mute, shunt]
  rfl

/-- A function operation asks EXC for the part state and for adoption alone, and leaves it. -/
theorem State.functionOp_withExc {s : State} {e : Exc} (hp : e.part = s.exc.part) (ha : e.adoption = s.exc.adoption) (op : FunctionOp)
    (mask : BitVec 32) : (s.withExc e).functionOp op mask = (s.functionOp op mask).withExc e := by
  unfold State.functionOp
  dsimp only
  rw [show (s.withExc e).drq = s.drq from rfl]
  split
  · rfl
  · have levels := State.evalLevels_withExc (s := { s with drq := { s.drq with functions := op.act mask s.drq.functions } }) hp ha
    rw [show ({ s.withExc e with drq := { s.drq with functions := op.act mask s.drq.functions } } : State)
      = ({ s with drq := { s.drq with functions := op.act mask s.drq.functions } } : State).withExc e from rfl, levels,
      State.endKeys_withExc, State.startKeys_withExc]
    rfl

theorem soundOnly.mem {s t : State} (h : soundOnly s t) : t.mem = s.mem := by
  rw [show t = _ from h]

theorem soundOnly.withExcMem {s u : State} (h : soundOnly s u) (e : Exc) (m : Memory) :
    ({ u with exc := e, mem := m } : State) = { s with exc := e, mem := m, snd := u.snd } := by
  rw [show u = _ from h]

theorem State.functionOp_mem (s : State) (op : FunctionOp) (mask : BitVec 32) : (s.functionOp op mask).mem = s.mem := by
  have starts : ∀ (ks : List Nat) (u : State), (State.startKeys ks u).mem = u.mem := by
    intro ks
    induction ks with
    | nil => exact fun _ => rfl
    | cons k ks ih =>
      intro u
      exact (ih (u.keyStart k)).trans (u.keyStart_soundOnly k).mem
  have ends : ∀ (ks : List Nat) (u : State), (State.endKeys ks u).mem = u.mem := by
    intro ks
    induction ks with
    | nil => exact fun _ => rfl
    | cons k ks ih =>
      intro u
      exact (ih (u.keyEnd k)).trans (u.keyEnd_soundOnly k).mem
  unfold State.functionOp
  dsimp only
  split
  · rfl
  · rw [starts, ends, (State.evalLevels_taken _).only]

/-! ### A cut by tag (R109) -/

/-- The waiting starts of a tag withdrawn, and the squeal's answer to its own (R109, R130). -/
def State.withdrawTag (s : State) (tag : Half) : State :=
  { s with snd := { s.snd with
    queue := s.snd.queue.filter fun q => q.tag != tag,
    squeal := if s.snd.squeal = .sounding ∧ ∃ q ∈ s.snd.queue, q.asker = .squeal ∧ q.tag = tag then .silent else s.snd.squeal } }

theorem State.cutTag_spec {s : State} {tag : Half} (hn : tag ≠ 0) (hok : s.tagsOk) (hs : s.exc.scan = none) :
    ((∀ v, (s.voice v).active = true → (s.voice v).tag ≠ tag) → s.cutTag tag = s.withdrawTag tag)
    ∧ ∀ v, (s.voice v).active = true → (s.voice v).tag = tag → s.cutTag tag = (s.endVoice v .cut).withdrawTag tag := by
  have gone : ∀ u : State, u.exc.scan = none → u.snd.queue = s.snd.queue →
      State.handBackAll .withdrawn (s.snd.queue.filter fun q => q.tag == tag)
        { u with snd := { u.snd with queue := s.snd.queue.filter fun q => q.tag != tag } } = u.withdrawTag tag := by
    intro u hu hq
    have scan : ({ u with snd := { u.snd with queue := s.snd.queue.filter fun q => q.tag != tag } } : State).exc.scan = none := hu
    refine (State.handBackAll_unmade (o := .withdrawn) (by simp) _ scan).trans ?_
    rw [State.withdrawTag, hq]
    have squeal : (∃ q ∈ s.snd.queue.filter (fun q => q.tag == tag), q.asker = .squeal)
        ↔ ∃ q ∈ s.snd.queue, q.asker = .squeal ∧ q.tag = tag := by
      simp only [List.mem_filter, beq_iff_eq]
      exact ⟨fun ⟨q, ⟨hm, ht⟩, ha⟩ => ⟨q, hm, ha, ht⟩, fun ⟨q, hm, ha, ht⟩ => ⟨q, ⟨hm, ht⟩, ha⟩⟩
    simp only [squeal]
  have cut : ∀ x : Option (Fin 8), s.taggedVoice tag = x → s.cutTag tag
      = State.handBackAll .withdrawn (s.snd.queue.filter fun q => q.tag == tag) (match x with
        | some v => ({ s with snd := { s.snd with queue := s.snd.queue.filter fun q => q.tag != tag } } : State).endVoice v .cut
        | none => { s with snd := { s.snd with queue := s.snd.queue.filter fun q => q.tag != tag } }) := by
    rintro x rfl
    exact if_neg hn
  refine ⟨fun h => ?_, fun v ha ht => ?_⟩
  · have none : s.taggedVoice tag = none := by
      refine List.find?_eq_none.mpr fun v _ => ?_
      simp only [Bool.and_eq_true, beq_iff_eq, not_and]
      exact h v
    exact (cut _ none).trans (gone s hs rfl)
  · have ends : ({ s with snd := { s.snd with queue := s.snd.queue.filter fun q => q.tag != tag } } : State).endVoice v .cut
        = { s.endVoice v .cut with snd := { (s.endVoice v .cut).snd with queue := s.snd.queue.filter fun q => q.tag != tag } } := by
      unfold State.endVoice State.recordEnd
      dsimp only
      rw [show State.voice { s with snd := { s.snd with queue := s.snd.queue.filter fun q => q.tag != tag } } v = s.voice v from rfl,
        if_pos ha, if_pos ha]
      split <;> rfl
    have told := s.endVoice_told v .cut
    have scan : (s.endVoice v .cut).exc.scan = none := (congrArg Exc.scan told.exc).trans hs
    have queue : (s.endVoice v .cut).snd.queue = s.snd.queue := by rw [told.sound]
    have e := (cut _ (State.taggedVoice_of hn hok ha ht)).trans (congrArg (State.handBackAll _ _) ends)
    exact e.trans (gone _ scan queue)

/-! ### A whole scan that takes one MASTER_VOLUME cue -/

/-- A byte of the record as read. -/
theorem Memory.readCue_getD (m : Memory) (t : Half) {i : Nat} (hi : i < 16) : (m.readCue t).getD i 0 = m.read (cueAddr t + i) := by
  have bytes : ∀ (n a i : Nat), i < n → (m.readBytes a n).getD i 0 = m.read (a + i) := by
    intro n
    induction n with
    | zero => intro a i h; omega
    | succ n ih =>
      intro a i h
      cases i with
      | zero => rfl
      | succ i =>
        rw [Memory.readBytes, List.getD_cons_succ, ih (a + 1) i (by omega)]
        congr 1
        omega
  exact bytes 16 _ i hi

theorem State.advanceMs_same {s : State} (hw : s.mem.wf = true) {a : Nat} (ha : ¬ (0x0C ≤ a ∧ a ≤ 0x0F)) :
    s.advanceMs.mem.read a = s.mem.read a := by
  rw [State.advanceMs_read hw, if_neg ha]

/-- A MASTER_VOLUME cue judged (R17, R122). -/
theorem State.judgeCue_master {s : State} {r : List Byte} (h0 : byteAt r 0 = 1) (h1 : byteAt r 1 = 4) :
    s.judgeCue r = if s.exc.part = .halted then (s, .done .inactive) else if 255 < halfAt r 6 then (s, .done .badParam)
      else ({ s with snd := { s.snd with master := halfAt r 6 } }, .done .none) := by
  by_cases hp : s.exc.part = .halted
  · rw [if_pos hp, State.judgeCue_inactive h0 (by omega) (by omega) hp]
  · rw [if_neg hp, State.judgeCue_kind h0 (by omega) (by omega) (fun h => absurd h hp), (s.cueKind_spec r).2.2.2.1 h1]
    rfl

/-- Held work or a whole scan, one MASTER_VOLUME cue is written back with the reason that it comes to. -/
theorem State.takeCues_master {s : State} {v : Nat} {r : List Byte} (ht : s.exc.part.takesCues = true)
    (hr : s.mem.readCue s.exc.cueTake = r) (h0 : byteAt r 0 = 1) (h1 : byteAt r 1 = 4) (hv : halfAt r 6 = v) :
    let reason : CueReason := if s.exc.part = .halted then .inactive else if 255 < v then .badParam else .none
    State.takeCues 1 s = ({ s with snd := { s.snd with master := if reason.code = 0 then v else s.snd.master } } : State).writeBack
      (r.getD 1 0) reason := by
  have j := State.judgeCue_master (s := s) h0 h1
  rw [hv] at j
  by_cases hp : s.exc.part = .halted
  · rw [if_pos hp] at j
    simp only [if_pos hp]
    exact State.takeCues_done ht hr j
  · rw [if_neg hp] at j
    by_cases hb : 255 < v
    · rw [if_pos hb] at j
      simp only [if_neg hp, if_pos hb]
      exact State.takeCues_done ht hr j
    · rw [if_neg hb] at j
      simp only [if_neg hp, if_neg hb]
      exact State.takeCues_done ht hr j

/-- The first part of O32. -/
theorem scan_master (s : State) (v : Nat) (hw : s.mem.wf = true) (hs : s.exc.scan = none) (hl : s.lowerWaits = false)
    (ht : s.exc.part.takesCues = true)
    (hslot : s.exc.part = .running → s.mem.read 0x500 = s.exc.lastTaken ∧ s.exc.slotState ≠ .pending) (hone : s.oneCue)
    (h0 : s.mem.read (cueAddr s.exc.cueTake) = 1) (h1 : s.mem.read (cueAddr s.exc.cueTake + 1) = 4)
    (hv : s.mem.readLe (cueAddr s.exc.cueTake + 6) 2 = v) :
    let reason : CueReason := if s.exc.part = .halted then .inactive else if 255 < v then .badParam else .none
    exec .scanTimer s = .next (({ s.advanceMs with
      snd := { s.snd with master := if reason.code = 0 then v else s.snd.master } } : State).writeBack 4 reason) := by
  intro reason
  have hi : s.exc.part ≠ .idle := by
    intro e
    simp [e, PartState.takesCues] at ht
  have same : ∀ a, ¬ (0x0C ≤ a ∧ a ≤ 0x0F) → s.advanceMs.mem.read a = s.mem.read a := fun a ha => State.advanceMs_same hw ha
  have place : 0x800 ≤ cueAddr s.exc.cueTake := Nat.le_add_right _ _
  have byte : ∀ i < 16, (s.advanceMs.mem.readCue s.advanceMs.exc.cueTake).getD i 0 = s.mem.read (cueAddr s.exc.cueTake + i) :=
    fun i hi => (Memory.readCue_getD _ _ hi).trans (same (cueAddr s.exc.cueTake + i) (by omega))
  have b0 : byteAt (s.advanceMs.mem.readCue s.advanceMs.exc.cueTake) 0 = 1 := by
    rw [byteAt, byte 0 (by omega)]
    exact congrArg BitVec.toNat h0
  have b1 : (s.advanceMs.mem.readCue s.advanceMs.exc.cueTake).getD 1 0 = 4 := (byte 1 (by omega)).trans h1
  have b6 : halfAt (s.advanceMs.mem.readCue s.advanceMs.exc.cueTake) 6 = v := by
    rw [halfAt, byteAt, byteAt, byte 6 (by omega), byte 7 (by omega), ← hv]
    rfl
  have one : s.advanceMs.oneCue := (Memory.readLe_congr fun b _ _ => same b (by omega)).trans hone
  have slot : s.advanceMs.exc.part = .running → s.advanceMs.mem.read 0x500 = s.advanceMs.exc.lastTaken ∧ s.advanceMs.exc.slotState ≠ .pending :=
    fun h => ⟨(same 0x500 (by omega)).trans (hslot h).1, (hslot h).2⟩
  have master := State.takeCues_master (s := s.advanceMs) ht rfl b0 (congrArg BitVec.toNat b1) b6
  rw [execScanTimer_eq hi hs hl, State.scanWork_cue (s := s.advanceMs) ht slot one]
  refine (congrArg finish master).trans ?_
  rw [b1]
  exact finish_none ((State.writeBack_scan _ _ _).trans hs)

/-! ### Held scan work with one cue -/

section
variable {s : State} {r : List Byte} (h : s.CueReady r) (h0 : byteAt r 0 = 1)
include h h0

/-- A REFILL cue (R140). -/
theorem State.CueReady.refills (hk : byteAt r 1 = 7) :
    let fluid := if halfAt r 6 = 0 then s.cfg.smoke.capacity else min s.cfg.smoke.capacity (s.smk.fluid + halfAt r 6)
    ∃ t, Machine.exec .scanWorkDeferred s = .next t ∧ CueWritten s t r 0 s.mem.read
      ∧ t = { s with exc := s.cueExc 0, mem := t.mem, smk := if fluid = s.smk.fluid then s.smk
        else ({ s with smk := { s.smk with fluid := fluid } }.evalSmoke).smk } := by
  intro fluid
  have j : (s.holdScan false).judgeCue r = (s.holdScan false).cueRefill r := by
    rw [State.judgeCue_kind h0 (by omega) (by omega) (fun _ => .inr hk), ((s.holdScan false).cueKind_spec r).2.2.2.2.2.2 hk]
  have exc : (s.holdScan false).exc = s.workExc 0 := by rw [State.workExc, notice_none]; rfl
  have judged : (s.holdScan false).cueRefill r = ({ s.holdScan false with smk := if fluid = s.smk.fluid then s.smk
      else ({ s with smk := { s.smk with fluid := fluid } }.evalSmoke).smk }, .done .none) := by
    unfold State.cueRefill
    dsimp only
    show (if fluid = s.smk.fluid then _ else _) = _
    split <;> rfl
  exact h.applied (j.trans judged) exc rfl

variable (hp : s.exc.part = .running)
include hp

omit h in
/-- In RUNNING every record of a known kind goes to its block. -/
theorem State.CueReady.kind (hk : 1 ≤ byteAt r 1) (hk' : byteAt r 1 ≤ 7) :
    (s.holdScan false).judgeCue r = (s.holdScan false).cueKind r :=
  State.judgeCue_kind h0 hk hk' fun hh => absurd (hp.symm.trans hh) (by decide)

omit h in
/-- A PLAY cue (R101, R118). -/
theorem State.CueReady.plays (hk : byteAt r 1 = 1) :
    (s.holdScan false).judgeCue r = (s.holdScan false).cuePlay r :=
  (State.CueReady.kind h0 hp (by omega) (by omega)).trans (((s.holdScan false).cueKind_spec r).1 hk)

theorem State.CueReady.queued (hk : byteAt r 1 = 1) (ht : halfAt r 4 ≤ 0x7FFF) (hr : playParamsOk r = true)
    (hq : s.snd.queue.length < 32) :
    Machine.exec .scanWorkDeferred s = .next { s with
      exc := { s.exc with scanHeld := false, scan := some ⟨1, 0, none⟩ },
      snd := { s.snd with queue := s.snd.queue ++ [playRequest r] } } := by
  have j : (s.holdScan false).judgeCue r
      = ({ s.holdScan false with snd := { s.snd with queue := s.snd.queue ++ [playRequest r] } }, .waiting) := by
    rw [State.CueReady.plays h0 hp hk, State.cuePlay, if_neg (by omega), if_neg (by simp [hr]),
      if_neg (show ¬ 32 ≤ (s.holdScan false).snd.queue.length from Nat.not_le.mpr hq), State.requestStart,
      if_neg (show ¬ 32 ≤ (s.holdScan false).snd.queue.length from Nat.not_le.mpr hq)]
    rfl
  have kind : r.getD 1 0 = 1 := BitVec.eq_of_toNat_eq hk
  rw [h.exec, State.takeCues_waiting (s := s.holdScan false) h.takes h.read j, kind]
  refine finish_idle fun w hw => ?_
  cases hw
  rfl

omit h h0 hp in
/-- The tag of a record that may be named (R120, R121). -/
theorem cueTag_ne_zero {n : Nat} (hn : 1 ≤ n ∧ n ≤ 0x8010) : BitVec.ofNat 16 n ≠ 0 := fun e => by
  have e := congrArg BitVec.toNat e
  rw [BitVec.toNat_ofNat, Nat.mod_eq_of_lt (by omega)] at e
  exact absurd e (by show ¬ n = 0; omega)

/-- A RELEASE cue with a tag (R108, R120). -/
theorem State.CueReady.releases (hk : byteAt r 1 = 2) (ht : 1 ≤ halfAt r 4 ∧ halfAt r 4 ≤ 0x8010) :
    ∃ t, Machine.exec .scanWorkDeferred s = .next t ∧ CueWritten s t r 0 s.mem.read
      ∧ t = { s.releaseTag (BitVec.ofNat 16 (halfAt r 4)) with exc := s.cueExc 0, mem := t.mem } := by
  have j : (s.holdScan false).judgeCue r = ((s.releaseTag (BitVec.ofNat 16 (halfAt r 4))).withExc (s.workExc 0), .done .none) := by
    rw [State.CueReady.kind h0 hp (by omega) (by omega), ((s.holdScan false).cueKind_spec r).2.1 hk, State.cueRelease,
      if_pos (by simp [cueTagOk]; omega), ← State.releaseTag_withExc, State.workExc, notice_none]
    rfl
  exact h.applied (u := (s.releaseTag (BitVec.ofNat 16 (halfAt r 4))).withExc (s.workExc 0)) j rfl
    (State.releaseTag_soundOnly s _).mem

/-- A STOP cue with a tag (R109, R121). -/
theorem State.CueReady.stops (hok : s.tagsOk) (hk : byteAt r 1 = 3) (ht : 1 ≤ halfAt r 4 ∧ halfAt r 4 ≤ 0x8010) :
    let tag := BitVec.ofNat 16 (halfAt r 4)
    ((∀ v, (s.voice v).active = true → (s.voice v).tag ≠ tag) →
      ∃ t, Machine.exec .scanWorkDeferred s = .next t ∧ CueWritten s t r 0 s.mem.read
        ∧ t = { s.withdrawTag tag with exc := s.cueExc 0, mem := t.mem })
    ∧ ∀ v, (s.voice v).active = true → (s.voice v).tag = tag →
      ∃ t, Machine.exec .scanWorkDeferred s = .next t ∧ CueWritten s t r 0 s.mem.read
        ∧ t = { (s.endVoice v .cut).withdrawTag tag with exc := s.cueExc 0x10, mem := t.mem } := by
  intro tag
  have hn : tag ≠ 0 := cueTag_ne_zero ht
  have j : (s.holdScan false).judgeCue r = ((s.holdScan false).cutTag tag, .done .none) := by
    rw [State.CueReady.kind h0 hp (by omega) (by omega), ((s.holdScan false).cueKind_spec r).2.2.1 hk, State.cueStop,
      if_pos (by simp [cueTagOk]; omega)]
  obtain ⟨silent, sounds⟩ := State.cutTag_spec (s := s.holdScan false) hn hok h.free
  refine ⟨fun hv => ?_, fun v ha hv => ?_⟩
  · rw [silent hv] at j
    exact h.applied (u := (s.holdScan false).withdrawTag tag) j (by rw [State.workExc, notice_none]; rfl) rfl
  · rw [sounds v ha hv] at j
    obtain ⟨-, exc, -⟩ := (State.endVoice_ended (s := s.holdScan false) .cut ha).1.tagged (by
      show (s.voice v).tag ≠ 0
      rw [hv]
      exact hn)
    have only := State.endVoice_withExc s (s.holdScan false).exc (s.workExc 0x10) v .cut
    have same : (s.holdScan false).endVoice v .cut = (s.endVoice v .cut).withExc (s.workExc 0x10) := by
      rw [← only, State.withExc, show s.withExc (s.holdScan false).exc = s.holdScan false from rfl,
        show s.workExc 0x10 = ((s.holdScan false).endVoice v .cut).exc from exc.symm]
    rw [same] at j
    exact h.applied (u := ((s.endVoice v .cut).withExc (s.workExc 0x10)).withdrawTag tag) j rfl (s.endVoice_soundOnly v .cut).mem

/-- A MASTER_VOLUME cue (R122). -/
theorem State.CueReady.sets (hk : byteAt r 1 = 4) (hv : halfAt r 6 ≤ 255) :
    ∃ t, Machine.exec .scanWorkDeferred s = .next t ∧ CueWritten s t r 0 s.mem.read
      ∧ t = { s with exc := s.cueExc 0, mem := t.mem, snd := { s.snd with master := halfAt r 6 } } := by
  have j := State.judgeCue_master (s := s.holdScan false) h0 hk
  rw [if_neg (show ¬ (s.holdScan false).exc.part = .halted from fun hh => absurd (hp.symm.trans hh) (by decide)), if_neg (by omega)] at j
  exact h.applied j (by rw [State.workExc, notice_none]; rfl) rfl

/-- A FUNCTION cue with an operation (R37). -/
theorem State.CueReady.operates (hk : byteAt r 1 = 5) {op : FunctionOp} (ho : functionOpOf (byteAt r 6) = some op) :
    ∃ t, Machine.exec .scanWorkDeferred s = .next t ∧ CueWritten s t r 0 s.mem.read
      ∧ t = { s.functionOp op (BitVec.ofNat 32 (wordAt r 8)) with exc := s.cueExc 0, mem := t.mem } := by
  have works : (s.holdScan false).functionOp op (BitVec.ofNat 32 (wordAt r 8))
      = (s.functionOp op (BitVec.ofNat 32 (wordAt r 8))).withExc (s.workExc 0) := by
    rw [State.workExc, notice_none]
    exact State.functionOp_withExc (s := s) (e := (s.holdScan false).exc) rfl rfl op _
  have j : (s.holdScan false).judgeCue r = ((s.functionOp op (BitVec.ofNat 32 (wordAt r 8))).withExc (s.workExc 0), .done .none) := by
    rw [State.CueReady.kind h0 hp (by omega) (by omega), ((s.holdScan false).cueKind_spec r).2.2.2.2.1 hk, ← works]
    simp only [State.cueFunction, ho]
  exact h.applied (u := (s.functionOp op (BitVec.ofNat 32 (wordAt r 8))).withExc (s.workExc 0)) j rfl (s.functionOp_mem op _)

end

/-! ### The obligation -/

/-- A PLAY cue's parameters in range (R118). -/
theorem playParamsOk_iff (r : List Byte) : playParamsOk r = true ↔
    byteAt r 6 ≤ 127 ∧ byteAt r 7 ≤ 7 ∧ byteAt r 9 ≤ 1 ∧ 1 ≤ halfAt r 0x0A ∧ halfAt r 0x0A ≤ 1023 := by
  simp only [playParamsOk, Bool.and_eq_true, decide_eq_true_eq, and_assoc]

/-- The tag that a record names, as a tag. -/
theorem cueTag_named {r : List Byte} (x : Half) : x.toNat = halfAt r 4 ↔ x = BitVec.ofNat 16 (halfAt r 4) := by
  have small : halfAt r 4 < 65536 := by
    have h0 := (r.getD 4 0).isLt
    have h1 := (r.getD (4 + 1) 0).isLt
    unfold halfAt byteAt
    omega
  constructor
  · intro e
    rw [← e]
    simp
  · rintro rfl
    rw [BitVec.toNat_ofNat, Nat.mod_eq_of_lt small]

/-- What is refused of a PLAY, a RELEASE, a STOP, a MASTER_VOLUME and a FUNCTION cue in RUNNING, with its reason. -/
theorem State.judgeCue_refusals {s : State} {r : List Byte} (h0 : byteAt r 0 = 1) (hp : s.exc.part ≠ .halted) :
    (byteAt r 1 = 1 → 0x7FFF < halfAt r 4 → s.judgeCue r = (s, .done .badTag))
    ∧ (byteAt r 1 = 1 → halfAt r 4 ≤ 0x7FFF → ¬ playParamsOk r = true → s.judgeCue r = (s, .done .badParam))
    ∧ (byteAt r 1 = 1 → halfAt r 4 ≤ 0x7FFF → playParamsOk r = true → 32 ≤ s.snd.queue.length → s.judgeCue r = (s, .done .noVoice))
    ∧ (byteAt r 1 = 2 ∨ byteAt r 1 = 3 → ¬ (1 ≤ halfAt r 4 ∧ halfAt r 4 ≤ 0x8010) → s.judgeCue r = (s, .done .badTag))
    ∧ (byteAt r 1 = 4 → 255 < halfAt r 6 → s.judgeCue r = (s, .done .badParam))
    ∧ (byteAt r 1 = 5 → functionOpOf (byteAt r 6) = none → s.judgeCue r = (s, .done .badParam)) := by
  have kind : 1 ≤ byteAt r 1 → byteAt r 1 ≤ 7 → s.judgeCue r = s.cueKind r := fun h1 h7 =>
    State.judgeCue_kind h0 h1 h7 fun hh => absurd hh hp
  obtain ⟨play, release, stop, master, function, -⟩ := s.cueKind_spec r
  refine ⟨fun hk ht => ?_, fun hk ht hr => ?_, fun hk ht hr hq => ?_, fun hk ht => ?_, fun hk hv => ?_, fun hk ho => ?_⟩
  · rw [kind (by omega) (by omega), play hk, State.cuePlay, if_pos ht]
  · rw [kind (by omega) (by omega), play hk, State.cuePlay, if_neg (by omega), if_pos (by simpa using hr)]
  · rw [kind (by omega) (by omega), play hk, State.cuePlay, if_neg (by omega), if_neg (by simp [hr]), if_pos hq]
  · have bad : ¬ cueTagOk (halfAt r 4) = true := by simp [cueTagOk]; omega
    rcases hk with hk | hk
    · rw [kind (by omega) (by omega), release hk, State.cueRelease, if_neg bad]
    · rw [kind (by omega) (by omega), stop hk, State.cueStop, if_neg bad]
  · rw [kind (by omega) (by omega), master hk, State.cueMaster, if_pos hv]
  · rw [kind (by omega) (by omega), function hk]
    simp only [State.cueFunction, ho]

/-- What a scan with one MASTER_VOLUME cue leaves (R17, R122), for the reason that it comes to. -/
theorem writeBack_master {s : State} (hw : s.mem.wf = true) (reason : CueReason) (master : Nat) :
    let t := ({ s.advanceMs with snd := { s.snd with master := master } } : State).writeBack 4 reason
    let base := 0x800 + 16 * (s.exc.cueTake.toNat % 64)
    t = { s.countMs with exc := t.exc, mem := t.mem, snd := { s.snd with master := master } }
    ∧ t.exc = { s.exc with
        ms := s.exc.ms + 1, cueTake := s.exc.cueTake + 1, nlat := if reason.code = 0 then s.exc.nlat else s.exc.nlat ||| 4 }
    ∧ t.mem.readLe 0x06 2 = (s.exc.cueTake.toNat + 1) % 65536
    ∧ t.mem.read base = (if reason.code = 0 then 2 else 3) ∧ t.mem.read (base + 1) = 4
    ∧ t.mem.read (base + 2) = BitVec.ofNat 8 reason.code ∧ t.mem.read (base + 3) = 0
    ∧ ∀ a, ¬ (0x0C ≤ a ∧ a ≤ 0x0F) → a ≠ 0x06 → a ≠ 0x07 → (a < base ∨ base + 4 ≤ a) → t.mem.read a = s.mem.read a := by
  intro t base
  obtain ⟨only, tally, state, kind, why, zero, others⟩ :=
    State.writeBack_spec (s := { s.advanceMs with snd := { s.snd with master := master } }) 4 reason (State.advanceMs_wf hw)
  refine ⟨?_, congrArg State.exc only, tally, state, kind, why, zero, fun a ha h6 h7 hb => ?_⟩
  · exact State.writeBack_only _ 4 reason
  · exact (others a h6 h7 hb).trans (State.advanceMs_same hw ha)

/-- A STOP cue of a tag that no voice carries (R109, R121, R130). -/
theorem State.withdrawTag_spec (s : State) (tag : Half) :
    (s.withdrawTag tag).snd = { s.snd with
      queue := s.snd.queue.filter fun q => decide (q.tag ≠ tag), squeal := (s.withdrawTag tag).snd.squeal }
    ∧ (s.withdrawTag tag).snd.squeal
      = if s.snd.squeal = .sounding ∧ ∃ q ∈ s.snd.queue, q.asker = .squeal ∧ q.tag = tag then .silent else s.snd.squeal := by
  have e : (fun q : StartReq => q.tag != tag) = fun q => decide (q.tag ≠ tag) := by
    funext q
    by_cases h : q.tag = tag <;> simp [h]
  refine ⟨?_, rfl⟩
  show _ = ({ s.snd with queue := _, squeal := _ } : Snd)
  rw [← e]
  rfl

section
variable {s : State} {r : List Byte} (h : s.CueReady r) (h0 : byteAt r 0 = 1) (hp : s.exc.part = .running) (hok : s.tagsOk)
include h h0 hp hok

/-- A RELEASE cue, written out. -/
theorem State.CueReady.released (hk : byteAt r 1 = 2) (ht : 1 ≤ halfAt r 4 ∧ halfAt r 4 ≤ 0x8010) :
    ∃ t, Machine.exec .scanWorkDeferred s = .next t ∧ CueWritten s t r 0 s.mem.read
      ∧ t = { s with exc := s.cueExc 0, mem := t.mem, snd := t.snd }
      ∧ t.snd = { s.snd with voices := t.snd.voices, queue := t.snd.queue, current := t.snd.current }
      ∧ (∀ v, ((s.voice v).state = .looping ∧ (s.voice v).tag.toNat = halfAt r 4 → t.voice v = { s.voice v with state := .released })
          ∧ (¬ ((s.voice v).state = .looping ∧ (s.voice v).tag.toNat = halfAt r 4) → t.voice v = s.voice v))
      ∧ t.snd.queue = s.snd.queue.map (fun q => { q with mark := q.mark || decide (q.tag.toNat = halfAt r 4) })
      ∧ t.snd.current
        = s.snd.current.map fun w => { w with req := { w.req with mark := w.req.mark || decide (w.req.tag.toNat = halfAt r 4) } } := by
  obtain ⟨t, ht', written, only⟩ := h.releases h0 hp hk ht
  obtain ⟨sound, voices⟩ := State.releaseTag_spec (cueTag_ne_zero ht) hok
  have snd : t.snd = (s.releaseTag (BitVec.ofNat 16 (halfAt r 4))).snd := by rw [only]
  have mark : ∀ q : StartReq, q.markTag (BitVec.ofNat 16 (halfAt r 4)) = { q with mark := q.mark || decide (q.tag.toNat = halfAt r 4) } := by
    intro q
    simp only [cueTag_named]
    rw [StartReq.markTag, Bool.beq_eq_decide_eq]
  refine ⟨t, ht', written, ?_, ?_, fun v => ?_, ?_, ?_⟩
  · rw [snd, only, sound]
  · rw [snd, sound]
  · rw [cueTag_named, show t.voice v = (s.releaseTag _).voice v from congrArg (fun x : Snd => x.voices.get v) snd, voices v]
    exact ⟨fun hc => if_pos hc, fun hc => if_neg hc⟩
  · rw [snd, sound]
    exact List.map_congr_left fun q _ => mark q
  · rw [snd, sound]
    simp only [mark]

/-- A STOP cue, written out: without a voice of the tag, and with one. -/
theorem State.CueReady.stopped (hk : byteAt r 1 = 3) (ht : 1 ≤ halfAt r 4 ∧ halfAt r 4 ≤ 0x8010) :
    ∃ t notices, Machine.exec .scanWorkDeferred s = .next t ∧ CueWritten s t r 0 s.mem.read
      ∧ t = { s with exc := s.cueExc notices, mem := t.mem, snd := t.snd }
      ∧ t.snd = { s.snd with
          voices := t.snd.voices, order := t.snd.order, queue := s.snd.queue.filter fun q => decide (¬ q.tag.toNat = halfAt r 4),
          endList := t.snd.endList, endCount := t.snd.endCount, squeal := t.snd.squeal }
      ∧ ((∀ v, (s.voice v).active = true → ¬ (s.voice v).tag.toNat = halfAt r 4) → notices = 0 ∧ t.snd.voices = s.snd.voices
          ∧ t.snd.order = s.snd.order ∧ t.snd.endList = s.snd.endList ∧ t.snd.endCount = s.snd.endCount
          ∧ t.snd.squeal = if (s.snd.squeal = .sounding ∧ ∃ q ∈ s.snd.queue, q.asker = .squeal ∧ q.tag.toNat = halfAt r 4) then .silent
            else s.snd.squeal)
      ∧ (∀ v, (s.voice v).active = true → (s.voice v).tag.toNat = halfAt r 4 → notices = 0x10 ∧ t.snd.voices = s.snd.voices.set v {}
          ∧ t.snd.order = s.snd.order.erase v ∧ t.snd.endCount = s.snd.endCount + 1
          ∧ t.snd.endList = s.snd.endList.set (Fin.ofNat 8 (s.snd.endCount.toNat % 8)) ⟨(s.voice v).tag, .cut, v.val⟩
          ∧ ((∀ q ∈ s.snd.queue, q.asker = .squeal → q.tag = 0x8010) →
            t.snd.squeal = if s.snd.squeal = .sounding ∧ halfAt r 4 = 0x8010 then .spent else s.snd.squeal)) := by
  have names (x : Half) := cueTag_named (r := r) x
  obtain ⟨silent, sounds⟩ := h.stops h0 hp hok hk ht
  simp only [names]
  have hn := cueTag_ne_zero ht
  have spent : halfAt r 4 = 0x8010 ↔ BitVec.ofNat 16 (halfAt r 4) = 0x8010 :=
    eq_comm.trans ((names 0x8010).trans eq_comm)
  by_cases hv : ∃ v, (s.voice v).active = true ∧ (s.voice v).tag = BitVec.ofNat 16 (halfAt r 4)
  · obtain ⟨v, ha, hv⟩ := hv
    obtain ⟨t, ht', written, only⟩ := sounds v ha hv
    obtain ⟨ended, voices, order⟩ := State.endVoice_ended .cut ha
    obtain ⟨count, -, list⟩ := ended.tagged (by rw [hv]; exact hn)
    have sound := s.endVoice_sound v .cut
    have queue : (s.endVoice v .cut).snd.queue = s.snd.queue := by rw [sound]
    obtain ⟨cut, squeal⟩ := (s.endVoice v .cut).withdrawTag_spec (BitVec.ofNat 16 (halfAt r 4))
    have snd : t.snd = ((s.endVoice v .cut).withdrawTag (BitVec.ofNat 16 (halfAt r 4))).snd := by rw [only]
    refine ⟨t, 0x10, ht', written, ?_, ?_, fun none => absurd hv (none v ha), fun u hu hut => ?_⟩
    · rw [snd]
      exact only.trans (((s.endVoice_soundOnly v .cut).withSnd _).withExcMem _ _)
    · rw [snd, cut, queue, sound]
    · have same : u = v := hok.2.2 u v hu ha (hut.trans hv.symm) (by rw [hut]; exact hn)
      subst same
      rw [snd, cut]
      refine ⟨rfl, voices, order, count, list, fun only => ?_⟩
      show ((s.endVoice u .cut).withdrawTag _).snd.squeal = _
      rw [squeal, queue, ended.squeal, hut]
      by_cases hq : BitVec.ofNat 16 (halfAt r 4) = 0x8010 ∧ s.snd.squeal = .sounding
      · rw [if_pos hq, if_neg (by simp), if_pos ⟨hq.2, spent.mpr hq.1⟩]
      · rw [if_neg hq, if_neg, if_neg fun hc => hq ⟨spent.mp hc.2, hc.1⟩]
        rintro ⟨hs, q, hm, hqa, hqt⟩
        exact hq ⟨hqt.symm.trans (only q hm hqa), hs⟩
  · obtain ⟨t, ht', written, only⟩ := silent fun v ha hc => hv ⟨v, ha, hc⟩
    obtain ⟨cut, squeal⟩ := s.withdrawTag_spec (BitVec.ofNat 16 (halfAt r 4))
    have snd : t.snd = (s.withdrawTag (BitVec.ofNat 16 (halfAt r 4))).snd := by rw [only]
    refine ⟨t, 0, ht', written, ?_, ?_, fun _ => ?_, fun v ha hc => absurd ⟨v, ha, hc⟩ hv⟩
    · rw [snd]
      exact only
    · rw [snd, cut]
    · rw [snd]
      exact ⟨rfl, rfl, rfl, rfl, rfl, squeal⟩

end

/-- Settles O32: a whole scan that takes one MASTER_VOLUME cue, and held work with a cue of each kind. -/
theorem cueKinds : Obligations.CueKinds := by
  unfold Obligations.CueKinds
  refine ⟨?_, fun s r h hok => ?_⟩
  · intro s v hw hs hl ht hslot hone base h0 h1 hv reason
    have scan := scan_master s v hw hs hl ht hslot hone h0 h1 hv
    have e : (if s.exc.part = .halted then .inactive else if 255 < v then .badParam else .none : CueReason).code = reason := by
      unfold reason
      split
      · rfl
      · split <;> rfl
    have left := writeBack_master hw (if s.exc.part = .halted then .inactive else if 255 < v then .badParam else .none)
      (if reason = 0 then v else s.snd.master)
    dsimp only at scan
    rw [e] at scan left
    exact ⟨_, scan, left⟩
  · intro byte half kind tag hasTag named outcome refused
    have refuse : ∀ reason : CueReason, reason ≠ .none → (s.holdScan false).judgeCue r = (s.holdScan false, .done reason) →
        refused reason.code := fun reason hr hj => h.refused hr hj
    refine ⟨fun hb => ?_, fun hb hk => ?_, fun hb hp hk hk' => ?_, fun hb hk => ?_, fun hb hp => ?_⟩
    · exact refuse .notPosted (by decide) (State.judgeCue_notPosted _ hb)
    · exact refuse .badKind (by decide) (State.judgeCue_badKind _ hb hk)
    · exact refuse .inactive (by decide) (State.judgeCue_inactive hb hk hk' hp)
    · exact h.refills hb hk
    · obtain ⟨badTag, badParam, noVoice, noTag, badVolume, badOp⟩ :=
        State.judgeCue_refusals (s := s.holdScan false) hb (fun hh => absurd (hp.symm.trans hh) (by decide))
      refine ⟨?_, ?_, ?_, ?_, ?_, ?_⟩
      · intro hk inRange
        have range : inRange ↔ playParamsOk r = true := (playParamsOk_iff r).symm
        refine ⟨fun ht => ?_, fun ht hr => ?_, fun ht hr hq => ?_, fun ht hr hq => ?_⟩
        · exact refuse .badTag (by decide) (badTag hk ht)
        · exact refuse .badParam (by decide) (badParam hk ht (fun hc => hr (range.mpr hc)))
        · exact refuse .noVoice (by decide) (noVoice hk ht (range.mp hr) hq)
        · exact h.queued hb hp hk ht (range.mp hr) hq
      · exact fun hk ht => refuse .badTag (by decide) (noTag hk ht)
      · exact fun hk ht => h.released hb hp hok hk ht
      · exact fun hk ht => h.stopped hb hp hok hk ht
      · exact fun hk => ⟨fun hv => refuse .badParam (by decide) (badVolume hk hv), fun hv => h.sets hb hp hk hv⟩
      · refine fun hk => ⟨fun ho => ?_, fun op mask ho hm => ?_⟩
        · refine refuse .badParam (by decide) (badOp hk ?_)
          rw [functionOpOf, if_neg, if_neg, if_neg] <;> exact fun hc => by
            have e : byte 6 = byteAt r 6 := rfl
            omega
        · have code : functionOpOf (byteAt r 6) = some op := by
            rw [show byteAt r 6 = _ from ho]
            cases op <;> rfl
          have word : BitVec.ofNat 32 (wordAt r 8) = mask := by
            rw [show wordAt r 8 = mask.toNat from hm.symm]
            simp
          exact word ▸ h.operates hb hp hk code

end Sys2Proof.Machine
end

section
/-!
PROOF. A RELOAD cue in held scan work (O33): its refusals, and what each group that becomes active does (R19, R27, R41, R65, R84, R97, R132,
R146, R157, R172, R180).
-/
set_option Elab.async false

namespace Sys2Proof.Machine

/-! ### DARK and the mark of held scan work -/

theorem State.recordEnd_holdScan (s : State) (b : Bool) (tag : Half) (reason : EndReason) (v : Fin 8) :
    (s.holdScan b).recordEnd tag reason v = (s.recordEnd tag reason v).holdScan b := by
  unfold State.recordEnd
  split <;> rfl

theorem State.endVoice_holdScan (s : State) (b : Bool) (v : Fin 8) (reason : EndReason) :
    (s.holdScan b).endVoice v reason = (s.endVoice v reason).holdScan b := by
  unfold State.endVoice
  dsimp only
  rw [show (s.holdScan b).voice v = s.voice v from rfl]
  split
  · rw [State.recordEnd_holdScan]
    rfl
  · rfl

theorem State.endVoices_holdScan (reason : EndReason) (l : List (Fin 8)) (b : Bool) :
    ∀ s : State, State.endVoices reason l (s.holdScan b) = (State.endVoices reason l s).holdScan b := by
  induction l with
  | nil => exact fun _ => rfl
  | cons v l ih =>
    intro s
    show State.endVoices reason l ((s.holdScan b).endVoice v reason) = (State.endVoices reason l (s.endVoice v reason)).holdScan b
    rw [State.endVoice_holdScan, ih]

theorem State.handBackAll_holdScan (o : StartOutcome) (l : List StartReq) (b : Bool) :
    ∀ s : State, State.handBackAll o l (s.holdScan b) = (State.handBackAll o l s).holdScan b := by
  induction l with
  | nil => exact fun _ => rfl
  | cons r l ih =>
    intro s
    have one : (s.holdScan b).handBack r.asker o = (s.handBack r.asker o).holdScan b := by
      cases r.asker with
      | playCue => rfl
      | squeal => cases o <;> rfl
      | _ => rfl
    show State.handBackAll o l ((s.holdScan b).handBack r.asker o) = (State.handBackAll o l (s.handBack r.asker o)).holdScan b
    rw [one, ih]

theorem State.shedVoices_holdScan (s : State) (b : Bool) : (s.holdScan b).shedVoices = s.shedVoices.holdScan b := by
  unfold State.shedVoices
  dsimp only
  rw [State.endVoices_holdScan]
  generalize State.endVoices .shed octetIndices s = u
  exact State.handBackAll_holdScan (.refused .inactive) u.snd.queue b { u with snd := { u.snd with
    queue := [], current := u.snd.current.map fun w => { w with doomed := true } } }

theorem State.modeOf_holdScan (s : State) (b : Bool) (m : Motor) : (s.holdScan b).modeOf m = s.modeOf m := rfl

theorem State.followModes_holdScan (s : State) (b : Bool) : (s.holdScan b).followModes = s.followModes.holdScan b := by
  unfold State.followModes
  simp only [State.modeOf_holdScan]
  rw [show (s.holdScan b).bfu = s.bfu from rfl]
  split <;> rfl

theorem State.toStanding_holdScan (s : State) (b : Bool) : (s.holdScan b).toStanding = s.toStanding.holdScan b := by
  unfold State.toStanding
  exact State.followModes_holdScan (({ s with srg := { s.srg with traction := .standing } }.zeroDuty).chuffStanding.endSlip) b

theorem State.darkRest_holdScan (s : State) (b : Bool) : (s.holdScan b).darkRest = s.darkRest.holdScan b := by
  unfold State.darkRest
  rw [show (s.holdScan b).srg = s.srg from rfl]
  split
  · rfl
  · rfl
  · rfl
  · exact State.toStanding_holdScan (({ s with srg := { s.srg with r := 0 } } : State).stopTurn) b

theorem State.supplyLast_holdScan (s : State) (b : Bool) : (s.holdScan b).supplyLast = s.supplyLast.holdScan b := by
  unfold State.supplyLast
  rw [show (s.holdScan b).smokeActs = s.smokeActs from rfl]
  split <;> rfl

theorem State.supplySound_dark {s : State} (h : s.sup.state = .dark) : s.supplySound = s.recomputeCap.shedVoices := if_pos h

/-- An entry to DARK that halts nothing (R177). -/
theorem State.supplyChange_dark {s : State} (hp : s.exc.part ≠ .stopping) (hs : s.exc.scan = none) :
    s.supplyChange .dark = (s.supplyLimited .dark).darkRest.supplySound.supplyLast := by
  have hd := s.driveDark
  have last := (State.darkEntered_of hd hs).1.only
  have vpart : (s.supplyLimited .dark).darkRest.exc.part ≠ .stopping := by
    rw [hd.only]
    exact hp
  rw [s.supplyChange_eq .dark, if_pos rfl, State.darkStop_eq, State.endStopping_other vpart, ite_self]
  refine State.endStopping_other ?_
  rw [last]
  exact hp

/-- The hold-up timer's expiry does not look at the mark of held scan work (R175). -/
theorem State.holdupExpires_holdScan {s : State} (b : Bool) (hp : s.exc.part ≠ .stopping) (hs : s.exc.scan = none) :
    (s.holdScan b).holdupExpires = s.holdupExpires.holdScan b := by
  have dark : ∀ u : State, u.exc.part ≠ .stopping → u.exc.scan = none →
      (u.holdScan b).supplyChange .dark = (u.supplyChange .dark).holdScan b := by
    intro u up us
    have limited : (u.holdScan b).supplyLimited .dark = (u.supplyLimited .dark).holdScan b := rfl
    have vsup : (u.supplyLimited .dark).darkRest.sup.state = .dark := by rw [u.driveDark.only]
    rw [State.supplyChange_dark up us, State.supplyChange_dark (s := u.holdScan b) up us, limited, State.darkRest_holdScan,
      State.supplySound_dark vsup, State.supplySound_dark (s := (u.supplyLimited .dark).darkRest.holdScan b) vsup,
      ← State.supplyLast_holdScan, ← State.shedVoices_holdScan]
    rfl
  exact dark { s with sup := { s.sup with lean := 0, recover := 0, loss := 0, holdup := none } } hp hs

/-! ### A RELOAD cue judged (R19) -/

theorem CueWritten.result_congr {s t : State} {r : List Byte} {reason : Nat} {f f' : Nat → Byte} (h : CueWritten s t r reason f)
    (he : ∀ a, 0x11 ≤ a → a ≤ 0x14 → f a = f' a) : CueWritten s t r reason f' :=
  { h with result := fun a h1 h2 => (h.result a h1 h2).trans (he a h1 h2) }

/-- The adoption result with its notice leaves the rest as it is (R19). -/
theorem State.CueReady.resulted {s u : State} {r : List Byte} {reason : CueReason} {n : BitVec 15} (h : s.CueReady r)
    {result group index code : Nat}
    (hj : (s.holdScan false).judgeCue r = ((u.writeAdoptionResult result group index code).latch .configResult, .done reason))
    (he : u.exc = s.workExc n) (hm : u.mem = s.mem) :
    ∃ t, Machine.exec .scanWorkDeferred s = .next t ∧ t = { u with exc := s.cueExc (n ||| 1 ||| reason.notice), mem := t.mem }
      ∧ CueWritten s t r reason.code fun a => if a = 0x11 then BitVec.ofNat 8 result else if a = 0x12 then BitVec.ofNat 8 group
        else if a = 0x13 then BitVec.ofNat 8 index else BitVec.ofNat 8 code := by
  have wf : u.mem.wf = true := by
    rw [hm]
    exact h.mem
  have read := State.writeAdoptionResult_read result group index code wf
  have exc : ((u.writeAdoptionResult result group index code).latch .configResult).exc = s.workExc (n ||| 1) := by
    show ({ u.exc with nlat := u.exc.nlat ||| 1 } : Exc) = _
    rw [he, State.workExc, State.workExc, BitVec.or_assoc]
  obtain ⟨t, ht, only, written⟩ := h.taken hj exc (State.writeAdoptionResult_wf result group index code wf) fun a ha => by
    refine (read a).trans ?_
    rw [if_neg (by omega), if_neg (by omega), if_neg (by omega), if_neg (by omega), hm]
  refine ⟨t, ht, only, written.result_congr fun a h1 h2 => (read a).trans ?_⟩
  by_cases h14 : a = 0x14
  · subst h14
    rfl
  · rw [if_neg h14]
    have : a = 0x11 ∨ a = 0x12 ∨ a = 0x13 := by omega
    obtain rfl | rfl | rfl := this <;> rfl

/-- What a group made active leaves of EXC and exchange memory. -/
structure GroupTaken (s u : State) (g : Groups) (n : BitVec 15) : Prop where
  exc  : u.exc = s.workExc n
  mem  : u.mem = s.mem
  cfg  : u.cfg = g
  port : u.port = s.port

section
variable {s : State} {r : List Byte} (h : s.CueReady r) (h0 : byteAt r 0 = 1) (h1 : byteAt r 1 = 6)
include h0 h1

/-- A RELOAD cue goes to its group in RUNNING and in HALTED. -/
theorem judgeCue_reload (s : State) : s.judgeCue r = ((s.reload (byteAt r 6)).1, .done (s.reload (byteAt r 6)).2) := by
  rw [State.judgeCue_kind h0 (by omega) (by omega) (fun _ => .inl h1), (s.cueKind_spec r).2.2.2.2.2.1 h1]
  rfl

include h

theorem State.CueReady.badGroup (hn : byteAt r 6 = 0 ∨ 9 < byteAt r 6) :
    ∃ t, Machine.exec .scanWorkDeferred s = .next t ∧ t = { s with exc := s.cueExc 4, mem := t.mem } ∧ CueWritten s t r 4 s.mem.read := by
  have j := judgeCue_reload h0 h1 (s.holdScan false)
  rw [State.reload, if_pos hn] at j
  exact h.refused (reason := .badGroup) (by decide) j

variable (hn : 1 ≤ byteAt r 6) (hn' : byteAt r 6 ≤ 9)
include hn hn'

theorem State.CueReady.notStanding (hok : ¬ ((byteAt r 6 = 1 ∨ byteAt r 6 = 2 ∨ byteAt r 6 = 5) → s.srg.traction = .standing)) :
    ∃ t, Machine.exec .scanWorkDeferred s = .next t ∧ t = { s with exc := s.cueExc 4, mem := t.mem } ∧ CueWritten s t r 5 s.mem.read := by
  have j := judgeCue_reload h0 h1 (s.holdScan false)
  rw [State.reload, if_neg (by omega), if_pos (by simpa using hok)] at j
  exact h.refused (reason := .notStanding) (by decide) j

variable (hok : (byteAt r 6 = 1 ∨ byteAt r 6 = 2 ∨ byteAt r 6 = 5) → s.srg.traction = .standing)
include hok

theorem State.CueReady.badConfig {index : Nat} {reason : GroupReason}
    (hv : validateGroup (byteAt r 6) (s.groupBytes (byteAt r 6)) s.cfg = .refused index reason) :
    ∃ t, Machine.exec .scanWorkDeferred s = .next t ∧ t = { s with exc := s.cueExc 5, mem := t.mem }
      ∧ CueWritten s t r 6 fun a => if a = 0x11 then 2 else if a = 0x12 then BitVec.ofNat 8 (byteAt r 6)
        else if a = 0x13 then BitVec.ofNat 8 index else BitVec.ofNat 8 reason.code := by
  have j := judgeCue_reload h0 h1 (s.holdScan false)
  rw [State.reload, if_neg (by omega), if_neg (fun hc => hc.2 (hok hc.1)),
    show validateGroup (byteAt r 6) ((s.holdScan false).groupBytes (byteAt r 6)) (s.holdScan false).cfg = _ from hv] at j
  exact h.resulted (u := s.holdScan false) (n := 0) (reason := .badConfig) j (by rw [State.workExc, notice_none]; rfl) rfl

/-- A group that its block accepts: what it made active is written back (R19). -/
theorem State.CueReady.reloaded {g : Groups} {n : BitVec 15}
    (hv : validateGroup (byteAt r 6) (s.groupBytes (byteAt r 6)) s.cfg = .valid g)
    (hg : GroupTaken s ((s.holdScan false).reloadGroup (byteAt r 6) g) g n) :
    ∃ t, Machine.exec .scanWorkDeferred s = .next t
      ∧ t = { (s.holdScan false).reloadGroup (byteAt r 6) g with exc := s.cueExc (n ||| 1), mem := t.mem }
      ∧ CueWritten s t r 0 fun a => if a = 0x11 then 1 else 0 := by
  have j := judgeCue_reload h0 h1 (s.holdScan false)
  rw [State.reload, if_neg (by omega), if_neg (fun hc => hc.2 (hok hc.1)),
    show validateGroup (byteAt r 6) ((s.holdScan false).groupBytes (byteAt r 6)) (s.holdScan false).cfg = _ from hv] at j
  obtain ⟨t, ht, only, written⟩ := h.resulted (reason := .none) j hg.exc hg.mem
  have notices : n ||| 1 ||| CueReason.none.notice = n ||| 1 := notice_none _
  rw [notices] at only
  refine ⟨t, ht, only, written.result_congr fun a _ _ => ?_⟩
  split
  · rfl
  · split
    · rfl
    · split <;> rfl

end

end Sys2Proof.Machine
end

section
/-!
PROOF. What each configuration group does at a RELOAD that is accepted (O33).
-/
set_option Elab.async false

namespace Sys2Proof.Machine

/-! ### TRACTION (R65, R78, R84) -/

/-- The TRACTION values taken, before DRVFLT is looked at. -/
def State.tractionLoaded (s : State) (g : Groups) : State :=
  { s with
    cfg := g,
    srg := { s.srg with
      motors := ⟨reloadMotor g.traction .a s.srg.motors.a, reloadMotor g.traction .b s.srg.motors.b⟩, regTimer := s.exc.part.driving },
    bfu := { s.bfu with
      chans := ⟨reloadChannel g.traction .a s.exc.part.driving s.bfu.chans.a, reloadChannel g.traction .b s.exc.part.driving s.bfu.chans.b⟩,
      slipRun := 0 } }

theorem State.reloadTraction_eq (s : State) (g : Groups) : s.reloadTraction g = (s.tractionLoaded g).checkDriver := rfl

theorem State.tractionLoaded_motor (s : State) (g : Groups) (m : Motor) :
    (s.tractionLoaded g).srg.motors.get m = reloadMotor g.traction m (s.srg.motors.get m) := by
  cases m <;> rfl

theorem State.tractionLoaded_chan (s : State) (g : Groups) (m : Motor) :
    (s.tractionLoaded g).chan m = reloadChannel g.traction m s.exc.part.driving (s.chan m) := by
  cases m <;> rfl

/-- A channel with no persistence count keeps none as it turns OFF (R76). -/
theorem Channel.enter_off_persist (c : Traction) {ch : Channel} (h : ch.persist = 0) : (ch.enter c .off).persist = 0 := by
  unfold Channel.enter
  split
  · exact h
  · unfold Channel.apply
    cases ch.dir <;> rfl

/-- A channel's counts and counter after a RELOAD of TRACTION, and what a removed motor's becomes. -/
theorem reloadChannel_spec (c : Traction) (m : Motor) (driving : Bool) (ch : Channel) :
    let x := reloadChannel c m driving ch
    x.persist = 0 ∧ x.cbcMark = false ∧ x.pos = (if driving then some 0 else none)
    ∧ (c.present m = false → x.mode = .off ∧ x.duty = 0 ∧ x.avg = 0) := by
  unfold reloadChannel
  dsimp only
  cases hm : c.present m with
  | true => exact ⟨rfl, rfl, rfl, fun h => nomatch h⟩
  | false =>
    obtain ⟨mode, -, -, -, -, -, -, pos⟩ := Channel.enter_spec c .off { ch with
      persist := 0, cbcMark := false, periodCbc := false, phase := .before, pos := if driving then some 0 else none }
    obtain ⟨-, -, -, -, mark⟩ := Channel.enter_kept c .off { ch with
      persist := 0, cbcMark := false, periodCbc := false, phase := .before, pos := if driving then some 0 else none }
    exact ⟨Channel.enter_off_persist c rfl, mark, pos, fun _ => ⟨mode, rfl, rfl⟩⟩

/-- The counter stands where it stood after a trip that hands duty 0. -/
theorem Channel.tripped_hand_pos (c : Traction) (ch : Channel) : ((ch.tripped c).hand c 0).pos = ch.pos := by
  have mode : (ch.tripped c).mode = .off := by unfold Channel.tripped Channel.apply; cases ch.dir <;> rfl
  have pos : (ch.tripped c).pos = ch.pos := by unfold Channel.tripped Channel.apply; cases ch.dir <;> rfl
  rw [Channel.hand, if_pos (by rw [mode]; decide)]
  exact pos

/-- DRVFLT, active under the new polarity, trips the part (R78). -/
def State.polarityTrips (s : State) (g : Groups) : Prop :=
  s.exc.part = .running ∧ s.bfu.drvflt = some g.traction.polarity ∧ s.bfu.trip = .none

section
variable {s : State} (g : Groups) (ht : s.exc.part.takesCues = true)
include ht

theorem PartState.driving_iff : s.exc.part.driving = (s.exc.part == .running) := by
  cases hp : s.exc.part <;> simp_all [PartState.takesCues] <;> rfl

theorem State.reloadTraction_calm (h : ¬ s.polarityTrips g) : s.reloadTraction g = s.tractionLoaded g := by
  rw [State.reloadTraction_eq, State.checkDriver, if_neg]
  rintro ⟨active, drives, none⟩
  refine h ⟨?_, ?_, none⟩
  · have := PartState.driving_iff ht
    rw [show s.exc.part.driving = true from drives] at this
    exact beq_iff_eq.mp this.symm
  · exact beq_iff_eq.mp active

omit ht in
theorem State.reloadTraction_trips (h : s.polarityTrips g) : s.reloadTraction g = (s.tractionLoaded g).trippedBy .driver := by
  obtain ⟨hp, active, none⟩ := h
  have part : (s.tractionLoaded g).exc.part = .running := hp
  rw [State.reloadTraction_eq, State.checkDriver, if_pos, State.tripNow_eq (s := s.tractionLoaded g) none, State.endStopping_other]
  · rw [((s.tractionLoaded g).trippedBy_spec .driver).1]
    dsimp only
    rw [part]
    decide
  · refine ⟨?_, ?_, none⟩
    · show (s.bfu.drvflt == some g.traction.polarity) = true
      rw [active, beq_self_eq_true]
    · rw [part]
      rfl


/-- What a RELOAD of TRACTION changes (R65, R84). -/
theorem State.reloadTraction_only :
    s.reloadTraction g = { s with exc := (s.reloadTraction g).exc, cfg := g, srg := (s.reloadTraction g).srg, bfu := (s.reloadTraction g).bfu } := by
  by_cases h : s.polarityTrips g
  · rw [State.reloadTraction_trips g h, ((s.tractionLoaded g).trippedBy_spec .driver).1]
    rfl
  · rw [State.reloadTraction_calm g ht h]
    rfl

/-- The motors and the channels after a RELOAD of TRACTION, tripped or not (R65, R84). -/
theorem State.reloadTraction_motors (m : Motor) :
    (g.traction.present m = false → (s.reloadTraction g).srg.motors.get m = {} ∧ ((s.reloadTraction g).chan m).mode = .off
      ∧ ((s.reloadTraction g).chan m).duty = 0 ∧ ((s.reloadTraction g).chan m).avg = 0)
    ∧ ((s.reloadTraction g).chan m).persist = 0 ∧ ((s.reloadTraction g).chan m).cbcMark = false
    ∧ ((s.reloadTraction g).chan m).pos = if s.exc.part = .running then some 0 else none := by
  obtain ⟨persist, mark, pos, removed⟩ := reloadChannel_spec g.traction m s.exc.part.driving (s.chan m)
  have motor := s.tractionLoaded_motor g m
  have chan := s.tractionLoaded_chan g m
  have gone : g.traction.present m = false → reloadMotor g.traction m (s.srg.motors.get m) = {} := fun hm => by
    rw [reloadMotor, hm]
    rfl
  rw [PartState.driving_iff ht] at pos
  simp only [beq_iff_eq] at pos
  rw [← PartState.driving_iff ht] at pos
  by_cases h : s.polarityTrips g
  · rw [State.reloadTraction_trips g h]
    obtain ⟨only, chans⟩ := (s.tractionLoaded g).trippedBy_spec .driver
    obtain ⟨tduty, -, -, tpersist, tmark, tmode, tavg, -⟩ := Channel.tripped_hand g.traction ((s.tractionLoaded g).chan m)
    have tpos := Channel.tripped_hand_pos g.traction ((s.tractionLoaded g).chan m)
    have tchan : ((s.tractionLoaded g).trippedBy .driver).chan m = (((s.tractionLoaded g).chan m).tripped g.traction).hand g.traction 0 :=
      chans m
    rw [tchan]
    refine ⟨fun hm => ⟨?_, tmode, tduty, tavg⟩, tpersist, tmark, ?_⟩
    · rw [only]
      show ((s.tractionLoaded g).srg.motors.map SrgMotor.rest).get m = {}
      rw [PerMotor.get_map, motor, gone hm]
      rfl
    · rw [tpos, chan]
      exact pos
  · rw [State.reloadTraction_calm g ht h, motor, chan]
    exact ⟨fun hm => ⟨gone hm, removed hm⟩, persist, mark, pos⟩

theorem State.reloadTraction_quiet (h : ¬ s.polarityTrips g) :
    (s.reloadTraction g).exc = s.exc
    ∧ (s.reloadTraction g).srg = { s.srg with motors := (s.reloadTraction g).srg.motors, regTimer := s.exc.part == .running }
    ∧ (s.reloadTraction g).bfu = { s.bfu with chans := (s.reloadTraction g).bfu.chans, slipRun := 0 }
    ∧ ∀ m, g.traction.present m = true → (s.reloadTraction g).srg.motors.get m = { s.srg.motors.get m with i := 0, sat := .zero } := by
  rw [State.reloadTraction_calm g ht h]
  refine ⟨rfl, ?_, rfl, fun m hm => ?_⟩
  · rw [← PartState.driving_iff ht]
    rfl
  · rw [State.tractionLoaded_motor, reloadMotor, if_pos hm]

theorem State.reloadTraction_tripped (h : s.polarityTrips g) :
    (s.reloadTraction g).exc = { s.exc with nlat := s.exc.nlat ||| 0x80 }
    ∧ (s.reloadTraction g).srg = { s.srg with
        traction := .tripped, r := 0, brakeOrder := false, turnTimer := none, turnMark := false, regTimer := true,
        motors := (s.reloadTraction g).srg.motors }
    ∧ (s.reloadTraction g).bfu = { s.bfu with
        chans := (s.reloadTraction g).bfu.chans, trip := .driver, slip := .normal, slipRun := 0, faster := none }
    ∧ ∀ m, (g.traction.present m = true →
        (s.reloadTraction g).srg.motors.get m = { s.srg.motors.get m with i := 0, sat := .zero, d := 0 })
      ∧ ((s.reloadTraction g).chan m).mode = .off ∧ ((s.reloadTraction g).chan m).duty = 0 ∧ ((s.reloadTraction g).chan m).raised = none
      ∧ ((s.reloadTraction g).chan m).avg = 0 ∧ ((s.reloadTraction g).chan m).conducts = false := by
  rw [State.reloadTraction_trips g h]
  obtain ⟨only, chans⟩ := (s.tractionLoaded g).trippedBy_spec .driver
  have drives : (s.tractionLoaded g).srg.regTimer = true := by
    show s.exc.part.driving = true
    rw [PartState.driving_iff ht, h.1]
    rfl
  generalize (s.tractionLoaded g).trippedBy .driver = u at only chans
  refine ⟨by rw [only]; rfl, ?_, ?_, fun m => ⟨fun hm => ?_, ?_⟩⟩
  · rw [only]
    dsimp only
    rw [drives]
    rfl
  · rw [only]
    rfl
  · have e : u.srg.motors.get m = ((s.tractionLoaded g).srg.motors.get m).rest := by
      rw [only]
      exact PerMotor.get_map _ _ m
    rw [e, State.tractionLoaded_motor, reloadMotor, if_pos hm]
    rfl
  · obtain ⟨duty, raised, -, -, -, mode, avg, h1, l1, h2, l2⟩ := Channel.tripped_hand g.traction ((s.tractionLoaded g).chan m)
    have e : u.chan m = (((s.tractionLoaded g).chan m).tripped g.traction).hand g.traction 0 := chans m
    rw [e]
    refine ⟨mode, duty, raised, avg, ?_⟩
    unfold Channel.conducts Leg.conducts
    rw [h1, l1, h2, l2]
    rfl

end

/-! ### FUNCTIONS (R25, R39, R113, R136) -/

/-- An evaluation of the smoke state in a part that differs in EXC's own fields and exchange memory. -/
theorem SmokeEvaluated.elsewhere {s t : State} (h : SmokeEvaluated s t) {e : Exc} (m : Memory) (hp : e.part = s.exc.part)
    (ha : e.adoption = s.exc.adoption) : SmokeEvaluated { s with exc := e, mem := m } { t with exc := e, mem := m } := by
  refine h.of rfl rfl rfl ?_ ?_
  · unfold State.haltedLike
    dsimp only
    rw [hp, ha]
  · rw [h.only]

/-- The levels evaluated under a new function map (R41). -/
theorem State.reloadFunctions_taken (s : State) (g : Groups) : LevelsTaken { s with cfg := g } (s.reloadFunctions g) :=
  State.evalLevels_taken _

/-! ### SOUND (R127, R132) -/

theorem State.reloadSound_none {s : State} {g : Groups} (h : g.sound.bgClip = none) :
    s.reloadSound g = ({ s with cfg := g, snd := { s.snd with master := g.sound.master } } : State).endVoice 1 .cut := by
  unfold State.reloadSound State.reloadBackground
  dsimp only
  rw [h]

/-- The background is asked for again in RUNNING with the supply NORMAL or LEAN (R127). -/
theorem State.reloadSound_some {s : State} {g : Groups} {clip : Nat} (h : g.sound.bgClip = some clip) :
    s.reloadSound g = { s with cfg := g, snd := { s.snd with
      master := g.sound.master,
      queue := if s.exc.part = .running ∧ (s.sup.state = .normal ∨ s.sup.state = .lean) ∧ s.snd.queue.length < 32
        then s.snd.queue ++ [State.backgroundStart { s with cfg := g } clip] else s.snd.queue } } := by
  have good : s.sup.state.good = true ↔ (s.sup.state = .normal ∨ s.sup.state = .lean) := by
    cases s.sup.state <;> simp [Supply.good]
  obtain ⟨queued, full⟩ := State.requestBackground_spec { s with cfg := g, snd := { s.snd with master := g.sound.master } }
  unfold State.reloadSound State.reloadBackground
  dsimp only
  rw [h]
  dsimp only
  by_cases hp : s.exc.part = .running ∧ s.sup.state.good = true
  · rw [if_pos hp]
    by_cases hl : s.snd.queue.length < 32
    · rw [queued clip h hl, if_pos ⟨hp.1, good.mp hp.2, hl⟩]
      rfl
    · rw [full (.inr (Nat.not_lt.mp hl)), if_neg fun hc => hl hc.2.2]
  · rw [if_neg hp, if_neg fun hc => hp ⟨hc.1, good.mpr hc.2.1⟩]

/-! ### LIGHTS (R157) -/

theorem Lamp.reload_spec (p : Program) (l : Lamp) :
    l.reload p = { l with phase := 0, fade := (l.reload p).fade, flash := (l.reload p).flash }
    ∧ ((∃ x y, p.effect = .fade x y) → (l.reload p).fade = l.fade) ∧ ((∀ x y, p.effect ≠ .fade x y) → (l.reload p).fade = 0)
    ∧ ((∃ x y, p.effect = .chuffFlash x y) → (l.reload p).flash = l.flash)
    ∧ ((∀ x y, p.effect ≠ .chuffFlash x y) → (l.reload p).flash = 0) := by
  unfold Lamp.reload
  cases p.effect <;> simp

/-! ### RADIO (R172) -/

theorem State.reloadRadio_spec (s : State) (g : Groups) :
    (s.rrx.holder = none → s.reloadRadio g = { s with cfg := g })
    ∧ (s.rrx.holder ≠ none → s.reloadRadio g = { s with
        cfg := g, rrx := { s.rrx with holder := none, failsafe := none },
        drq := if s.drq.source = .radio then { s.drq with source := .failsafe, origin := .speedUnits 0, s := 0 } else s.drq }) := by
  unfold State.reloadRadio
  dsimp only
  refine ⟨fun h => ?_, fun h => ?_⟩
  · rw [h]
    rfl
  · rw [if_pos (Option.isSome_iff_ne_none.mpr h)]
    unfold State.freeHolder State.holderFreed
    dsimp only
    split <;> rfl

end Sys2Proof.Machine
end

section
/-!
PROOF. A RELOAD cue in held scan work (O33), put together: EXC and exchange memory at each group, and the obligation.
-/
set_option Elab.async false

namespace Sys2Proof.Machine

/-! ### EXC and exchange memory at each group (R19) -/

/-- A group that touches neither EXC nor exchange memory. -/
theorem GroupTaken.quiet {s u : State} {g : Groups} (he : u.exc = (s.holdScan false).exc) (hm : u.mem = s.mem) (hc : u.cfg = g)
    (hp : u.port = s.port) : GroupTaken s u g 0 :=
  ⟨by rw [he, State.workExc, notice_none]; rfl, hm, hc, hp⟩

theorem reloadSound_taken (s : State) (g : Groups) : ∃ n, GroupTaken s ((s.holdScan false).reloadSound g) g n := by
  cases h : g.sound.bgClip with
  | some clip =>
    rw [State.reloadSound_some h]
    exact ⟨0, .quiet rfl rfl rfl rfl⟩
  | none =>
    rw [State.reloadSound_none h]
    obtain ⟨u, hu⟩ : ∃ u, ({ s.holdScan false with cfg := g, snd := { s.snd with master := g.sound.master } } : State) = u := ⟨_, rfl⟩
    have uexc : u.exc = (s.holdScan false).exc := by rw [← hu]
    have only := u.endVoice_soundOnly 1 .cut
    have rest : (u.endVoice 1 .cut).mem = s.mem ∧ (u.endVoice 1 .cut).cfg = g ∧ (u.endVoice 1 .cut).port = s.port := by
      rw [show u.endVoice 1 .cut = _ from only, ← hu]
      exact ⟨rfl, rfl, rfl⟩
    obtain ⟨mem, cfg, port⟩ := rest
    show ∃ n, GroupTaken s (State.endVoice { s.holdScan false with cfg := g, snd := { s.snd with master := g.sound.master } } 1 .cut) g n
    rw [hu]
    cases ha : (u.voice 1).active with
    | false =>
      rw [State.endVoice_free .cut ha] at mem cfg port ⊢
      exact ⟨0, .quiet uexc mem cfg port⟩
    | true =>
      have ended := (State.endVoice_ended .cut ha).1
      by_cases htag : (u.voice 1).tag = 0
      · exact ⟨0, .quiet ((ended.untagged htag).2.2.trans uexc) mem cfg port⟩
      · exact ⟨0x10, (ended.tagged htag).2.1.trans (by rw [uexc]; rfl), mem, cfg, port⟩

/-- The part with a new POWER group, its hold-up timer limited (R180). -/
def State.powerLoaded (s : State) (g : Groups) : State :=
  { s with cfg := g, sup := { s.sup with lean := 0, recover := 0, loss := 0, ret := 0, holdup := s.sup.holdup.map fun x => min x g.power.holdTime } }

theorem State.reloadPower_spec {s : State} (g : Groups) (hp : s.exc.part ≠ .stopping) (hs : s.exc.scan = none) :
    ((s.sup.holdup.map fun x => min x g.power.holdTime) ≠ some 0 → (s.holdScan false).reloadPower g = (s.powerLoaded g).holdScan false)
    ∧ ((s.sup.holdup.map fun x => min x g.power.holdTime) = some 0 →
      (s.holdScan false).reloadPower g = (s.powerLoaded g).holdupExpires.holdScan false) := by
  obtain ⟨stopped, runs⟩ := State.newPower_spec ({ s.holdScan false with cfg := g } : State)
  have loaded : ∀ x, (s.sup.holdup.map fun x => min x g.power.holdTime) = x →
      ({ s.holdScan false with cfg := g, sup := { s.sup.clearRuns with holdup := x } } : State) = (s.powerLoaded g).holdScan false := by
    rintro x rfl
    rfl
  cases hu : s.sup.holdup with
  | none =>
    refine ⟨fun _ => ?_, fun h => nomatch h⟩
    have kept : s.sup.clearRuns = { s.sup.clearRuns with holdup := none } := by
      rw [← hu]
      rfl
    refine (stopped hu).trans (Eq.trans ?_ (loaded none (by rw [hu]; rfl)))
    rw [← kept]
    rfl
  | some x =>
    have e : (s.sup.holdup.map fun x => min x g.power.holdTime) = some (min x g.power.holdTime) := by rw [hu]; rfl
    refine ⟨fun h => ?_, fun h => ?_⟩
    · have hz : min x g.power.holdTime ≠ 0 := fun hz => h (congrArg some hz)
      exact ((runs x hu).2 hz).trans (loaded _ e)
    · have hz : min x g.power.holdTime = 0 := Option.some.inj h
      refine ((runs x hu).1 hz).trans ?_
      rw [← State.holdupExpires_holdScan false (s := s.powerLoaded g) hp hs, ← loaded _ (e.trans h)]
      rfl

theorem reloadPower_taken {s : State} (g : Groups) (hp : s.exc.part ≠ .stopping) (hs : s.exc.scan = none) :
    ∃ n, GroupTaken s ((s.holdScan false).reloadPower g) g n
      ∧ ((s.sup.holdup.map fun x => min x g.power.holdTime) ≠ some 0 → n = 0) := by
  obtain ⟨stays, expires⟩ := State.reloadPower_spec g hp hs
  by_cases h : (s.sup.holdup.map fun x => min x g.power.holdTime) = some 0
  · rw [expires h]
    have dark := (State.holdupExpires_cases (s := s.powerLoaded g) hs).2.1 hp
    refine ⟨0x2000 ||| if (∃ v, ((s.powerLoaded g).voice v).active = true ∧ ((s.powerLoaded g).voice v).tag ≠ 0) then 0x10 else 0,
      ⟨?_, ?_, ?_, ?_⟩, fun hc => absurd h hc⟩
    · have nlat := dark.notices.2
      rw [BitVec.or_assoc] at nlat
      show ({ (s.powerLoaded g).holdupExpires.exc with scanHeld := false } : Exc) = _
      rw [dark.only]
      dsimp only
      rw [nlat]
      rfl
    · show (s.powerLoaded g).holdupExpires.mem = s.mem
      rw [dark.only]
      rfl
    · show (s.powerLoaded g).holdupExpires.cfg = g
      rw [dark.only]
      rfl
    · show (s.powerLoaded g).holdupExpires.port = s.port
      rw [dark.only]
      rfl
  · rw [stays h]
    exact ⟨0, .quiet rfl rfl rfl rfl, fun _ => rfl⟩

/-- EXC and exchange memory at the group that a RELOAD makes active, with the notices latched on the way. -/
theorem reloadGroup_taken {s : State} (g : Groups) {k : Nat} (hk : 1 ≤ k) (hk' : k ≤ 9) (ht : s.exc.part.takesCues = true)
    (hs : s.exc.scan = none) :
    ∃ n, GroupTaken s ((s.holdScan false).reloadGroup k g) g n
      ∧ (k = 1 → ¬ s.polarityTrips g → n = 0) ∧ (k = 1 → s.polarityTrips g → n = 0x80)
      ∧ (k = 9 → (s.sup.holdup.map fun x => min x g.power.holdTime) ≠ some 0 → n = 0)
      ∧ (k ≠ 1 → k ≠ 4 → k ≠ 9 → n = 0) := by
  have hp : s.exc.part ≠ .stopping := fun h => by
    rw [h] at ht
    exact absurd ht (by decide)
  have quiet : ∀ u : State, GroupTaken s u g 0 → k ≠ 1 → k ≠ 9 → ∃ n, GroupTaken s u g n
      ∧ (k = 1 → ¬ s.polarityTrips g → n = 0) ∧ (k = 1 → s.polarityTrips g → n = 0x80)
      ∧ (k = 9 → (s.sup.holdup.map fun x => min x g.power.holdTime) ≠ some 0 → n = 0) ∧ (k ≠ 1 → k ≠ 4 → k ≠ 9 → n = 0) :=
    fun u hu h1 h9 => ⟨0, hu, fun h => absurd h h1, fun h => absurd h h1, fun h => absurd h h9, fun _ _ _ => rfl⟩
  have cases : k = 1 ∨ k = 2 ∨ k = 3 ∨ k = 4 ∨ k = 5 ∨ k = 6 ∨ k = 7 ∨ k = 8 ∨ k = 9 := by omega
  obtain rfl | rfl | rfl | rfl | rfl | rfl | rfl | rfl | rfl := cases
  · have only := State.reloadTraction_only (s := s.holdScan false) g ht
    have frame : ∀ n, ((s.holdScan false).reloadTraction g).exc = s.workExc n → GroupTaken s ((s.holdScan false).reloadTraction g) g n :=
      fun n he => ⟨he, by rw [only]; rfl, by rw [only], by rw [only]; rfl⟩
    by_cases h : s.polarityTrips g
    · exact ⟨0x80, frame _ (State.reloadTraction_tripped g ht (s := s.holdScan false) h).1, fun _ hc => absurd h hc, fun _ _ => rfl,
        fun hc => absurd hc (by decide), fun hc => absurd rfl hc⟩
    · refine ⟨0, frame _ ?_, fun _ _ => rfl, fun _ hc => absurd hc h, fun hc => absurd hc (by decide), fun _ _ _ => rfl⟩
      rw [(State.reloadTraction_quiet g ht (s := s.holdScan false) h).1, State.workExc, notice_none]
      rfl
  · exact quiet _ (.quiet rfl rfl rfl rfl) (by decide) (by decide)
  · have only := (State.reloadFunctions_taken (s.holdScan false) g).only
    have taken : GroupTaken s ((s.holdScan false).reloadFunctions g) g 0 := by
      rw [only]
      exact .quiet rfl rfl rfl rfl
    exact quiet _ taken (by decide) (by decide)
  · obtain ⟨n, taken⟩ := reloadSound_taken s g
    exact ⟨n, taken, fun hc => absurd hc (by decide), fun hc => absurd hc (by decide), fun hc => absurd hc (by decide), fun _ hc => absurd rfl hc⟩
  · exact quiet _ (.quiet rfl rfl rfl rfl) (by decide) (by decide)
  · exact quiet _ (.quiet rfl rfl rfl rfl) (by decide) (by decide)
  · exact quiet _ (.quiet rfl rfl rfl rfl) (by decide) (by decide)
  · have taken : GroupTaken s ((s.holdScan false).reloadRadio g) g 0 := by
      by_cases h : s.rrx.holder = none
      · rw [((s.holdScan false).reloadRadio_spec g).1 h]
        exact .quiet rfl rfl rfl rfl
      · rw [((s.holdScan false).reloadRadio_spec g).2 h]
        exact .quiet rfl rfl rfl rfl
    exact quiet _ taken (by decide) (by decide)
  · obtain ⟨n, taken, still⟩ := reloadPower_taken g hp hs
    exact ⟨n, taken, fun hc => absurd hc (by decide), fun hc => absurd hc (by decide), fun _ => still, fun _ _ hc => absurd rfl hc⟩

end Sys2Proof.Machine
end

section
/-!
PROOF. The shares of the blocks at a RELOAD that is accepted, in the part after the record has been written back, and O33.
-/
set_option Elab.async false

namespace Sys2Proof.Machine

section
variable {s t : State} {g : Groups} {e : Exc}

/-- What is a part of the state but EXC and exchange memory is as the group left it. -/
theorem reloaded_fields {u : State} (only : t = { u with exc := e, mem := t.mem }) :
    t.srg = u.srg ∧ t.bfu = u.bfu ∧ t.drq = u.drq ∧ t.snd = u.snd ∧ t.smk = u.smk ∧ t.lgt = u.lgt ∧ t.exc = e := by
  rw [only]
  exact ⟨rfl, rfl, rfl, rfl, rfl, rfl, rfl⟩

theorem reloaded_voice {u : State} (h : t.snd = u.snd) (v : Fin 8) : t.voice v = u.voice v := congrArg (fun x : Snd => x.voices.get v) h

theorem reloaded_chan {u : State} (h : t.bfu = u.bfu) (m : Motor) : t.chan m = u.chan m := congrArg (fun x : Bfu => x.chans.get m) h

/-- TRACTION (R65, R78, R84). -/
theorem reloaded_traction (ht : s.exc.part.takesCues = true) {n : BitVec 15} (calm : ¬ s.polarityTrips g → n = 0)
    (trip : s.polarityTrips g → n = 0x80) (only : t = { (s.holdScan false).reloadTraction g with exc := e, mem := t.mem }) :
    t = { s with exc := t.exc, mem := t.mem, cfg := g, srg := t.srg, bfu := t.bfu }
    ∧ (let trips := s.exc.part = .running ∧ s.bfu.drvflt = some g.traction.polarity ∧ s.bfu.trip = .none
      (¬ trips → n ||| 1 = 1
        ∧ t.srg = { s.srg with motors := t.srg.motors, regTimer := s.exc.part == .running }
        ∧ t.bfu = { s.bfu with chans := t.bfu.chans, slipRun := 0 }
        ∧ ∀ m, g.traction.present m = true → t.srg.motors.get m = { s.srg.motors.get m with i := 0, sat := .zero })
      ∧ (trips → n ||| 1 = 0x81
        ∧ t.srg = { s.srg with
            traction := .tripped, r := 0, brakeOrder := false, turnTimer := none, turnMark := false, regTimer := true,
            motors := t.srg.motors }
        ∧ t.bfu = { s.bfu with chans := t.bfu.chans, trip := .driver, slip := .normal, slipRun := 0, faster := none }
        ∧ ∀ m, (g.traction.present m = true →
            t.srg.motors.get m = { s.srg.motors.get m with i := 0, sat := .zero, d := 0 })
          ∧ (t.chan m).mode = .off ∧ (t.chan m).duty = 0 ∧ (t.chan m).raised = none ∧ (t.chan m).avg = 0
          ∧ (t.chan m).conducts = false))
    ∧ ∀ m, (g.traction.present m = false → t.srg.motors.get m = {} ∧ (t.chan m).mode = .off ∧ (t.chan m).duty = 0
          ∧ (t.chan m).avg = 0)
      ∧ (t.chan m).persist = 0 ∧ (t.chan m).cbcMark = false
      ∧ (t.chan m).pos = if s.exc.part = .running then some 0 else none := by
  have frame := State.reloadTraction_only (s := s.holdScan false) g ht
  have quiet := fun h => State.reloadTraction_quiet (s := s.holdScan false) g ht h
  have tripped := fun h => State.reloadTraction_tripped (s := s.holdScan false) g ht h
  have motors := State.reloadTraction_motors (s := s.holdScan false) g ht
  generalize (s.holdScan false).reloadTraction g = u at only frame quiet tripped motors
  obtain ⟨srg, bfu, -, -, -, -, -⟩ := reloaded_fields only
  have chan := reloaded_chan bfu
  refine ⟨?_, ⟨fun h => ?_, fun h => ?_⟩, fun m => ?_⟩
  · rw [srg, bfu]
    refine only.trans ?_
    rw [only]
    dsimp only
    generalize u.srg = y1 at frame ⊢
    generalize u.bfu = y2 at frame ⊢
    generalize u.exc = y3 at frame
    rw [frame]
    rfl
  · obtain ⟨-, hsrg, hbfu, present⟩ := quiet h
    rw [srg, bfu, calm h]
    exact ⟨rfl, hsrg, hbfu, present⟩
  · obtain ⟨-, hsrg, hbfu, each⟩ := tripped h
    simp only [srg, bfu, chan, trip h]
    exact ⟨rfl, hsrg, hbfu, each⟩
  · rw [srg, chan]
    exact motors m

/-- S from its origin, halved by SHUNT (R25). -/
theorem deriveS_eq (points : List Nat) (o : Origin) (shunt : Bool) : deriveS points o shunt
    = (match o with | .speedUnits su => su | .throttle x => curveValue points x) / (if shunt then 2 else 1) := by
  unfold deriveS Origin.base
  cases shunt with
  | true => cases o <;> rfl
  | false => cases o <;> exact (Nat.div_one _).symm

/-- CURVE (R25, R27). -/
theorem reloaded_curve (only : t = { (s.holdScan false).reloadCurve g with exc := e, mem := t.mem }) :
    t = { s with exc := t.exc, mem := t.mem, cfg := g, drq := { s.drq with
      s := (match s.drq.origin with | .speedUnits su => su | .throttle x => curveValue g.curve x) / (if s.drq.shunt then 2 else 1) } } := by
  rw [← deriveS_eq]
  have exc : t.exc = e := by rw [only]
  rw [exc]
  exact only

/-- FUNCTIONS (R25, R39, R41, R113, R136). -/
theorem reloaded_functions (hp : e.part = s.exc.part) (ha : e.adoption = s.exc.adoption)
    (only : t = { (s.holdScan false).reloadFunctions g with exc := e, mem := t.mem }) :
    let bound := fun x : Target => ∃ k < 32, s.drq.functions.getLsbD k = true ∧ x ∈ g.map.getD k []
    t = { s with exc := t.exc, mem := t.mem, cfg := g, drq := t.drq, smk := t.smk, snd := t.snd }
    ∧ t.drq = { s.drq with
        smokeEnable := t.drq.smokeEnable, mute := t.drq.mute, shunt := t.drq.shunt, momentumOff := t.drq.momentumOff,
        s := t.drq.s }
    ∧ (t.drq.smokeEnable = true ↔ bound .smoke) ∧ (t.drq.mute = true ↔ bound .mute) ∧ (t.drq.shunt = true ↔ bound .shunt)
    ∧ (t.drq.momentumOff = true ↔ bound .momentumOff)
    ∧ t.drq.s = (if t.drq.shunt = s.drq.shunt then s.drq.s
        else (match s.drq.origin with | .speedUnits su => su | .throttle x => curveValue g.curve x)
          / (if t.drq.shunt then 2 else 1))
    ∧ (t.drq.smokeEnable = s.drq.smokeEnable → t.smk = s.smk)
    ∧ (t.drq.smokeEnable ≠ s.drq.smokeEnable →
        SmokeEvaluated { t with smk := { s.smk with enable := t.drq.smokeEnable } } t)
    ∧ t.snd = { s.snd with mute := t.snd.mute, cap := t.snd.cap }
    ∧ (t.drq.mute = s.drq.mute → t.snd.mute = s.snd.mute ∧ t.snd.cap = s.snd.cap)
    ∧ (t.drq.mute ≠ s.drq.mute → t.snd.mute = t.drq.mute
        ∧ t.snd.cap = min (supplyCap g.power s.sup.state) (if t.drq.mute then 0 else 255)) := by
  intro bound
  have levels := (s.holdScan false).reloadFunctions_taken g
  generalize (s.holdScan false).reloadFunctions g = u at only levels
  obtain ⟨lonly, ldrq, lsmk, lmute, lcap⟩ := levels
  obtain ⟨-, -, drq, snd, smk, -, exc⟩ := reloaded_fields only
  have tdrq : t.drq = _ := drq.trans ldrq
  have smoke : t.drq.smokeEnable = levelOn g s.drq.functions .smoke := by rw [tdrq]; rfl
  have mute : t.drq.mute = levelOn g s.drq.functions .mute := by rw [tdrq]; rfl
  have shunt : t.drq.shunt = levelOn g s.drq.functions .shunt := by rw [tdrq]; rfl
  have momentum : t.drq.momentumOff = levelOn g s.drq.functions .momentumOff := by rw [tdrq]; rfl
  have usnd : u.snd = { s.snd with mute := u.snd.mute, cap := u.snd.cap } := congrArg State.snd lonly
  rw [smoke, mute, shunt, momentum]
  have frame : t = { s with exc := e, mem := t.mem, cfg := g, drq := t.drq, smk := t.smk, snd := t.snd } := by
    have lonly : u = { s.holdScan false with
      cfg := g, drq := u.drq, smk := u.smk, snd := { s.snd with mute := u.snd.mute, cap := u.snd.cap } } := lonly
    rw [← usnd] at lonly
    rw [drq, smk, snd]
    refine only.trans ?_
    generalize t.mem = y0
    generalize u.drq = y1 at lonly ⊢
    generalize u.smk = y2 at lonly ⊢
    generalize u.snd = y3 at lonly ⊢
    rw [lonly]
    rfl
  refine ⟨?_, ?_, levelOn_iff _ _ _, levelOn_iff _ _ _, levelOn_iff _ _ _, levelOn_iff _ _ _, ?_, fun h => ?_, fun h => ?_, ?_, fun h => ?_, fun h => ?_⟩
  · rw [exc]
    exact frame
  · rw [tdrq]
    rfl
  · rw [← deriveS_eq, tdrq]
    rfl
  · rw [smk, lsmk]
    exact if_pos h
  · have evaluated := State.evalSmoke_spec { s with cfg := g, smk := { s.smk with enable := levelOn g s.drq.functions .smoke } }
    refine evaluated.of rfl (by rw [frame]) (by rw [frame]) ?_ ?_
    · unfold State.haltedLike
      dsimp only
      rw [exc, hp, ha]
    · have out : t.smk = ({ s with cfg := g, smk := { s.smk with enable := levelOn g s.drq.functions .smoke } } : State).evalSmoke.smk := by
        rw [smk, lsmk]
        exact if_neg h
      rw [← out]
  · rw [snd]
    exact usnd
  · rw [snd]
    exact lmute h
  · rw [snd]
    exact lcap h

/-- SOUND (R127, R132). -/
theorem reloaded_sound (only : t = { (s.holdScan false).reloadSound g with exc := e, mem := t.mem }) :
    t = { s with exc := t.exc, mem := t.mem, cfg := g, snd := t.snd } ∧ t.snd.master = g.sound.master
    ∧ (g.sound.bgClip = none → t.snd.queue = s.snd.queue
        ∧ t.voice 1 = (if (s.voice 1).active then {} else s.voice 1) ∧ ∀ v, v ≠ 1 → t.voice v = s.voice v)
    ∧ (∀ clip, g.sound.bgClip = some clip → t.snd.voices = s.snd.voices
        ∧ t.snd.queue = if s.exc.part = .running ∧ (s.sup.state = .normal ∨ s.sup.state = .lean) ∧ s.snd.queue.length < 32
          then s.snd.queue ++
            [{ cls := .background, asker := .background, clip := clip, pitch := 256, volume := g.sound.bgVolume,
               priority := 0, tag := 0, loop := true }]
          else s.snd.queue) := by
  cases h : g.sound.bgClip with
  | some clip =>
    rw [State.reloadSound_some h] at only
    obtain ⟨-, -, -, snd, -, -, exc⟩ := reloaded_fields only
    refine ⟨?_, by rw [snd], fun hc => absurd hc (by simp), fun c hc => ?_⟩
    · rw [snd, exc]
      exact only
    · obtain rfl := Option.some.inj hc
      rw [snd]
      exact ⟨rfl, rfl⟩
  | none =>
    rw [State.reloadSound_none h] at only
    obtain ⟨u, hu⟩ : ∃ u, ({ s.holdScan false with cfg := g, snd := { s.snd with master := g.sound.master } } : State) = u := ⟨_, rfl⟩
    have only : t = { u.endVoice 1 .cut with exc := e, mem := t.mem } := by
      rw [← hu]
      exact only
    obtain ⟨-, -, -, snd, -, -, exc⟩ := reloaded_fields only
    have voice : ∀ v, u.voice v = s.voice v := fun v => by rw [← hu]; rfl
    have sound := u.endVoice_sound 1 .cut
    have usnd : u.snd = { s.snd with master := g.sound.master } := by rw [← hu]
    refine ⟨?_, ?_, fun _ => ⟨?_, ?_, fun v hv => ?_⟩, fun c hc => absurd hc (by simp)⟩
    · rw [snd, exc]
      refine only.trans ?_
      rw [(u.endVoice_soundOnly 1 .cut).withExcMem, ← hu]
      rfl
    · rw [snd, sound, usnd]
    · rw [snd, sound, usnd]
    · rw [reloaded_voice snd, ← voice 1]
      cases ha : (u.voice 1).active with
      | true =>
        show ((u.endVoice 1 .cut).snd.voices).get 1 = _
        rw [(State.endVoice_ended .cut ha).2.1, Octet.get_set_self]
        rfl
      | false =>
        rw [State.endVoice_free .cut ha]
        rfl
    · rw [reloaded_voice snd, ← voice v]
      cases ha : (u.voice 1).active with
      | true =>
        show ((u.endVoice 1 .cut).snd.voices).get v = _
        rw [(State.endVoice_ended .cut ha).2.1, Octet.get_set_if, if_neg hv]
        rfl
      | false => rw [State.endVoice_free .cut ha]

/-- CHUFF (R85, R97). -/
theorem reloaded_chuff (only : t = { (s.holdScan false).reloadChuff g with exc := e, mem := t.mem }) :
    t = { s with exc := t.exc, mem := t.mem, cfg := g, chk := { s.chk with
      prescale := 0, capture := none, lostTimer := none,
      source := if g.chuff.mode = .virtual then .virtual else .sensorLive,
      next := if g.chuff.perCycle ≤ s.chk.next then 0 else s.chk.next } } := by
  have source : (if g.chuff.mode = .virtual then .virtual else .sensorLive : SourceState) = g.chuff.mode.initial := by
    cases g.chuff.mode <;> rfl
  have exc : t.exc = e := by rw [only]
  rw [source, exc]
  exact only

/-- SMOKE (R136, R141, R146). -/
theorem reloaded_smoke (only : t = { (s.holdScan false).reloadSmoke g with exc := e, mem := t.mem }) :
    t = { s with exc := t.exc, mem := t.mem, cfg := g, smk := t.smk }
    ∧ t.smk = { ({ s with cfg := g, smk := { s.smk with
        fault := false, hot := false, fluid := min s.smk.fluid g.smoke.capacity } }.evalSmoke).smk with fan := t.smk.fan }
    ∧ (t.smk.state = .ready → t.smk.puff = none → t.smk.fan = g.smoke.idle) := by
  obtain ⟨-, -, -, -, smk, -, exc⟩ := reloaded_fields only
  refine ⟨?_, ?_, ?_⟩
  · rw [smk, exc]
    exact only
  · rw [smk]
    rfl
  · rw [smk]
    intro hr hp
    refine (State.idleFan_fan _).trans (if_pos ⟨hr, ?_⟩)
    exact Option.isNone_iff_eq_none.mpr hp

/-- LIGHTS (R157). -/
theorem reloaded_lights (only : t = { (s.holdScan false).reloadLights g with exc := e, mem := t.mem }) :
    t = { s with exc := t.exc, mem := t.mem, cfg := g, lgt := { s.lgt with lamps := t.lgt.lamps } }
    ∧ ∀ k, let l := s.lgt.lamps.get k
      let e := (g.lights.get k).effect
      t.lgt.lamps.get k = { l with phase := 0, fade := (t.lgt.lamps.get k).fade, flash := (t.lgt.lamps.get k).flash }
      ∧ ((∃ x y, e = .fade x y) → (t.lgt.lamps.get k).fade = l.fade) ∧ ((∀ x y, e ≠ .fade x y) → (t.lgt.lamps.get k).fade = 0)
      ∧ ((∃ x y, e = .chuffFlash x y) → (t.lgt.lamps.get k).flash = l.flash)
      ∧ ((∀ x y, e ≠ .chuffFlash x y) → (t.lgt.lamps.get k).flash = 0) := by
  obtain ⟨-, -, -, -, -, lgt, exc⟩ := reloaded_fields only
  refine ⟨?_, fun k => ?_⟩
  · rw [lgt, exc]
    exact only
  · have lamp : t.lgt.lamps.get k = (s.lgt.lamps.get k).reload (g.lights.get k) := by
      rw [lgt]
      exact Octet.get_ofFn _ k
    rw [lamp]
    exact Lamp.reload_spec _ _

/-- RADIO (R172). -/
theorem reloaded_radio (only : t = { (s.holdScan false).reloadRadio g with exc := e, mem := t.mem }) :
    (s.rrx.holder = none → t = { s with exc := t.exc, mem := t.mem, cfg := g })
    ∧ (s.rrx.holder ≠ none → t = { s with
      exc := t.exc, mem := t.mem, cfg := g, rrx := { s.rrx with holder := none, failsafe := none },
      drq := if s.drq.source = .radio then { s.drq with source := .failsafe, origin := .speedUnits 0, s := 0 } else s.drq }) := by
  obtain ⟨free, held⟩ := (s.holdScan false).reloadRadio_spec g
  have exc : t.exc = e := by rw [only]
  rw [exc]
  refine ⟨fun h => ?_, fun h => ?_⟩
  · rw [free h] at only
    exact only
  · rw [held h] at only
    exact only

/-- POWER (R175, R180). -/
theorem reloaded_power (hp : s.exc.part ≠ .stopping) (hs : s.exc.scan = none) {n : BitVec 15}
    (taken : GroupTaken s ((s.holdScan false).reloadPower g) g n) (nlat : e.nlat = s.exc.nlat ||| (n ||| 1))
    (still : (s.sup.holdup.map fun x => min x g.power.holdTime) ≠ some 0 → n = 0)
    (only : t = { (s.holdScan false).reloadPower g with exc := e, mem := t.mem }) :
    let left := s.sup.holdup.map fun x => min x g.power.holdTime
    let u := { s with cfg := g, sup := { s.sup with lean := 0, recover := 0, loss := 0, ret := 0, holdup := left } }
    (left ≠ some 0 → n ||| 1 = 1 ∧ t = { u with exc := t.exc, mem := t.mem })
    ∧ (left = some 0 → ∃ v, exec .holdupTimerExpiry u = .next v ∧ t = { v with exc := t.exc, mem := t.mem }
        ∧ t.exc.nlat = v.exc.nlat ||| 1) := by
  intro left u
  obtain ⟨stays, expires⟩ := State.reloadPower_spec g hp hs
  have exc : t.exc = e := by rw [only]
  have hu : u = s.powerLoaded g := rfl
  clear_value u
  subst hu
  refine ⟨fun h => ?_, fun h => ?_⟩
  · rw [stays h] at only
    rw [still h, exc]
    exact ⟨rfl, only⟩
  · rw [expires h] at only taken
    have run : (s.powerLoaded g).sup.holdup.isSome = true := by
      rw [show (s.powerLoaded g).sup.holdup = some 0 from h]
      rfl
    have idle : (s.powerLoaded g).holdupExpires.exc.scan = none := by
      have kept := congrArg Exc.scan taken.exc
      exact kept.trans hs
    refine ⟨(s.powerLoaded g).holdupExpires, ?_, ?_, ?_⟩
    · show execHoldupTimerExpiry (s.powerLoaded g) = _
      rw [execHoldupTimerExpiry, if_pos run]
      exact finish_none idle
    · rw [exc]
      exact only
    · have notices := congrArg Exc.nlat taken.exc
      rw [exc, nlat, ← BitVec.or_assoc]
      exact congrArg (· ||| 1) notices.symm

end

/-- Settles O33: what a RELOAD cue is refused for, and each block's share at one that is accepted. -/
theorem reloads : Obligations.Reloads := by
  unfold Obligations.Reloads
  intro s r h hb hk n ok outcome refused
  have h0 : byteAt r 0 = 1 := congrArg BitVec.toNat hb
  have h1 : byteAt r 1 = 6 := congrArg BitVec.toNat hk
  have hp : s.exc.part ≠ .stopping := fun hc => by
    have := h.takes
    rw [hc] at this
    exact absurd this (by decide)
  refine ⟨fun hn => h.badGroup h0 h1 hn, fun hn hn' hok => h.notStanding h0 h1 hn hn' hok,
    fun index reason hn hn' hok hv => h.badConfig h0 h1 hn hn' hok hv, fun g hn hn' hok hv => ?_⟩
  obtain ⟨m, taken, calm, trip, still, quiet⟩ := reloadGroup_taken g hn hn' h.takes h.free
  obtain ⟨t, ht, only, written⟩ := h.reloaded h0 h1 hn hn' hok hv taken
  have exc : t.exc = s.cueExc (m ||| 1) := by rw [only]
  have group : byteAt r 6 = n := rfl
  rw [group] at only
  refine ⟨t, m ||| 1, ht, ?_, exc, ?_, fun h1 h4 h9 => ?_, ?_, written, fun hn => ?_, fun hn => ?_, fun hn => ?_, fun hn => ?_, fun hn => ?_,
    fun hn => ?_, fun hn => ?_, fun hn => ?_, fun hn => ?_⟩
  · rw [only]
    exact taken.cfg
  · rw [only]
    exact taken.port
  · rw [quiet h1 h4 h9]
    rfl
  · rw [BitVec.getLsbD_or]
    exact Bool.or_true _
  all_goals rw [hn] at only
  · exact reloaded_traction h.takes (calm hn) (trip hn) only
  · exact reloaded_curve only
  · exact reloaded_functions (e := s.cueExc (m ||| 1)) rfl rfl only
  · exact reloaded_sound only
  · exact reloaded_chuff only
  · exact reloaded_smoke only
  · exact reloaded_lights only
  · exact reloaded_radio only
  · rw [hn] at taken
    exact reloaded_power hp h.free taken rfl (still hn) only

end Sys2Proof.Machine
end

section
/-!
PROOF. The steps of acceptance of a checked frame (R162 to R166), for O58.
-/
set_option Elab.async false

namespace Sys2Proof.Machine

/-! ### Frame kinds (R168) -/

/-- The codes of a frame kind. -/
def FrameKind.codes (k : FrameKind) (n : Nat) : Prop :=
  match k with
  | .throttle => n = 1
  | .function => n = 2
  | .estop => n = 3
  | .release => n = 4
  | .sound => n = 5
  | .hostData => 16 ≤ n ∧ n ≤ 31

theorem frameKind_codes {x : Byte} {k : FrameKind} (h : k.codes x.toNat) : frameKind x = some k := by
  unfold frameKind
  cases k with
  | throttle | function | estop | release | sound =>
    rw [show x.toNat = _ from h]
    rfl
  | hostData =>
    obtain ⟨h16, h31⟩ : 16 ≤ x.toNat ∧ x.toNat ≤ 31 := h
    split
    case h_6 => exact if_pos ⟨h16, h31⟩
    all_goals omega

theorem frameKind_none {x : Byte} (h : x.toNat = 0 ∨ (5 < x.toNat ∧ ¬ (16 ≤ x.toNat ∧ x.toNat ≤ 31))) : frameKind x = none := by
  unfold frameKind
  split
  case h_6 => exact if_neg (by omega)
  all_goals omega

theorem codes_of_listed {n : Nat} (h : (1 ≤ n ∧ n ≤ 5) ∨ (16 ≤ n ∧ n ≤ 31)) : ∃ k : FrameKind, k.codes n := by
  have : n = 1 ∨ n = 2 ∨ n = 3 ∨ n = 4 ∨ n = 5 ∨ (16 ≤ n ∧ n ≤ 31) := by omega
  obtain h | h | h | h | h | h := this
  · exact ⟨.throttle, h⟩
  · exact ⟨.function, h⟩
  · exact ⟨.estop, h⟩
  · exact ⟨.release, h⟩
  · exact ⟨.sound, h⟩
  · exact ⟨.hostData, h⟩

/-- The payload's length and fields are ones that a kind's code allows (R164, R168). -/
def wellFormedPayload (n : Nat) (p : List Byte) : Prop :=
  (n = 1 ∧ p.length = 2 ∧ byteAt p 1 ≤ 2) ∨ (n = 2 ∧ p.length = 5 ∧ 1 ≤ byteAt p 0 ∧ byteAt p 0 ≤ 3)
  ∨ ((n = 3 ∨ n = 4) ∧ p.length = 0) ∨ (n = 5 ∧ p.length = 2 ∧ byteAt p 0 ≤ 15 ∧ byteAt p 1 ≤ 1)
  ∨ ((16 ≤ n ∧ n ≤ 31) ∧ p.length ≤ 16)

theorem wellFormed_iff {k : FrameKind} {n : Nat} {p : List Byte} (h : k.codes n) : wellFormedPayload n p ↔ payloadOk k p = true := by
  unfold wellFormedPayload payloadOk
  cases k with
  | throttle | function | estop | release | sound =>
    rw [show n = _ from h]
    simp [and_assoc]
  | hostData =>
    obtain ⟨h16, h31⟩ : 16 ≤ n ∧ n ≤ 31 := h
    simp only [decide_eq_true_eq]
    omega

theorem wellFormed_kind {n : Nat} {p : List Byte} (h : wellFormedPayload n p) : ∃ k : FrameKind, k.codes n ∧ payloadOk k p = true := by
  obtain ⟨k, hk⟩ := codes_of_listed (n := n) (by unfold wellFormedPayload at h; omega)
  exact ⟨k, hk, (wellFormed_iff hk).mp h⟩

/-! ### The address and the repeat table (R162, R163) -/

theorem viaGroup_iff (c : Radio) (f : Frame) : viaGroup c f = true ↔ 1 ≤ c.group ∧ f.target.toNat = 4095 + c.group := by
  unfold viaGroup Radio.groupAddress
  split
  · simp; omega
  · simp; omega

theorem addressPasses_iff (c : Radio) (f : Frame) : addressPasses c f = true ↔
    1 ≤ f.sender.toNat ∧ f.sender.toNat ≤ 65534
    ∧ (f.target = 0 ∨ f.target.toNat = c.unit ∨ (1 ≤ c.group ∧ f.target.toNat = 4095 + c.group)) := by
  unfold addressPasses
  rw [Bool.and_eq_true, Bool.or_eq_true, Bool.or_eq_true, viaGroup_iff, decide_eq_true_eq, beq_iff_eq, beq_iff_eq]
  simp only [and_assoc, or_assoc]

theorem repeatStep_repeats {t : Octet (Option RepeatEntry)} {id : Half} {seq : Byte} {now : Word} {i : Fin 8} {e : RepeatEntry}
    (hf : findEntry t id = some i) (he : t.get i = some e) (hs : e.seq = seq) (ha : (now - e.heard).toNat < 300) :
    repeatStep t id seq now = (true, t.set i (some ⟨id, seq, now⟩)) := by
  unfold repeatStep
  rw [hf]
  dsimp only
  rw [he, Option.any_some, beq_iff_eq.mpr hs, decide_eq_true ha]
  rfl

/-- A frame that is no repeat enters the table at its sender's entry, at a free one, or at the oldest (R163). -/
theorem repeatStep_enters {t : Octet (Option RepeatEntry)} {id : Half} {seq : Byte} {now : Word} {i : Fin 8}
    (h : (∃ e, findEntry t id = some i ∧ t.get i = some e ∧ (e.seq ≠ seq ∨ 300 ≤ (now - e.heard).toNat))
      ∨ (findEntry t id = none ∧ (freeEntry t = some i ∨ (freeEntry t = none ∧ i = oldestEntry t now)))) :
    repeatStep t id seq now = (false, t.set i (some ⟨id, seq, now⟩)) := by
  unfold repeatStep
  obtain ⟨e, hf, he, hn⟩ | ⟨hf, hn⟩ := h
  · rw [hf]
    dsimp only
    have fresh : (e.seq == seq && decide ((now - e.heard).toNat < 300)) = false := by
      simp only [Bool.and_eq_false_iff, beq_eq_false_iff_ne, decide_eq_false_iff_not, Nat.not_lt]
      exact hn
    rw [he, Option.any_some, fresh]
  · rw [hf]
    obtain hi | ⟨hi, rfl⟩ := hn <;> rw [hi]

/-! ### Rights and the holder (R165, R166) -/

/-- What a right allows of a kind's code. -/
theorem rightSuffices_iff {k : FrameKind} {n : Nat} (h : k.codes n) (hk : k ≠ .estop) (r : Rights) :
    rightSuffices k r = true ↔ ((16 ≤ n ∧ n ≤ 31) ∨ r = .drive ∨ (r = .functions ∧ (n = 2 ∨ n = 5))) := by
  cases k with
  | estop => exact absurd rfl hk
  | throttle | function | release | sound =>
    rw [show n = _ from h]
    cases r <;> simp [rightSuffices]
  | hostData => simp [rightSuffices, show 16 ≤ n ∧ n ≤ 31 from h]

/-- The bind step (R165). -/
theorem stepBind_spec {c : Radio} {id : Half} {k : FrameKind} (hk : k ≠ .estop) :
    (c.binds = [] → stepBind c id k = none)
    ∧ (c.binds ≠ [] → (c.binds.find? fun x => x.1 == id) = none → stepBind c id k = some .notBound)
    ∧ ∀ x, (c.binds.find? fun x => x.1 == id) = some x →
      stepBind c id k = if rightSuffices k x.2 then none else some .noRight := by
  have rights : c.binds ≠ [] → boundRights c id = (c.binds.find? fun x => x.1 == id).map (·.2) := fun h => by
    unfold boundRights
    split
    · next e => exact absurd e h
    · next e => rfl
  unfold stepBind
  rw [if_neg hk]
  refine ⟨fun h => ?_, fun h hf => ?_, fun x hx => ?_⟩
  · have : boundRights c id = some .drive := by rw [boundRights, h]
    rw [this]
    cases k <;> rfl
  · rw [rights h, hf]
    rfl
  · have h : c.binds ≠ [] := fun e => by
      rw [e] at hx
      exact absurd hx (by simp)
    rw [rights h, hx]
    rfl

/-! ### The steps together (R162) -/

section
variable {s : State} {f : Frame} {k : FrameKind} (hc : k.codes f.kind.toNat)
include hc

/-- In RUNNING, and in STOPPING for an ESTOP frame, a frame that is not broadcast, or may be, goes on to its payload (R164). -/
theorem State.accept_open (hp : s.exc.part = .running ∨ (s.exc.part = .stopping ∧ k = .estop))
    (hb : f.target ≠ 0 ∨ k = .estop ∨ k = .hostData) :
    (payloadOk k f.payload = false → s.accept f = .inl .badPayload)
    ∧ (payloadOk k f.payload = true →
      (∀ v, stepBind s.cfg.radio f.sender k = some v → s.accept f = .inl v)
      ∧ (∀ v, stepBind s.cfg.radio f.sender k = none → stepHolder s f.sender k = some v → s.accept f = .inl v)
      ∧ (stepBind s.cfg.radio f.sender k = none → stepHolder s f.sender k = none → s.accept f = .inr k)) := by
  have kind := frameKind_codes hc
  have part : stepPart s.exc.part (some k) = none := by
    obtain hp | ⟨hp, rfl⟩ := hp <;> rw [hp] <;> rfl
  have broadcast : stepBroadcast f (some k) = none := by
    unfold stepBroadcast
    rw [if_neg]
    rintro ⟨h0, h1, h2⟩
    obtain h | h | h := hb
    · exact h h0
    · exact h1 (congrArg some h)
    · exact h2 (congrArg some h)
  refine ⟨fun hw => ?_, fun hw => ⟨fun v hv => ?_, fun v hn hv => ?_, fun hn hn' => ?_⟩⟩
  · simp only [State.accept, kind, part, broadcast, hw, if_true]
  · simp [State.accept, kind, part, broadcast, hw, hv]
  · simp [State.accept, kind, part, broadcast, hw, hn, hv]
  · simp [State.accept, kind, part, broadcast, hw, hn, hn']

end

/-- HALTED refuses every frame, and STOPPING every one but ESTOP (R164). -/
theorem State.accept_inactive {s : State} {f : Frame}
    (h : s.exc.part = .halted ∨ (s.exc.part = .stopping ∧ frameKind f.kind ≠ some .estop)) : s.accept f = .inl .inactive := by
  have part : stepPart s.exc.part (frameKind f.kind) = some .inactive := by
    obtain hp | ⟨hp, hk⟩ := h <;> rw [hp]
    · rfl
    · exact if_neg hk
  simp only [State.accept, part]

/-- In RUNNING a broadcast of another kind than ESTOP and host data, and a frame of an unknown kind, are refused (R164). -/
theorem State.accept_running {s : State} {f : Frame} (hp : s.exc.part = .running) :
    (f.target = 0 → frameKind f.kind ≠ some .estop → frameKind f.kind ≠ some .hostData → s.accept f = .inl .notForBroadcast)
    ∧ (f.target ≠ 0 → frameKind f.kind = none → s.accept f = .inl .unknownKind) := by
  have part : stepPart s.exc.part (frameKind f.kind) = none := by rw [hp]; rfl
  refine ⟨fun ht he hd => ?_, fun ht hk => ?_⟩
  · have broadcast : stepBroadcast f (frameKind f.kind) = some .notForBroadcast := if_pos ⟨ht, he, hd⟩
    simp only [State.accept, part, broadcast]
  · have broadcast : stepBroadcast f (frameKind f.kind) = none := if_neg fun hc => ht hc.1
    rw [hk] at part broadcast
    simp only [State.accept, hk, part, broadcast]

end Sys2Proof.Machine
end

section
/-!
PROOF. What a checked frame does (R159 to R170), by its verdict and its kind, and O58.
-/
set_option Elab.async false

namespace Sys2Proof.Machine

/-! ### A checked frame (R160, R162, R163) -/

/-- The part once a checked frame has entered the repeat table, before its verdict. -/
def State.enteredFrame (s : State) (time : Nat) (b : BufferId) (bytes : List Byte) (i : Fin 8) : State :=
  let f := Frame.parse bytes
  { s with rrx := { s.heardFrame time b bytes with table := s.rrx.table.set i (some ⟨f.sender, f.seq, s.exc.ms⟩) } }

/-- The record of a frame with its verdict goes to the inbox writer (R170). -/
theorem State.judgedFrame_eq (s : State) (time : Nat) (b : BufferId) (bytes : List Byte) (i : Fin 8) (v : FrameVerdict) :
    s.judgedFrame time b bytes i v = (s.enteredFrame time b bytes i).toInbox (recordOf (Frame.parse bytes) v s.exc.ms) b := rfl

section
variable {s : State} {time bits : Nat} {bytes : List Byte} {b : BufferId}

/-- Signal strength and the holder heard (R160, R166). -/
theorem State.heard_eq (s : State) (time : Nat) (bytes : List Byte) (b : BufferId) :
    ({ s.endFrame time with rrx := { (s.endFrame time).rrx.setBuffer b (some bytes) with signal := (Frame.parse bytes).signal } } : State).refreshHolder
      (Frame.parse bytes).sender = { s with rrx := s.heardFrame time b bytes } := by
  have same : ({ s.endFrame time with rrx := { (s.endFrame time).rrx.setBuffer b (some bytes) with
      signal := (Frame.parse bytes).signal } } : State).isHolder (Frame.parse bytes).sender = s.isHolder (Frame.parse bytes).sender := by
    cases b <;> rfl
  unfold State.refreshHolder State.heardFrame
  dsimp only
  rw [same]
  cases h : s.isHolder (Frame.parse bytes).sender <;> cases b <;> rfl

theorem State.arrive_checked (hl : linkCheck bits bytes = none)
    (hp : s.exc.part = .running ∨ s.exc.part = .stopping ∨ s.exc.part = .halted) :
    let h : State := { s with rrx := s.heardFrame time b bytes }
    let f := Frame.parse bytes
    (s.endFrame time).arrive (.stored b) bits bytes = if addressPasses s.cfg.radio f then
        (let r := repeatStep s.rrx.table f.sender f.seq s.exc.ms
         let u : State := { h with rrx := { h.rrx with table := r.2 } }
         if r.1 then u.freeBuffer b else u.judgeFrame f b)
      else h.freeBuffer b := by
  intro h f
  have hears : ¬ (s.endFrame time).exc.part.hearsFrames = false := by
    rw [show (s.endFrame time).exc.part = s.exc.part from rfl, PartState.hearsFrames_of hp]
    decide
  show (s.endFrame time).arriveStored b bits bytes = _
  unfold State.arriveStored
  rw [if_neg hears, hl]
  have table : (s.heardFrame time b bytes).table = s.rrx.table := by
    cases b <;> rfl
  show State.checkedFrame _ f b = _
  unfold State.checkedFrame
  dsimp only
  rw [show State.refreshHolder _ f.sender = h from s.heard_eq time bytes b, show h.rrx.table = s.rrx.table from table]

end

/-- A checked frame that ends in buffer `b` of a part that hears frames, with no scan waiting (R160, R161). -/
structure FrameChecked (s : State) (bits : Nat) (bytes : List Byte) (b : BufferId) : Prop where
  scan  : s.exc.scan = none
  frame : s.rrx.frame = some (.stored b)
  link  : linkCheck bits bytes = none
  part  : s.exc.part = .running ∨ s.exc.part = .stopping ∨ s.exc.part = .halted

theorem FrameChecked.exec {s : State} {bits : Nat} {bytes : List Byte} {b : BufferId} (h : FrameChecked s bits bytes b) (time : Nat) :
    Machine.exec (.frameArrival time bits bytes) s = finish ((s.endFrame time).arrive (.stored b) bits bytes) := by
  show execFrameArrival time bits bytes s = _
  unfold execFrameArrival
  rw [h.frame]

theorem FrameChecked.dropped {s : State} {bits : Nat} {bytes : List Byte} {b : BufferId} (h : FrameChecked s bits bytes b) (time : Nat)
    (ha : addressPasses s.cfg.radio (Frame.parse bytes) = false) :
    Machine.exec (.frameArrival time bits bytes) s = .next { s with rrx := (s.heardFrame time b bytes).setBuffer b none } := by
  rw [h.exec, State.arrive_checked h.link h.part, ha, if_neg (by decide)]
  exact finish_none h.scan

theorem FrameChecked.repeated {s : State} {bits : Nat} {bytes : List Byte} {b : BufferId} (h : FrameChecked s bits bytes b) (time : Nat)
    (ha : addressPasses s.cfg.radio (Frame.parse bytes) = true) {i : Fin 8}
    (hr : repeatStep s.rrx.table (Frame.parse bytes).sender (Frame.parse bytes).seq s.exc.ms
      = (true, s.rrx.table.set i (some ⟨(Frame.parse bytes).sender, (Frame.parse bytes).seq, s.exc.ms⟩))) :
    Machine.exec (.frameArrival time bits bytes) s = .next { s with rrx := { (s.heardFrame time b bytes).setBuffer b none with
      table := s.rrx.table.set i (some ⟨(Frame.parse bytes).sender, (Frame.parse bytes).seq, s.exc.ms⟩) } } := by
  rw [h.exec, State.arrive_checked h.link h.part, ha, if_pos rfl]
  dsimp only
  rw [hr, if_pos rfl]
  refine (finish_none (s := State.freeBuffer { s with rrx := { s.heardFrame time b bytes with
    table := s.rrx.table.set i (some ⟨(Frame.parse bytes).sender, (Frame.parse bytes).seq, s.exc.ms⟩) } } b) h.scan).trans ?_
  cases b <;> rfl

/-- A checked frame addressed to the part that is no repeat, with its repeat table entry (R162, R163). -/
structure FrameEnters (s : State) (bits : Nat) (bytes : List Byte) (b : BufferId) (i : Fin 8) : Prop extends FrameChecked s bits bytes b where
  address : addressPasses s.cfg.radio (Frame.parse bytes) = true
  table   : repeatStep s.rrx.table (Frame.parse bytes).sender (Frame.parse bytes).seq s.exc.ms
    = (false, s.rrx.table.set i (some ⟨(Frame.parse bytes).sender, (Frame.parse bytes).seq, s.exc.ms⟩))

section
variable {s : State} {bits : Nat} {bytes : List Byte} {b : BufferId} {i : Fin 8} (h : FrameEnters s bits bytes b i) (time : Nat)
include h

theorem FrameEnters.judged :
    Machine.exec (.frameArrival time bits bytes) s = finish ((s.enteredFrame time b bytes i).judgeFrame (Frame.parse bytes) b) := by
  rw [h.exec, State.arrive_checked h.link h.part, h.address, if_pos rfl]
  dsimp only
  rw [h.table]
  rfl

/-- A frame that a step refuses is recorded with that step's verdict (R162, R170). -/
theorem FrameEnters.refused {v : FrameVerdict} (hv : (s.enteredFrame time b bytes i).accept (Frame.parse bytes) = .inl v) :
    Machine.exec (.frameArrival time bits bytes) s = .next (s.judgedFrame time b bytes i v) := by
  rw [h.judged time, State.judgeFrame, hv]
  exact finish_none h.scan

/-- A frame that every step passes acts, and is recorded (R169, R170). -/
theorem FrameEnters.acted {k : FrameKind} {u : State}
    (hv : (s.enteredFrame time b bytes i).accept (Frame.parse bytes) = .inr k)
    (hu : ((s.enteredFrame time b bytes i).dispatch (Frame.parse bytes) k).toInbox
      (recordOf (Frame.parse bytes) (dispatchVerdict k) s.exc.ms) b = u) (hus : u.exc.scan = none) :
    Machine.exec (.frameArrival time bits bytes) s = .next u := by
  rw [h.judged time, State.judgeFrame, hv, ← hu]
  rw [← hu] at hus
  exact finish_none hus

end

/-! ### The acts of the kinds and the record (R169, R170) -/

/-- The part with one more record for the inbox writer is the part with another EXC. -/
theorem State.toInbox_eq (s : State) (r : InboxRecord) (b : BufferId) :
    s.toInbox r b = s.withExc { s.exc with inboxQueue := s.exc.inboxQueue ++ [⟨r, b⟩] } := rfl

theorem RequestTaken.recorded {s t : State} (h : RequestTaken s t) (r : InboxRecord) (b : BufferId) :
    RequestTaken (s.toInbox r b) (t.toInbox r b) := by
  refine ⟨fun hn => by rw [h.1 hn], fun hl hz => ?_⟩
  have c := h.2 hl hz
  refine ⟨?_, c.chuff, c.rest, c.slip, c.kept, c.held, c.clear, c.again⟩
  have e := c.only
  unfold State.toInbox
  rw [e]

theorem State.modeOf_toInbox (s : State) (r : InboxRecord) (b : BufferId) (m : Motor) : (s.toInbox r b).modeOf m = s.modeOf m := rfl

theorem State.followModes_toInbox (s : State) (r : InboxRecord) (b : BufferId) :
    (s.toInbox r b).followModes = s.followModes.toInbox r b := by
  unfold State.followModes
  simp only [State.modeOf_toInbox]
  rw [show (s.toInbox r b).bfu = s.bfu from rfl]
  split <;> rfl

theorem State.brakeEntry_toInbox (s : State) (r : InboxRecord) (b : BufferId) :
    (s.toInbox r b).brakeEntry = s.brakeEntry.toInbox r b := by
  unfold State.brakeEntry
  rw [show (s.toInbox r b).srg = s.srg from rfl]
  split
  · exact State.followModes_toInbox { s with srg := { s.srg with traction := .eBrake } } r b
  · exact State.followModes_toInbox { s with srg := { s.srg with traction := .eBrake } } r b
  · exact State.followModes_toInbox (({ s with srg := { s.srg with traction := .eBrake } } : State).stopTurn) r b
  · rfl

theorem State.eStop_recorded (s : State) (r : InboxRecord) (b : BufferId) : s.eStop.toInbox r b = (s.toInbox r b).eStop := by
  have e := s.stopOrder.brakeEntry_toInbox r b
  unfold State.eStop
  rw [show (s.toInbox r b).stopOrder = s.stopOrder.toInbox r b from rfl, e]
  rfl

theorem State.functionOp_exc (s : State) (op : FunctionOp) (mask : BitVec 32) : (s.functionOp op mask).exc = s.exc := by
  have h := State.functionOp_withExc (s := s) (e := s.exc) rfl rfl op mask
  rw [show s.withExc s.exc = s from rfl] at h
  rw [h]
  rfl

theorem State.functionOp_recorded (s : State) (op : FunctionOp) (mask : BitVec 32) (r : InboxRecord) (b : BufferId) :
    (s.functionOp op mask).toInbox r b = (s.toInbox r b).functionOp op mask := by
  rw [State.toInbox_eq, State.toInbox_eq, State.functionOp_exc]
  exact (State.functionOp_withExc (s := s) (e := { s.exc with inboxQueue := s.exc.inboxQueue ++ [⟨r, b⟩] }) rfl rfl op mask).symm

theorem State.releaseTag_exc (s : State) (tag : Half) : (s.releaseTag tag).exc = s.exc := by
  have h := s.releaseTag_withExc s.exc tag
  rw [show s.withExc s.exc = s from rfl] at h
  rw [h]
  rfl

theorem State.releaseTag_recorded (s : State) (tag : Half) (r : InboxRecord) (b : BufferId) :
    (s.releaseTag tag).toInbox r b = (s.toInbox r b).releaseTag tag := by
  rw [State.toInbox_eq, State.toInbox_eq, State.releaseTag_exc]
  exact (s.releaseTag_withExc { s.exc with inboxQueue := s.exc.inboxQueue ++ [⟨r, b⟩] } tag).symm

/-! ### The holder step (R166) -/

theorem State.isHolder_iff (s : State) (id : Half) : s.isHolder id = true ↔ ∃ h, s.rrx.holder = some h ∧ h.id = id := by
  unfold State.isHolder
  cases s.rrx.holder with
  | none => simp
  | some h => simp

section
variable (s : State) (time : Nat) (b : BufferId) (bytes : List Byte) (i : Fin 8)

/-- The holder heard is the holder there was. -/
theorem State.enteredFrame_holder :
    (s.enteredFrame time b bytes i).isHolder (Frame.parse bytes).sender = s.isHolder (Frame.parse bytes).sender
    ∧ ((s.enteredFrame time b bytes i).rrx.holder = none ↔ s.rrx.holder = none) := by
  have holder : (s.enteredFrame time b bytes i).rrx.holder
      = if s.isHolder (Frame.parse bytes).sender then some ⟨(Frame.parse bytes).sender, s.exc.ms⟩ else s.rrx.holder := rfl
  unfold State.isHolder at *
  rw [holder]
  cases hh : s.rrx.holder with
  | none => simp
  | some x =>
    dsimp only
    by_cases hx : (x.id == (Frame.parse bytes).sender) = true
    · simp [hx]
    · simp [hx]

theorem stepHolder_throttle :
    (s.cfg.radio.hostLead = true → stepHolder (s.enteredFrame time b bytes i) (Frame.parse bytes).sender .throttle = some .hostGated)
    ∧ (s.cfg.radio.hostLead = false →
      (s.rrx.holder ≠ none → s.isHolder (Frame.parse bytes).sender = false →
        stepHolder (s.enteredFrame time b bytes i) (Frame.parse bytes).sender .throttle = some .notHolder)
      ∧ (s.rrx.holder = none ∨ s.isHolder (Frame.parse bytes).sender = true →
        stepHolder (s.enteredFrame time b bytes i) (Frame.parse bytes).sender .throttle = none)) := by
  obtain ⟨same, empty⟩ := s.enteredFrame_holder time b bytes i
  have cfg : (s.enteredFrame time b bytes i).cfg = s.cfg := rfl
  unfold stepHolder
  rw [same, cfg]
  simp only [Option.isNone_iff_eq_none, empty]
  refine ⟨fun hl => if_pos hl, fun hl => ⟨fun hn hh => ?_, fun hh => ?_⟩⟩
  · rw [hl, if_neg (by decide), if_neg (by simp [hn, hh])]
  · rw [hl, if_neg (by decide), if_pos hh]

theorem stepHolder_release :
    stepHolder (s.enteredFrame time b bytes i) (Frame.parse bytes).sender .release
      = if s.isHolder (Frame.parse bytes).sender then none else some .notHolder := by
  unfold stepHolder
  rw [(s.enteredFrame_holder time b bytes i).1]

/-! ### A THROTTLE frame (R166, R169) -/

/-- The sender takes or keeps the holder's place. -/
theorem State.enteredFrame_hears (hh : s.rrx.holder = none ∨ s.isHolder (Frame.parse bytes).sender = true) :
    (if (s.enteredFrame time b bytes i).rrx.holder.isNone then (s.enteredFrame time b bytes i).hearHolder (Frame.parse bytes).sender
      else s.enteredFrame time b bytes i) = { s.enteredFrame time b bytes i with rrx := { (s.enteredFrame time b bytes i).rrx with
        holder := some ⟨(Frame.parse bytes).sender, s.exc.ms⟩, failsafe := some s.cfg.radio.failsafe } } := by
  obtain ⟨-, empty⟩ := s.enteredFrame_holder time b bytes i
  rcases hh with hn | hh
  · rw [if_pos (Option.isNone_iff_eq_none.mpr (empty.mpr hn))]
    rfl
  · have holder : (s.enteredFrame time b bytes i).rrx.holder = some ⟨(Frame.parse bytes).sender, s.exc.ms⟩ := if_pos hh
    have failsafe : (s.enteredFrame time b bytes i).rrx.failsafe = some s.cfg.radio.failsafe := if_pos hh
    rw [holder, if_neg (by simp), ← holder, ← failsafe]

end

/-- The direction that a THROTTLE frame hands on, turned via the group address with group reverse (R169). -/
theorem throttleDirection_spec (c : Radio) (f : Frame) (d : Direction) :
    let turned := c.groupReverse = true ∧ 1 ≤ c.group ∧ f.target.toNat = 4095 + c.group
    let p := byteAt f.payload 1
    ((p = 0 ∧ ¬ turned) ∨ (p = 1 ∧ turned) → directionOf (throttleDirection c f) d = .forward)
    ∧ ((p = 1 ∧ ¬ turned) ∨ (p = 0 ∧ turned) → directionOf (throttleDirection c f) d = .reverse)
    ∧ (p = 2 → directionOf (throttleDirection c f) d = d) := by
  intro turned p
  have turns : (c.groupReverse = true ∧ viaGroup c f = true) ↔ turned := by rw [viaGroup_iff]
  have code : throttleDirection c f = if turned then (if p = 0 then 1 else if p = 1 then 0 else p) else p := by
    unfold throttleDirection
    dsimp only
    by_cases h : turned
    · rw [if_pos h, if_pos (turns.mpr h)]
    · rw [if_neg h, if_neg fun hc => h (turns.mp hc)]
  rw [code]
  refine ⟨fun hp => ?_, fun hp => ?_, fun hp => ?_⟩
  · rcases hp with ⟨hp, h⟩ | ⟨hp, h⟩
    · rw [if_neg h, hp]
      rfl
    · rw [if_pos h, hp]
      rfl
  · rcases hp with ⟨hp, h⟩ | ⟨hp, h⟩
    · rw [if_neg h, hp]
      rfl
    · rw [if_pos h, hp]
      rfl
  · rw [hp]
    split <;> rfl

section
variable {s : State} {bits : Nat} {bytes : List Byte} {b : BufferId} {i : Fin 8} (h : FrameEnters s bits bytes b i) (time : Nat)
include h

/-- The request of a THROTTLE frame taken, and its sender the holder (R29, R166, R169). -/
theorem FrameEnters.throttles (hp : s.exc.part = .running)
    (hv : (s.enteredFrame time b bytes i).accept (Frame.parse bytes) = .inr .throttle)
    (hh : s.rrx.holder = none ∨ s.isHolder (Frame.parse bytes).sender = true) :
    ∃ t, Machine.exec (.frameArrival time bits bytes) s = .next t
      ∧ RequestTaken { s.judgedFrame time b bytes i .acted with
          rrx := { (s.judgedFrame time b bytes i .acted).rrx with
            holder := some ⟨(Frame.parse bytes).sender, s.exc.ms⟩, failsafe := some s.cfg.radio.failsafe },
          drq := { s.drq with
            source := .radio, origin := .throttle (min (byteAt (Frame.parse bytes).payload 0) 200), dir := t.drq.dir,
            s := curveValue s.cfg.curve (min (byteAt (Frame.parse bytes).payload 0) 200) / (if s.drq.shunt then 2 else 1) } } t
      ∧ t.drq.dir = directionOf (throttleDirection s.cfg.radio (Frame.parse bytes)) s.drq.dir := by
  obtain ⟨x, hx⟩ : ∃ x, ({ s.enteredFrame time b bytes i with
      rrx := { (s.enteredFrame time b bytes i).rrx with
        holder := some ⟨(Frame.parse bytes).sender, s.exc.ms⟩, failsafe := some s.cfg.radio.failsafe },
      drq := { s.drq with
        source := .radio, origin := .throttle (min (byteAt (Frame.parse bytes).payload 0) 200),
        dir := directionOf (throttleDirection s.cfg.radio (Frame.parse bytes)) s.drq.dir,
        s := curveValue s.cfg.curve (min (byteAt (Frame.parse bytes).payload 0) 200) / (if s.drq.shunt then 2 else 1) } } : State) = x :=
    ⟨_, rfl⟩
  have acts : (s.enteredFrame time b bytes i).dispatch (Frame.parse bytes) .throttle = x.zeroRequest := by
    show State.dispatchThrottle _ _ = _
    unfold State.dispatchThrottle
    dsimp only
    rw [s.enteredFrame_hears time b bytes i hh, State.request, ← hx, ← deriveS_throttle]
    rfl
  have part : x.exc.part = .running := by
    rw [← hx]
    exact hp
  have scan : x.exc.scan = none := by
    rw [← hx]
    exact h.scan
  have only := State.zeroRequest_driveOnly (s := x) (by rw [part]; decide)
  have drq : x.zeroRequest.drq = x.drq := by rw [only]
  have idle : x.zeroRequest.exc.scan = none := by
    rw [only]
    exact scan
  have dir : x.drq.dir = directionOf (throttleDirection s.cfg.radio (Frame.parse bytes)) s.drq.dir := by rw [← hx]
  refine ⟨_, h.acted time hv (congrArg (State.toInbox · _ b) acts) idle, ?_, ?_⟩
  · have taken := (State.zeroRequest_taken part).recorded (recordOf (Frame.parse bytes) .acted s.exc.ms) b
    rw [show (x.zeroRequest.toInbox (recordOf (Frame.parse bytes) (dispatchVerdict .throttle) s.exc.ms) b).drq.dir
      = x.zeroRequest.drq.dir from rfl, drq, dir]
    rw [← hx] at taken ⊢
    exact taken
  · show x.zeroRequest.drq.dir = _
    rw [drq, dir]

/-- A FUNCTION frame is a function operation (R36, R169). -/
theorem FrameEnters.operates {op : FunctionOp} (hv : (s.enteredFrame time b bytes i).accept (Frame.parse bytes) = .inr .function)
    (ho : functionOpOf (byteAt (Frame.parse bytes).payload 0) = some op) :
    Machine.exec (.frameArrival time bits bytes) s
      = .next ((s.judgedFrame time b bytes i .acted).functionOp op (frameMask (Frame.parse bytes).payload)) := by
  have acts : (s.enteredFrame time b bytes i).dispatch (Frame.parse bytes) .function
      = (s.enteredFrame time b bytes i).functionOp op (frameMask (Frame.parse bytes).payload) := by
    simp only [State.dispatch, ho]
  have idle : ((s.judgedFrame time b bytes i .acted).functionOp op (frameMask (Frame.parse bytes).payload)).exc.scan = none := by
    rw [State.functionOp_exc]
    exact h.scan
  refine h.acted time hv ?_ idle
  rw [acts, State.functionOp_recorded]
  rfl

/-- An ESTOP frame is an e-stop (R33, R169). -/
theorem FrameEnters.stops (hv : (s.enteredFrame time b bytes i).accept (Frame.parse bytes) = .inr .estop) :
    Machine.exec (.frameArrival time bits bytes) s = .next (s.judgedFrame time b bytes i .acted).eStop := by
  refine h.acted time hv (State.eStop_recorded _ _ _) ?_
  have only := (State.eStop_taken (s.judgedFrame time b bytes i .acted)).only
  rw [only]
  exact h.scan

/-- A RELEASE frame of the holder frees it (R32, R169). -/
theorem FrameEnters.releases (hv : (s.enteredFrame time b bytes i).accept (Frame.parse bytes) = .inr .release) :
    Machine.exec (.frameArrival time bits bytes) s = .next { s.judgedFrame time b bytes i .acted with
      rrx := { (s.judgedFrame time b bytes i .acted).rrx with holder := none, failsafe := none },
      drq := if s.drq.source = .radio then { s.drq with source := .failsafe, origin := .speedUnits 0, s := 0 } else s.drq } := by
  refine h.acted time hv ?_ h.scan
  show State.toInbox (State.freeHolder _) _ b = _
  unfold State.freeHolder State.holderFreed
  dsimp only
  rw [show (s.enteredFrame time b bytes i).drq = s.drq from rfl]
  split <;> rfl

/-- A host data frame is recorded (R168, R169). -/
theorem FrameEnters.hands (hv : (s.enteredFrame time b bytes i).accept (Frame.parse bytes) = .inr .hostData) :
    Machine.exec (.frameArrival time bits bytes) s = .next (s.judgedFrame time b bytes i .forHost) :=
  h.acted time hv rfl h.scan

/-- A SOUND frame starts or ends its key (R123, R124, R169). -/
theorem FrameEnters.sounds (hv : (s.enteredFrame time b bytes i).accept (Frame.parse bytes) = .inr .sound) :
    let k := byteAt (Frame.parse bytes).payload 0
    (byteAt (Frame.parse bytes).payload 1 = 0 → (s.key k).clip = none →
      Machine.exec (.frameArrival time bits bytes) s = .next (s.judgedFrame time b bytes i .acted))
    ∧ (∀ clip, byteAt (Frame.parse bytes).payload 1 = 0 → (s.key k).clip = some clip → s.snd.queue.length < 32 →
      Machine.exec (.frameArrival time bits bytes) s = .next { s.judgedFrame time b bytes i .acted with
        snd := { s.snd with queue := s.snd.queue ++
          [{ cls := .pool, asker := .key, clip := clip, pitch := 256, volume := (s.key k).volume, priority := (s.key k).priority,
             tag := keyTag k, loop := (s.key k).mode == .hold }] } })
    ∧ (byteAt (Frame.parse bytes).payload 1 = 1 → (s.key k).mode = .hold → (s.key k).clip ≠ none →
      Machine.exec (.frameArrival time bits bytes) s = .next ((s.judgedFrame time b bytes i .acted).releaseTag (keyTag k)))
    ∧ (byteAt (Frame.parse bytes).payload 1 = 1 → (s.key k).mode ≠ .hold ∨ (s.key k).clip = none →
      Machine.exec (.frameArrival time bits bytes) s = .next (s.judgedFrame time b bytes i .acted)) := by
  intro k
  obtain ⟨u, hu⟩ : ∃ u, s.enteredFrame time b bytes i = u := ⟨_, rfl⟩
  have key : u.key k = s.key k := by rw [← hu]; rfl
  have queue : u.snd = s.snd := by rw [← hu]; rfl
  have starts : byteAt (Frame.parse bytes).payload 1 = 0 → (s.enteredFrame time b bytes i).dispatch (Frame.parse bytes) .sound = u.keyStart k := by
    intro h0
    rw [hu]
    exact if_pos h0
  have ends : byteAt (Frame.parse bytes).payload 1 = 1 → (s.enteredFrame time b bytes i).dispatch (Frame.parse bytes) .sound = u.keyEnd k := by
    intro h1
    rw [hu]
    exact if_neg (by omega)
  have record : u.toInbox (recordOf (Frame.parse bytes) (dispatchVerdict .sound) s.exc.ms) b = s.judgedFrame time b bytes i .acted := by
    rw [← hu]
    rfl
  refine ⟨fun h0 hc => ?_, fun clip h0 hc hq => ?_, fun h1 hm hc => ?_, fun h1 hm => ?_⟩
  · refine h.acted time hv ?_ h.scan
    rw [starts h0, State.keyStart, key, hc]
    exact record
  · refine h.acted time hv ?_ h.scan
    rw [starts h0, State.keyStart, key, hc, ← record]
    dsimp only
    rw [State.requestStart, if_neg (by rw [queue]; omega), queue]
    rfl
  · refine h.acted time hv ?_ ?_
    · rw [ends h1, State.keyEnd, key, if_pos ⟨hm, Option.isSome_iff_ne_none.mpr hc⟩, State.releaseTag_recorded, record]
    · rw [State.releaseTag_exc]
      exact h.scan
  · refine h.acted time hv ?_ h.scan
    rw [ends h1, State.keyEnd, key, if_neg ?_]
    · exact record
    · rintro ⟨hh, hc⟩
      rcases hm with hm | hm
      · exact hm hh
      · rw [hm] at hc
        exact absurd hc (by decide)

end

end Sys2Proof.Machine
end

section
/-!
PROOF. A checked frame by its verdict and its kind, put together (O58).
-/
set_option Elab.async false

namespace Sys2Proof.Machine

/-- The op and the mask of a FUNCTION frame (R36, R158, R168). -/
theorem functionFrame_spec {p : List Byte} (h : 1 ≤ byteAt p 0 ∧ byteAt p 0 ≤ 3) :
    ∃ op : FunctionOp, functionOpOf (byteAt p 0) = some op
      ∧ byteAt p 0 = (match op with | .set => 1 | .clear => 2 | .toggle => 3) := by
  have : byteAt p 0 = 1 ∨ byteAt p 0 = 2 ∨ byteAt p 0 = 3 := by omega
  obtain e | e | e := this <;> rw [e]
  · exact ⟨.set, rfl, rfl⟩
  · exact ⟨.clear, rfl, rfl⟩
  · exact ⟨.toggle, rfl, rfl⟩

theorem frameMask_toNat (p : List Byte) :
    (frameMask p).toNat = 2 ^ 24 * byteAt p 1 + 2 ^ 16 * byteAt p 2 + 2 ^ 8 * byteAt p 3 + byteAt p 4 := by
  have h1 := (p.getD 1 0).isLt
  have h2 := (p.getD 2 0).isLt
  have h3 := (p.getD 3 0).isLt
  have h4 := (p.getD 4 0).isLt
  rw [frameMask, BitVec.toNat_ofNat, beHalfAt, beHalfAt]
  simp only [byteAt, Nat.reduceAdd]
  omega

/-- The first half of O58: the first THROTTLE frame of a sender, written out. -/
theorem frameArrival_first {s : State} (time : Nat) {bits : Nat} {bytes : List Byte} {throttle dir : Byte} {i : Fin 8}
    (h : FrameEnters s bits bytes .one i) (hp : s.exc.part = .running) (hk : (Frame.parse bytes).kind = 1)
    (hpl : (Frame.parse bytes).payload = [throttle, dir]) (hd : dir.toNat ≤ 2) (ht : (Frame.parse bytes).target ≠ 0)
    (hg : s.cfg.radio.group = 0) (hb : s.cfg.radio.binds = []) (hl : s.cfg.radio.hostLead = false) (hh : s.rrx.holder = none)
    (he : s.srg.traction ≠ .eHeld) (htr : s.srg.traction ≠ .tripped) :
    ∃ t, exec (.frameArrival time bits bytes) s = .next t
      ∧ t = { s with rrx := t.rrx, drq := t.drq, exc := t.exc }
      ∧ t.rrx = { s.rrx with
          frame := none, lastEnd := some time, buf1 := some bytes, signal := (Frame.parse bytes).signal,
          holder := some ⟨(Frame.parse bytes).sender, s.exc.ms⟩, failsafe := some s.cfg.radio.failsafe,
          table := s.rrx.table.set i (some ⟨(Frame.parse bytes).sender, (Frame.parse bytes).seq, s.exc.ms⟩) }
      ∧ t.drq = { s.drq with
          source := .radio, origin := .throttle (min throttle.toNat 200),
          dir := if dir = 0 then .forward else if dir = 1 then .reverse else s.drq.dir,
          s := curveValue s.cfg.curve (min throttle.toNat 200) / (if s.drq.shunt then 2 else 1) }
      ∧ t.exc = { s.exc with inboxQueue := s.exc.inboxQueue ++ [⟨recordOf (Frame.parse bytes) .acted s.exc.ms, .one⟩] } := by
  have codes : FrameKind.throttle.codes (Frame.parse bytes).kind.toNat := by rw [hk]; rfl
  have p0 : byteAt (Frame.parse bytes).payload 0 = throttle.toNat := by rw [hpl]; rfl
  have p1 : byteAt (Frame.parse bytes).payload 1 = dir.toNat := by rw [hpl]; rfl
  have payload : payloadOk .throttle (Frame.parse bytes).payload = true := by
    rw [payloadOk, p1, hpl]
    simpa using hd
  have acts : (s.enteredFrame time .one bytes i).accept (Frame.parse bytes) = .inr .throttle :=
    (((State.accept_open (s := s.enteredFrame time .one bytes i) codes (.inl hp) (.inl ht)).2 payload).2.2 ((stepBind_spec (by decide)).1 hb)
      (((stepHolder_throttle s time .one bytes i).2 hl).2 (.inl hh)))
  obtain ⟨t, ht', taken, hdir⟩ := h.throttles time hp acts (.inl hh)
  have only := taken.1 (.inl ⟨he, htr⟩)
  have hdirection : t.drq.dir = if dir = 0 then .forward else if dir = 1 then .reverse else s.drq.dir := by
    rw [hdir]
    have code : throttleDirection s.cfg.radio (Frame.parse bytes) = dir.toNat := by
      unfold throttleDirection
      dsimp only
      rw [p1, if_neg]
      rintro ⟨-, via⟩
      have := (viaGroup_iff _ _).mp via
      omega
    rw [code, directionOf]
    have zero : dir.toNat = 0 ↔ dir = 0 := ⟨fun e => BitVec.eq_of_toNat_eq e, fun e => by rw [e]; rfl⟩
    have one : dir.toNat = 1 ↔ dir = 1 := ⟨fun e => BitVec.eq_of_toNat_eq e, fun e => by rw [e]; rfl⟩
    simp only [zero, one]
  have drq : t.drq = { s.drq with
      source := .radio, origin := .throttle (min (byteAt (Frame.parse bytes).payload 0) 200), dir := t.drq.dir,
      s := curveValue s.cfg.curve (min (byteAt (Frame.parse bytes).payload 0) 200) / (if s.drq.shunt then 2 else 1) } :=
    congrArg State.drq only
  have rrx := congrArg State.rrx only
  have exc := congrArg State.exc only
  refine ⟨t, ht', ?_, rrx, ?_, exc⟩
  · obtain ⟨rx, dq, changed⟩ : ∃ rx dq, t = { s.judgedFrame time .one bytes i .acted with rrx := rx, drq := dq } := ⟨_, _, only⟩
    rw [changed]
    rfl
  · rw [hdirection, p0] at drq
    exact drq

section
variable {s : State} {bits : Nat} {bytes : List Byte} {b : BufferId} {i : Fin 8} (h : FrameEnters s bits bytes b i) (time : Nat)
  {k : FrameKind} (hc : k.codes (Frame.parse bytes).kind.toNat) (hw : payloadOk k (Frame.parse bytes).payload = true)
  (hp : s.exc.part = .running ∨ (s.exc.part = .stopping ∧ k = .estop))
  (hb : (Frame.parse bytes).target ≠ 0 ∨ k = .estop ∨ k = .hostData)
include h hc hw hp hb

/-- A frame that the bind step refuses (R165). -/
theorem FrameEnters.unbound {v : FrameVerdict} (hv : stepBind s.cfg.radio (Frame.parse bytes).sender k = some v) :
    Machine.exec (.frameArrival time bits bytes) s = .next (s.judgedFrame time b bytes i v) :=
  h.refused time (((State.accept_open (s := s.enteredFrame time b bytes i) hc hp hb).2 hw).1 v hv)

/-- A frame that the holder step refuses (R166). -/
theorem FrameEnters.withheld {v : FrameVerdict} (hn : stepBind s.cfg.radio (Frame.parse bytes).sender k = none)
    (hv : stepHolder (s.enteredFrame time b bytes i) (Frame.parse bytes).sender k = some v) :
    Machine.exec (.frameArrival time bits bytes) s = .next (s.judgedFrame time b bytes i v) :=
  h.refused time (((State.accept_open (s := s.enteredFrame time b bytes i) hc hp hb).2 hw).2.1 v hn hv)

omit h in
theorem State.enteredFrame_accept (hn : stepBind s.cfg.radio (Frame.parse bytes).sender k = none)
    (hv : stepHolder (s.enteredFrame time b bytes i) (Frame.parse bytes).sender k = none) :
    (s.enteredFrame time b bytes i).accept (Frame.parse bytes) = .inr k :=
  ((State.accept_open (s := s.enteredFrame time b bytes i) hc hp hb).2 hw).2.2 hn hv

end

/-- No code belongs to two kinds. -/
theorem FrameKind.codes_unique {k k' : FrameKind} {x : Byte} (h : k.codes x.toNat) (h' : k'.codes x.toNat) : k = k' :=
  Option.some.inj ((frameKind_codes h).symm.trans (frameKind_codes h'))

theorem codes_of_frameKind {x : Byte} {k : FrameKind} (h : frameKind x = some k) : k.codes x.toNat := by
  by_cases hl : (1 ≤ x.toNat ∧ x.toNat ≤ 5) ∨ (16 ≤ x.toNat ∧ x.toNat ≤ 31)
  · obtain ⟨k', hk⟩ := codes_of_listed hl
    obtain rfl := Option.some.inj (h.symm.trans (frameKind_codes hk))
    exact hk
  · rw [frameKind_none (by omega)] at h
    exact absurd h (by simp)

/-- A sender with the right that a kind needs, and any sender of an ESTOP frame or without a bind table, passes the bind step (R165). -/
theorem stepBind_passes {c : Radio} {id : Half} {k : FrameKind} {y : Byte} (hc : k.codes y.toNat)
    (h : y.toNat = 3 ∨ c.binds = [] ∨ ∃ x, (c.binds.find? fun x => x.1 == id) = some x
      ∧ ((16 ≤ y.toNat ∧ y.toNat ≤ 31) ∨ x.2 = .drive ∨ (x.2 = .functions ∧ (y.toNat = 2 ∨ y.toNat = 5)))) : stepBind c id k = none := by
  by_cases hk : k = .estop
  · exact if_pos hk
  · rcases h with h | h | ⟨x, hx, he⟩
    · exact absurd (FrameKind.codes_unique (k' := .estop) hc h) hk
    · exact (stepBind_spec hk).1 h
    · rw [(stepBind_spec hk).2.2 x hx, if_pos ((rightSuffices_iff hc hk x.2).mpr he)]

/-- Settles O58: the first THROTTLE frame of a sender, and every frame by the first step that refuses it or by its kind. -/
theorem frameKinds : Obligations.FrameKinds := by
  unfold Obligations.FrameKinds
  refine ⟨?_, ?_⟩
  · intro s time bits bytes f throttle dir i hs hp hf hl e hk hpl hd h1 h2 hu ht hg hbinds hlead hh hfind hfree he htr
    subst e
    have address : addressPasses s.cfg.radio (Frame.parse bytes) = true := (addressPasses_iff _ _).mpr ⟨h1, h2, .inr (.inl ht)⟩
    have enters : FrameEnters s bits bytes .one i :=
      ⟨⟨hs, hf, hl, .inl hp⟩, address, repeatStep_enters (.inr ⟨hfind, .inl hfree⟩)⟩
    have target : (Frame.parse bytes).target ≠ 0 := fun hc => by
      rw [hc] at ht
      have : (0 : Half).toNat = 0 := rfl
      omega
    obtain ⟨t, ht', only, rrx, drq, exc⟩ := frameArrival_first time enters hp hk hpl hd target hg hbinds hlead hh he htr
    refine ⟨t, ht', only, rrx, drq, _, exc, rfl, rfl, hk, rfl, rfl, rfl, ?_, rfl, hpl⟩
    show (Frame.parse bytes).payload.length = 2
    rw [hpl]
    rfl
  · intro s time bits bytes b i hs hf hl hp f kind p c hostData viaGroup addressed repeats entered wellFormed bound enough holds outcome
      heard judged
    have checked : FrameChecked s bits bytes b := ⟨hs, hf, hl, hp⟩
    have passes : addressPasses s.cfg.radio f = true ↔ addressed := addressPasses_iff _ _
    refine ⟨fun ha => ?_, fun ha hr => ?_, fun ha hr => ?_⟩
    · exact checked.dropped time (by rw [← Bool.not_eq_true]; exact fun hc => ha (passes.mp hc))
    · obtain ⟨e, hfind, he, hseq, hage⟩ := hr
      exact checked.repeated time (passes.mpr ha) (repeatStep_repeats hfind he hseq hage)
    · have enters : FrameEnters s bits bytes b i := ⟨checked, passes.mpr ha, repeatStep_enters hr⟩
      have estop : frameKind f.kind = some .estop → kind = 3 := fun hk => codes_of_frameKind hk
      have data : frameKind f.kind = some .hostData → hostData := fun hk => codes_of_frameKind hk
      have running : (s.exc.part = .running ∨ (s.exc.part = .stopping ∧ kind = 3)) → kind ≠ 3 → s.exc.part = .running :=
        fun ho hk => ho.resolve_right fun h => hk h.2
      have part : (s.exc.part = .running ∨ (s.exc.part = .stopping ∧ kind = 3)) → ∀ k : FrameKind, k.codes kind →
          s.exc.part = .running ∨ (s.exc.part = .stopping ∧ k = .estop) := fun ho k hc =>
        ho.imp_right fun h => ⟨h.1, FrameKind.codes_unique (k' := .estop) hc h.2⟩
      have cast : (f.target ≠ 0 ∨ kind = 3 ∨ hostData) → ∀ k : FrameKind, k.codes kind → f.target ≠ 0 ∨ k = .estop ∨ k = .hostData :=
        fun ht k hc => ht.imp_right fun h => h.imp (fun h => FrameKind.codes_unique (k' := .estop) hc h)
          (fun h => FrameKind.codes_unique (k' := .hostData) hc h)
      refine ⟨fun hi => ?_, fun ho => ⟨fun ht hk hd => ?_, fun ht => ⟨fun hk => ?_, fun hk hw => ?_, fun hw => ?_⟩⟩⟩
      · refine enters.refused time (State.accept_inactive ?_)
        exact hi.imp_right fun h => ⟨h.1, fun hc => h.2 (estop hc)⟩
      · exact enters.refused time ((State.accept_running (s := s.enteredFrame time b bytes i) (running ho hk)).1 ht
          (fun hc => hk (estop hc)) (fun hc => hd (data hc)))
      · have target : f.target ≠ 0 := ht.resolve_right fun h => h.elim (fun h => by omega) fun h =>
          hk.elim (fun h0 => by have := h.1; omega) fun h5 => h5.2 h
        exact enters.refused time ((State.accept_running (s := s.enteredFrame time b bytes i) (running ho (by omega))).2 target
          (frameKind_none hk))
      · obtain ⟨k, hc⟩ := codes_of_listed hk
        have bad : payloadOk k f.payload = false := by
          rw [← Bool.not_eq_true]
          exact fun h => hw ((wellFormed_iff hc).mpr h)
        exact enters.refused time ((State.accept_open (s := s.enteredFrame time b bytes i) hc (part ho k hc) (cast ht k hc)).1 bad)
      · obtain ⟨k, hc, payload⟩ := wellFormed_kind hw
        have hpart := part ho k hc
        have hcast := cast ht k hc
        have holdsIff : s.isHolder f.sender = true ↔ holds := s.isHolder_iff f.sender
        refine ⟨fun hk hbinds hbound => ?_, fun x hk hx he => ?_, fun hbind => ?_⟩
        · have hk : k ≠ .estop := fun e => hk (by rw [e] at hc; exact hc)
          exact enters.unbound time hc payload hpart hcast ((stepBind_spec hk).2.1 hbinds hbound)
        · have hk : k ≠ .estop := fun e => hk (by rw [e] at hc; exact hc)
          refine enters.unbound time hc payload hpart hcast (((stepBind_spec hk).2.2 x hx).trans (if_neg ?_))
          exact fun h => he ((rightSuffices_iff hc hk x.2).mp h)
        · have passesBind := stepBind_passes hc hbind
          have acts := State.enteredFrame_accept (s := s) (b := b) (i := i) time hc payload hpart hcast passesBind
          have withheld := fun v hv => enters.withheld time hc payload hpart hcast (v := v) passesBind hv
          refine ⟨fun hk hlead => ?_, fun hk hlead hn hh => ?_, fun hk hlead hh => ?_, fun hk => ?_, fun hk => ?_,
            fun hk hh => ?_, fun hk hh => ?_, fun hk => ?_, fun hd => ?_⟩
          · obtain rfl := FrameKind.codes_unique (k' := .throttle) hc hk
            exact withheld _ ((stepHolder_throttle s time b bytes i).1 hlead)
          · obtain rfl := FrameKind.codes_unique (k' := .throttle) hc hk
            have other : s.isHolder f.sender = false := by
              rw [← Bool.not_eq_true, holdsIff]
              exact hh
            exact withheld _ (((stepHolder_throttle s time b bytes i).2 hlead).1 hn other)
          · intro turned forward reverse
            obtain rfl := FrameKind.codes_unique (k' := .throttle) hc hk
            have hh : s.rrx.holder = none ∨ s.isHolder f.sender = true := hh.imp_right holdsIff.mpr
            have run : s.exc.part = .running := hpart.resolve_right fun h => absurd h.2 (by decide)
            obtain ⟨t, ht, taken, hdir⟩ :=
              enters.throttles time run (acts (((stepHolder_throttle s time b bytes i).2 hlead).2 hh)) hh
            obtain ⟨fwd, rev, keep⟩ := throttleDirection_spec c f s.drq.dir
            exact ⟨t, ht, taken, fun hf => hdir.trans (fwd hf), fun hr => hdir.trans (rev hr), fun h2 => hdir.trans (keep h2)⟩
          · obtain rfl := FrameKind.codes_unique (k' := .function) hc hk
            have range : 1 ≤ byteAt f.payload 0 ∧ byteAt f.payload 0 ≤ 3 := by
              simp only [payloadOk, Bool.and_eq_true, decide_eq_true_eq] at payload
              exact ⟨payload.1.2, payload.2⟩
            obtain ⟨op, ho, code⟩ := functionFrame_spec range
            exact ⟨op, frameMask f.payload, enters.operates time (acts rfl) ho, code, frameMask_toNat f.payload⟩
          · obtain rfl := FrameKind.codes_unique (k' := .estop) hc hk
            exact ⟨_, enters.stops time (acts rfl), rfl, State.eStop_taken _⟩
          · obtain rfl := FrameKind.codes_unique (k' := .release) hc hk
            refine withheld _ ((stepHolder_release s time b bytes i).trans (if_neg ?_))
            exact fun h => hh (holdsIff.mp h)
          · obtain rfl := FrameKind.codes_unique (k' := .release) hc hk
            exact enters.releases time (acts ((stepHolder_release s time b bytes i).trans (if_pos (holdsIff.mpr hh))))
          · obtain rfl := FrameKind.codes_unique (k' := .sound) hc hk
            exact enters.sounds time (acts rfl)
          · obtain rfl := FrameKind.codes_unique (k' := .hostData) hc hd
            exact enters.hands time (acts rfl)

end Sys2Proof.Machine
end

section
/-!
PROOF. The checks of a configuration group (O21): the first that fails refuses the group, and what each index of TRACTION, CURVE, CHUFF and
POWER checks (R8, R27, R64, R67, R96, R179).
-/
set_option Elab.async false

namespace Sys2Proof.Machine

/-! ### The verdict (R8) -/

theorem firstFail_none {cs : List Check} (h : ∀ c ∈ cs, c.2 = none) : firstFail cs = none := by
  induction cs with
  | nil => rfl
  | cons c cs ih =>
    obtain ⟨i, v⟩ := c
    obtain rfl : v = none := h (i, v) List.mem_cons_self
    exact ih fun c hc => h c (List.mem_cons_of_mem _ hc)

theorem firstFail_some {before after : List Check} {index : Nat} {reason : GroupReason} (h : ∀ c ∈ before, c.2 = none) :
    firstFail (before ++ (index, some reason) :: after) = some (index, reason) := by
  induction before with
  | nil => rfl
  | cons c cs ih =>
    obtain ⟨i, v⟩ := c
    obtain rfl : v = none := h (i, v) List.mem_cons_self
    exact ih fun c hc => h c (List.mem_cons_of_mem _ hc)

theorem firstFail_eq_none {cs : List Check} (h : firstFail cs = none) : ∀ c ∈ cs, c.2 = none := by
  induction cs with
  | nil => exact fun c hc => absurd hc List.not_mem_nil
  | cons c cs ih =>
    obtain ⟨i, v⟩ := c
    cases v with
    | none =>
      intro c hc
      rcases List.mem_cons.mp hc with rfl | hc
      · rfl
      · exact ih h c hc
    | some r => exact absurd h (by simp [firstFail])

/-- A valid group has passed every check, and its values are those of its bytes (R8). -/
theorem validateGroup_passed {n : Nat} {bs : List Byte} {g g' : Groups} (h : validateGroup n bs g = .valid g') :
    (∀ c ∈ groupChecks n bs, c.2 = none) ∧ g' = parseGroup n bs g := by
  refine ⟨firstFail_eq_none ?_, validateGroup_valid h⟩
  unfold validateGroup verdictOf at h
  cases hf : firstFail (groupChecks n bs) with
  | none => rfl
  | some x =>
    rw [hf] at h
    cases h

/-! ### The check at an index -/

theorem inRange_spec (ok : Bool) : (ok = false → inRange ok = some .outOfRange) ∧ (ok = true → inRange ok = none) := by
  cases ok <;> simp [inRange]

theorem CheckedAt.of {n : Nat} {bs : List Byte} {i : Nat} {ok rel : Bool} {P Q : Prop} {r : GroupReason}
    (h : (groupChecks n bs)[i]? = some (i, rangeThen ok rel r)) (hp : ok = true ↔ P) (hq : rel = true ↔ Q) : CheckedAt n bs i P Q r := by
  refine ⟨_, h, fun hP => ?_, fun hP hQ => ?_, fun hP hQ => ?_⟩
  · rw [rangeThen, if_neg (fun e => hP (hp.mp e))]
  · rw [rangeThen, if_pos (hp.mpr hP), if_neg (fun e => hQ (hq.mp e))]
  · rw [rangeThen, if_pos (hp.mpr hP), if_pos (hq.mpr hQ)]

theorem RangedAt.of {n : Nat} {bs : List Byte} {i : Nat} {ok : Bool} {P : Prop}
    (h : (groupChecks n bs)[i]? = some (i, inRange ok)) (hp : ok = true ↔ P) : RangedAt n bs i P := by
  refine ⟨_, h, fun hP => ?_, fun _ hQ => absurd trivial hQ, fun hP _ => ?_⟩
  · rw [inRange, if_neg (fun e => hP (hp.mp e))]
  · rw [inRange, if_pos (hp.mpr hP)]

/-- An index that is never refused. -/
theorem RangedAt.always {n : Nat} {bs : List Byte} {i : Nat} (h : (groupChecks n bs)[i]? = some (i, none)) : RangedAt n bs i True :=
  ⟨_, h, fun hP => absurd trivial hP, fun _ hQ => absurd trivial hQ, fun _ _ => rfl⟩

/-- What an index of a group whose checks all pass has checked holds. -/
theorem CheckedAt.holds {n : Nat} {bs : List Byte} {i : Nat} {P Q : Prop} {r : GroupReason} (h : CheckedAt n bs i P Q r)
    (hv : ∀ c ∈ groupChecks n bs, c.2 = none) : P ∧ Q := by
  obtain ⟨v, hi, range, relation, -⟩ := h
  have none : v = .none := hv (i, v) (List.mem_of_getElem? hi)
  subst none
  have hP : P := Classical.byContradiction fun hc => absurd (range hc) (by simp)
  exact ⟨hP, Classical.byContradiction fun hc => absurd (relation hP hc) (by simp)⟩

theorem RangedAt.holds {n : Nat} {bs : List Byte} {i : Nat} {P : Prop} (h : RangedAt n bs i P)
    (hv : ∀ c ∈ groupChecks n bs, c.2 = none) : P := (CheckedAt.holds h hv).1

/-! ### The indexes of a group's parameters -/

/-- Blocks of one length, counted on from `a`. -/
theorem flatMap_range_blocks (a c N : Nat) :
    ((List.range N).flatMap fun n => (List.range c).map fun j => a + c * n + j) = (List.range (c * N)).map (a + ·) := by
  induction N with
  | zero => rfl
  | succ N ih =>
    rw [List.range_succ, List.flatMap_append, ih, Nat.mul_succ, List.range_add, List.map_append, List.flatMap_singleton, List.map_map]
    congr 1
    refine List.map_congr_left fun j _ => ?_
    show a + c * N + j = a + (c * N + j)
    omega

theorem map_fst_flatMap {f : Nat → List Check} {a c : Nat} (h : ∀ n, (f n).map Prod.fst = (List.range c).map fun j => a + c * n + j)
    (N : Nat) : ((List.range N).flatMap f).map Prod.fst = (List.range (c * N)).map (a + ·) := by
  rw [List.map_flatMap, ← flatMap_range_blocks]
  rw [List.flatMap_def, List.flatMap_def]
  exact congrArg List.flatten (List.map_congr_left fun n _ => h n)

theorem functionsChecks_indexes (bs : List Byte) : (functionsChecks bs).map Prod.fst = List.range 160 := by
  have block : ∀ n, (functionChecks bs n).map Prod.fst = (List.range 5).map fun j => 0 + 5 * n + j := fun n => by
    simp [functionChecks, List.range_succ]
  refine (map_fst_flatMap block 32).trans ?_
  simp

theorem soundChecks_indexes (bs : List Byte) : (soundChecks bs).map Prod.fst = List.range 188 := by
  have keys : ∀ k, (keyChecks bs k).map Prod.fst = (List.range 4).map fun j => 8 + 4 * k + j := fun k => by
    simp [keyChecks, List.range_succ]
    omega
  have sets : ∀ k, (setChecks bs k).map Prod.fst = (List.range 9).map fun j => 80 + 9 * k + j := fun k => by
    simp [setChecks, List.range_succ]
    omega
  have volumes : ((List.range 8).map fun b => ((72 + b, none) : Check)).map Prod.fst = (List.range 8).map (72 + ·) := by
    rw [List.map_map]
    rfl
  rw [soundChecks, List.map_append, List.map_append, List.map_append, map_fst_flatMap keys 16, map_fst_flatMap sets 12, volumes]
  rw [show 188 = 8 + 4 * 16 + 8 + 9 * 12 from rfl, List.range_add, List.range_add, List.range_add]
  rfl

theorem lightsChecks_indexes (bs : List Byte) : (lightsChecks bs).map Prod.fst = List.range 72 := by
  have block : ∀ n, (programChecks bs n).map Prod.fst = (List.range 9).map fun j => 0 + 9 * n + j := fun n => by
    simp [programChecks, List.range_succ]
  refine (map_fst_flatMap block 8).trans ?_
  simp

/-- The indexes are checked in ascending order, none left out. -/
theorem groupChecks_indexes (n : Nat) (bs : List Byte) (h : 1 ≤ n) (h' : n ≤ 9) :
    (groupChecks n bs).map Prod.fst = List.range ([0, 26, 11, 160, 188, 8, 44, 72, 13, 13].getD n 0) := by
  have : n = 1 ∨ n = 2 ∨ n = 3 ∨ n = 4 ∨ n = 5 ∨ n = 6 ∨ n = 7 ∨ n = 8 ∨ n = 9 := by omega
  obtain rfl | rfl | rfl | rfl | rfl | rfl | rfl | rfl | rfl := this
  case inr.inr.inl => exact functionsChecks_indexes bs
  case inr.inr.inr.inl => exact soundChecks_indexes bs
  case inr.inr.inr.inr.inr.inr.inl => exact lightsChecks_indexes bs
  all_goals rfl

/-! ### TRACTION (R64, R67) -/

theorem tractionChecks_at (bs : List Byte) :
    let p := fun i => halfAt bs (2 * i)
    RangedAt 1 bs 0 (1 ≤ p 0 ∧ p 0 ≤ 2) ∧ RangedAt 1 bs 1 (p 1 = 5 ∨ p 1 = 10 ∨ p 1 = 20)
    ∧ RangedAt 1 bs 2 (p 2 ≤ 4095) ∧ RangedAt 1 bs 3 (p 3 ≤ 4095) ∧ RangedAt 1 bs 4 (p 4 ≤ 4095)
    ∧ RangedAt 1 bs 5 (p 5 ≤ 1023) ∧ RangedAt 1 bs 6 (p 6 ≤ 1023) ∧ RangedAt 1 bs 7 (p 7 ≤ 1023) ∧ RangedAt 1 bs 8 (p 8 ≤ 255)
    ∧ RangedAt 1 bs 9 (1 ≤ p 9 ∧ p 9 ≤ 1023) ∧ RangedAt 1 bs 10 (p 10 ≤ 1023)
    ∧ CheckedAt 1 bs 11 (p 11 ≤ 4095) (p 10 < p 11) .inconsistent ∧ CheckedAt 1 bs 12 (p 12 ≤ 4095) (p 11 ≤ p 12) .notMonotonic
    ∧ CheckedAt 1 bs 13 (p 13 ≤ 4095) (p 12 ≤ p 13) .notMonotonic
    ∧ RangedAt 1 bs 14 (p 14 ≤ 3) ∧ RangedAt 1 bs 15 (p 15 ≤ 63) ∧ RangedAt 1 bs 16 (p 16 ≤ 1)
    ∧ RangedAt 1 bs 17 (100 ≤ p 17 ∧ p 17 ≤ 1000 ∧ p 17 % 50 = 0) ∧ RangedAt 1 bs 18 (500 ≤ p 18 ∧ p 18 ≤ 8000 ∧ p 18 % 100 = 0)
    ∧ RangedAt 1 bs 19 (p 19 ≤ 1) ∧ CheckedAt 1 bs 20 (600 ≤ p 20 ∧ p 20 ≤ 8100 ∧ p 20 % 100 = 0) (p 18 < p 20) .inconsistent
    ∧ RangedAt 1 bs 21 (1 ≤ p 21 ∧ p 21 ≤ 255) ∧ RangedAt 1 bs 22 (p 22 ≤ 1) ∧ RangedAt 1 bs 23 (p 23 ≤ 1023)
    ∧ RangedAt 1 bs 24 (1 ≤ p 24 ∧ p 24 ≤ 32) ∧ RangedAt 1 bs 25 (p 25 ≤ 90) := by
  intro p
  refine ⟨.of rfl ?_, .of rfl ?_, .of rfl ?_, .of rfl ?_, .of rfl ?_, .of rfl ?_, .of rfl ?_, .of rfl ?_, .of rfl ?_, .of rfl ?_,
    .of rfl ?_, .of rfl ?_ ?_, .of rfl ?_ ?_, .of rfl ?_ ?_, .of rfl ?_, .of rfl ?_, .of rfl ?_, .of rfl ?_, .of rfl ?_, .of rfl ?_,
    .of rfl ?_ ?_, .of rfl ?_, .of rfl ?_, .of rfl ?_, .of rfl ?_, .of rfl ?_⟩
  all_goals simp [p, and_assoc, or_assoc]

end Sys2Proof.Machine
end

section
/-!
PROOF. What each index of the other configuration groups checks (O21).
-/
set_option Elab.async false

namespace Sys2Proof.Machine

/-! ### The check at an index of a block -/

theorem flatMap_range_length {α : Type} {f : Nat → List α} {c : Nat} (hc : ∀ k, (f k).length = c) (N : Nat) :
    ((List.range N).flatMap f).length = c * N := by
  induction N with
  | zero => rfl
  | succ N ih => rw [List.range_succ, List.flatMap_append, List.length_append, ih, List.flatMap_singleton, hc, Nat.mul_succ]

/-- Place `j` of block `k` of a list of blocks of one length. -/
theorem getElem?_flatMap_range {α : Type} {f : Nat → List α} {c N k j : Nat} (hc : ∀ k, (f k).length = c) (hk : k < N) (hj : j < c) :
    ((List.range N).flatMap f)[c * k + j]? = (f k)[j]? := by
  induction N with
  | zero => omega
  | succ N ih =>
    rw [List.range_succ, List.flatMap_append, List.flatMap_singleton]
    by_cases h : k < N
    · have bound : c * k + j < c * N := by
        have := Nat.mul_le_mul_left c (show k + 1 ≤ N from h)
        rw [Nat.mul_succ] at this
        omega
      rw [List.getElem?_append_left (by rw [flatMap_range_length hc]; exact bound), ih h]
    · obtain rfl : k = N := by omega
      rw [List.getElem?_append_right (by rw [flatMap_range_length hc]; omega), flatMap_range_length hc, Nat.add_sub_cancel_left]

/-- The same behind a list of other checks. -/
theorem getElem?_blocks {α : Type} {f : Nat → List α} {c N k j : Nat} {l pre post : List α}
    (hl : l = pre ++ (List.range N).flatMap f ++ post) (hc : ∀ k, (f k).length = c) (hk : k < N) (hj : j < c) :
    l[pre.length + c * k + j]? = (f k)[j]? := by
  have bound : c * k + j < ((List.range N).flatMap f).length := by
    rw [flatMap_range_length hc]
    have := Nat.mul_le_mul_left c (show k + 1 ≤ N from hk)
    rw [Nat.mul_succ] at this
    omega
  rw [hl, List.append_assoc, List.getElem?_append_right (by omega), show pre.length + c * k + j - pre.length = c * k + j by omega,
    List.getElem?_append_left bound, getElem?_flatMap_range hc hk hj]

/-! ### CURVE (R27) -/

theorem curveChecks_at (bs : List Byte) :
    let p := fun i => halfAt bs (2 * i)
    RangedAt 2 bs 0 (p 0 ≤ 4095) ∧ ∀ k < 10, CheckedAt 2 bs (k + 1) (p (k + 1) ≤ 4095) (p k ≤ p (k + 1)) .notMonotonic := by
  intro p
  have point : ∀ k < 11, (groupChecks 2 bs)[k]? = some (curveCheck bs k) := fun k hk => by
    show ((List.range 11).map (curveCheck bs))[k]? = _
    rw [List.getElem?_map, List.getElem?_range hk]
    rfl
  refine ⟨?_, fun k hk => .of (point (k + 1) (by omega)) (by simp [p]) (by simp [p])⟩
  obtain ⟨v, hv, range, -, passes⟩ := CheckedAt.of (point 0 (by omega)) (P := p 0 ≤ 4095) (Q := True) (by simp [p]) (by simp)
  exact ⟨v, hv, range, fun _ h => absurd trivial h, passes⟩

/-! ### CHUFF and POWER (R96, R179) -/

theorem chuffChecks_at (bs : List Byte) :
    let p := fun i => halfAt bs (2 * i)
    RangedAt 5 bs 0 (p 0 ≤ 2) ∧ RangedAt 5 bs 1 (2 ≤ p 1 ∧ p 1 ≤ 15) ∧ RangedAt 5 bs 2 (p 2 ≤ 2)
    ∧ RangedAt 5 bs 3 (1 ≤ p 3 ∧ p 3 ≤ 16) ∧ RangedAt 5 bs 4 (p 4 ≤ 1023) ∧ RangedAt 5 bs 5 (100 ≤ p 5 ∧ p 5 ≤ 5000)
    ∧ RangedAt 5 bs 6 (1 ≤ p 6 ∧ p 6 ≤ 4095) ∧ RangedAt 5 bs 7 (p 7 = 2 ∨ p 7 = 4 ∨ p 7 = 6 ∨ p 7 = 8) := by
  intro p
  refine ⟨.of rfl ?_, .of rfl ?_, .of rfl ?_, .of rfl ?_, .of rfl ?_, .of rfl ?_, .of rfl ?_, .of rfl ?_⟩
  all_goals simp [p, or_assoc]

theorem powerChecks_at (bs : List Byte) :
    let p := fun i => halfAt bs (2 * i)
    RangedAt 9 bs 0 (1000 ≤ p 0 ∧ p 0 ≤ 31500) ∧ CheckedAt 9 bs 1 (1000 ≤ p 1 ∧ p 1 ≤ 32000) (p 1 < p 0) .inconsistent
    ∧ CheckedAt 9 bs 2 (1000 ≤ p 2 ∧ p 2 ≤ 32000) (p 1 < p 2) .inconsistent ∧ RangedAt 9 bs 3 (2 ≤ p 3 ∧ p 3 ≤ 32)
    ∧ RangedAt 9 bs 4 (p 4 ≤ 5000) ∧ RangedAt 9 bs 5 (p 5 ≤ 32000) ∧ RangedAt 9 bs 6 (p 6 ≤ 1023)
    ∧ RangedAt 9 bs 7 (p 7 ≤ 255) ∧ RangedAt 9 bs 8 (p 8 ≤ 255) ∧ RangedAt 9 bs 9 (p 9 ≤ 255)
    ∧ RangedAt 9 bs 10 (p 10 ≤ 20000) ∧ RangedAt 9 bs 11 (p 11 ≤ 20000) ∧ RangedAt 9 bs 12 (100 ≤ p 12 ∧ p 12 ≤ 10000) := by
  intro p
  refine ⟨.of rfl ?_, .of rfl ?_ ?_, .of rfl ?_ ?_, .of rfl ?_, .of rfl ?_, .of rfl ?_, .of rfl ?_, .of rfl ?_, .of rfl ?_, .of rfl ?_,
    .of rfl ?_, .of rfl ?_, .of rfl ?_⟩
  all_goals simp [p]

/-! ### FUNCTIONS (R38) -/

theorem targetOf_isSome (code : Nat) : (targetOf code).isSome = true ↔ (1 ≤ code ∧ code ≤ 4) ∨ (0x10 ≤ code ∧ code ≤ 0x1F) := by
  unfold targetOf
  repeat' split
  rotate_left 5
  · exact iff_of_false Bool.false_ne_true (by omega)
  all_goals exact iff_of_true rfl (by omega)

theorem functionsChecks_at (bs : List Byte) (n : Nat) (hn : n < 32) :
    RangedAt 3 bs (5 * n) (byteAt bs (8 * n) ≤ 4) ∧ ∀ j < 4,
      let code := byteAt bs (8 * n + 1 + j)
      RangedAt 3 bs (5 * n + 1 + j) (j < byteAt bs (8 * n) → (1 ≤ code ∧ code ≤ 4) ∨ (0x10 ≤ code ∧ code ≤ 0x1F)) := by
  have at_ : ∀ j < 5, (groupChecks 3 bs)[5 * n + j]? = (functionChecks bs n)[j]? := fun j hj =>
    getElem?_flatMap_range (fun k => rfl) hn hj
  refine ⟨.of ((at_ 0 (by omega)).trans rfl) (by simp), fun j hj => ?_⟩
  intro code
  have place : (groupChecks 3 bs)[5 * n + 1 + j]? = some (5 * n + 1 + j, inRange (byteAt bs (8 * n) ≤ j || (targetOf code).isSome)) := by
    rw [show 5 * n + 1 + j = 5 * n + (j + 1) by omega, at_ (j + 1) (by omega)]
    show ((List.range 4).map _)[j]? = _
    rw [List.getElem?_map, List.getElem?_range hj, show 5 * n + (j + 1) = 5 * n + 1 + j by omega]
    rfl
  refine .of place ?_
  rw [Bool.or_eq_true, targetOf_isSome, decide_eq_true_eq]
  omega

/-! ### SOUND (R117) -/

theorem clipField_iff (n : Nat) : clipField n = true ↔ n ≤ 127 ∨ n = 255 := by
  simp [clipField]

theorem soundChecks_at (bs : List Byte) :
    let b := fun i => byteAt bs i
    let p := fun i => halfAt bs (2 * i)
    let clip := fun x : Nat => x ≤ 127 ∨ x = 255
    RangedAt 4 bs 0 True ∧ RangedAt 4 bs 1 (clip (b 1)) ∧ RangedAt 4 bs 2 True ∧ RangedAt 4 bs 3 (clip (b 3))
    ∧ RangedAt 4 bs 4 (1 ≤ b 4 ∧ b 4 ≤ 7) ∧ RangedAt 4 bs 5 True ∧ RangedAt 4 bs 6 (p 3 ≤ 4095)
    ∧ CheckedAt 4 bs 7 (p 4 ≤ 4095) (p 3 ≤ p 4) .inconsistent
    ∧ (∀ k < 16, RangedAt 4 bs (8 + 4 * k) (clip (b (0x10 + 4 * k)))
        ∧ RangedAt 4 bs (9 + 4 * k) (1 ≤ b (0x11 + 4 * k) ∧ b (0x11 + 4 * k) ≤ 7) ∧ RangedAt 4 bs (10 + 4 * k) True
        ∧ RangedAt 4 bs (11 + 4 * k) (b (0x13 + 4 * k) ≤ 1))
    ∧ (∀ k < 8, RangedAt 4 bs (72 + k) True)
    ∧ ∀ j < 12, RangedAt 4 bs (80 + 9 * j) (b (0x60 + 16 * j) ≤ 8)
        ∧ ∀ i < 8, RangedAt 4 bs (81 + 9 * j + i) (i < b (0x60 + 16 * j) → b (0x61 + 16 * j + i) ≤ 127) := by
  intro b p clip
  have front : ((soundChecks bs).take 8 ++ (List.range 16).flatMap (keyChecks bs)).length = 72 := by
    rw [List.length_append, flatMap_range_length (c := 4) (fun _ => rfl)]
    rfl
  have keys : ∀ k < 16, ∀ j < 4, (groupChecks 4 bs)[8 + 4 * k + j]? = (keyChecks bs k)[j]? := fun k hk j hj =>
    getElem?_blocks (N := 16) (pre := (soundChecks bs).take 8) (List.append_assoc _ _ _) (fun _ => rfl) hk hj
  have volumes : ∀ k < 8, (groupChecks 4 bs)[72 + k]? = some (72 + k, none) := fun k hk => by
    have cut : groupChecks 4 bs = ((soundChecks bs).take 8 ++ (List.range 16).flatMap (keyChecks bs))
        ++ ((List.range 8).map (fun b => ((72 + b, none) : Check)) ++ (List.range 12).flatMap (setChecks bs)) := List.append_assoc _ _ _
    rw [cut, List.getElem?_append_right (by omega), front, Nat.add_sub_cancel_left, List.getElem?_append_left (by simpa using hk),
      List.getElem?_map, List.getElem?_range hk]
    rfl
  have sets : ∀ k < 12, ∀ j < 9, (groupChecks 4 bs)[80 + 9 * k + j]? = (setChecks bs k)[j]? := fun k hk j hj => by
    have block := getElem?_blocks (N := 12) (pre := ((soundChecks bs).take 8 ++ (List.range 16).flatMap (keyChecks bs))
      ++ (List.range 8).map (fun b => ((72 + b, none) : Check))) (post := []) (l := soundChecks bs) (List.append_nil _).symm
      (fun _ => rfl) hk hj
    rw [List.length_append, front] at block
    exact block
  refine ⟨.always rfl, .of rfl (clipField_iff _), .always rfl, .of rfl (clipField_iff _), .of rfl (by simp [b]), .always rfl,
    .of rfl (by simp [p]), .of rfl (by simp [p]) (by simp [p]), fun k hk => ⟨?_, ?_, ?_, ?_⟩, fun k hk => .always (volumes k hk),
    fun j hj => ⟨?_, fun i hi => ?_⟩⟩
  · exact .of (keys k hk 0 (by omega)) (clipField_iff _)
  · exact .of (((congrArg _ (by omega)).trans (keys k hk 1 (by omega))).trans rfl) (by simp [b])
  · exact .always (((congrArg _ (by omega)).trans (keys k hk 2 (by omega))).trans rfl)
  · exact .of (((congrArg _ (by omega)).trans (keys k hk 3 (by omega))).trans rfl) (by simp [b])
  · exact .of (sets j hj 0 (by omega)) (by simp [b])
  · have place : (groupChecks 4 bs)[81 + 9 * j + i]?
        = some (81 + 9 * j + i, inRange (byteAt bs (0x60 + 16 * j) ≤ i || byteAt bs (0x61 + 16 * j + i) ≤ 127)) := by
      rw [show 81 + 9 * j + i = 80 + 9 * j + (i + 1) by omega, sets j hj (i + 1) (by omega)]
      show ((List.range 8).map _)[i]? = _
      rw [List.getElem?_map, List.getElem?_range hi, show 80 + 9 * j + (i + 1) = 81 + 9 * j + i by omega]
      rfl
    refine .of place ?_
    rw [Bool.or_eq_true, decide_eq_true_eq, decide_eq_true_eq]
    show b (0x60 + 16 * j) ≤ i ∨ b (0x61 + 16 * j + i) ≤ 127 ↔ _
    omega

end Sys2Proof.Machine
end

section
/-!
PROOF. What each index of SMOKE, LIGHTS and RADIO checks, and O21 (R145, R148, R149, R171).
-/
set_option Elab.async false

namespace Sys2Proof.Machine

/-! ### SMOKE (R145) -/

/-- A signed field by its high byte's sign. -/
theorem signedHalfAt_eq (bs : List Byte) (i : Nat) : signedHalfAt bs i
    = if byteAt bs (i + 1) < 128 then ((byteAt bs i + 256 * byteAt bs (i + 1) : Nat) : Int)
      else (byteAt bs i + 256 * byteAt bs (i + 1) : Nat) - 65536 := by
  have low := (bs.getD i 0).isLt
  have sign : halfAt bs i < 32768 ↔ byteAt bs (i + 1) < 128 := by
    unfold halfAt byteAt
    omega
  unfold signedHalfAt
  simp only [sign]
  rfl

theorem within_iff (x lo hi : Int) : within x lo hi = true ↔ lo ≤ x ∧ x ≤ hi := by
  simp [within]

theorem smokeChecks_at (bs : List Byte) :
    let p := fun i => halfAt bs (2 * i)
    RangedAt 6 bs 0 (p 0 ≤ 1) ∧ RangedAt 6 bs 1 (p 1 ≤ 300) ∧ CheckedAt 6 bs 2 (50 ≤ p 2 ∧ p 2 ≤ 350) (p 1 < p 2) .inconsistent
    ∧ CheckedAt 6 bs 3 (50 ≤ p 3 ∧ p 3 ≤ 350) (p 2 ≤ p 3) .inconsistent
    ∧ CheckedAt 6 bs 4 (60 ≤ p 4 ∧ p 4 ≤ 400) (p 3 < p 4) .inconsistent ∧ RangedAt 6 bs 5 (1 ≤ p 5 ∧ p 5 ≤ 255)
    ∧ RangedAt 6 bs 6 (1 ≤ p 6) ∧ RangedAt 6 bs 7 (p 7 ≤ 255) ∧ RangedAt 6 bs 8 (p 8 ≤ 255)
    ∧ RangedAt 6 bs 9 (20 ≤ p 9 ∧ p 9 ≤ 2000) ∧ RangedAt 6 bs 10 (p 10 ≤ 255)
    ∧ RangedAt 6 bs 11 (-32 ≤ signedHalfAt bs 0x16 ∧ signedHalfAt bs 0x16 ≤ 32)
    ∧ RangedAt 6 bs 12 (p 12 ≤ 1023) ∧ RangedAt 6 bs 13 (-40 ≤ signedHalfAt bs 0x1A ∧ signedHalfAt bs 0x1A ≤ 400)
    ∧ ∀ i < 15, CheckedAt 6 bs (14 + 2 * i) (p (14 + 2 * i) ≤ 1023) (p (14 + 2 * i) < p (12 + 2 * i)) .notMonotonic
        ∧ CheckedAt 6 bs (15 + 2 * i) (-40 ≤ signedHalfAt bs (0x1E + 4 * i) ∧ signedHalfAt bs (0x1E + 4 * i) ≤ 400)
          (signedHalfAt bs (0x1A + 4 * i) < signedHalfAt bs (0x1E + 4 * i)) .notMonotonic := by
  intro p
  have points : ∀ k < 16, ∀ j < 2, (groupChecks 6 bs)[12 + 2 * k + j]? = (pointChecks bs k)[j]? := fun k hk j hj =>
    getElem?_blocks (N := 16) (pre := (smokeChecks bs).take 12) (post := []) (l := smokeChecks bs) (List.append_nil _).symm
      (fun _ => rfl) hk hj
  have first : ∀ {i : Nat} {P : Prop} {r : GroupReason}, CheckedAt 6 bs i P True r → RangedAt 6 bs i P :=
    fun ⟨v, hv, range, _, passes⟩ => ⟨v, hv, range, fun _ h => absurd trivial h, passes⟩
  have codes : ∀ i, thermCode bs i = p (12 + 2 * i) := fun i => congrArg (halfAt bs) (by omega)
  have temps : ∀ i, thermTemp bs i = signedHalfAt bs (0x1A + 4 * i) := fun _ => rfl
  have code0 : RangedAt 6 bs 12 (p 12 ≤ 1023) := first (.of (points 0 (by omega) 0 (by omega)) (by simp [codes]) (by simp))
  have temp0 : RangedAt 6 bs 13 (-40 ≤ signedHalfAt bs 0x1A ∧ signedHalfAt bs 0x1A ≤ 400) :=
    first (.of (points 0 (by omega) 1 (by omega)) (within_iff _ _ _) (by simp))
  have falls : ∀ i < 15, CheckedAt 6 bs (14 + 2 * i) (p (14 + 2 * i) ≤ 1023) (p (14 + 2 * i) < p (12 + 2 * i)) .notMonotonic := by
    intro i hi
    have place : (groupChecks 6 bs)[14 + 2 * i]? = some (14 + 2 * i, rangeThen (thermCode bs (i + 1) ≤ 1023)
        (i + 1 == 0 || thermCode bs (i + 1) < thermCode bs (i + 1 - 1)) .notMonotonic) := by
      rw [show 14 + 2 * i = 12 + 2 * (i + 1) + 0 by omega, points (i + 1) (by omega) 0 (by omega)]
      rfl
    refine .of place ?_ ?_
    · rw [decide_eq_true_eq, codes, show 12 + 2 * (i + 1) = 14 + 2 * i by omega]
    · rw [Nat.add_sub_cancel, codes, codes, show 12 + 2 * (i + 1) = 14 + 2 * i by omega]
      simp
  have rises : ∀ i < 15, CheckedAt 6 bs (15 + 2 * i) (-40 ≤ signedHalfAt bs (0x1E + 4 * i) ∧ signedHalfAt bs (0x1E + 4 * i) ≤ 400)
      (signedHalfAt bs (0x1A + 4 * i) < signedHalfAt bs (0x1E + 4 * i)) .notMonotonic := by
    intro i hi
    have place : (groupChecks 6 bs)[15 + 2 * i]? = some (15 + 2 * i, rangeThen (within (thermTemp bs (i + 1)) (-40) 400)
        (i + 1 == 0 || thermTemp bs (i + 1 - 1) < thermTemp bs (i + 1)) .notMonotonic) := by
      rw [show 15 + 2 * i = 12 + 2 * (i + 1) + 1 by omega, points (i + 1) (by omega) 1 (by omega),
        show 12 + 2 * (i + 1) + 1 = 13 + 2 * (i + 1) by omega]
      rfl
    refine .of place ?_ ?_
    · rw [within_iff, temps, show 0x1A + 4 * (i + 1) = 0x1E + 4 * i by omega]
    · rw [Nat.add_sub_cancel, temps, temps, show 0x1A + 4 * (i + 1) = 0x1E + 4 * i by omega]
      simp
  refine ⟨.of rfl ?_, .of rfl ?_, .of rfl ?_ ?_, .of rfl ?_ ?_, .of rfl ?_ ?_, .of rfl ?_, .of rfl ?_, .of rfl ?_, .of rfl ?_,
    .of rfl ?_, .of rfl ?_, .of rfl (within_iff _ _ _), code0, temp0, fun i hi => ⟨falls i hi, rises i hi⟩⟩
  all_goals simp [p]

/-! ### RADIO (R171) -/

theorem radioChecks_at (bs : List Byte) :
    let p := fun i => halfAt bs (2 * i)
    RangedAt 8 bs 0 (1 ≤ p 0 ∧ p 0 ≤ 4095) ∧ RangedAt 8 bs 1 (p 1 ≤ 255) ∧ RangedAt 8 bs 2 (p 2 ≤ 1) ∧ RangedAt 8 bs 3 (p 3 ≤ 1)
    ∧ RangedAt 8 bs 4 (200 ≤ p 4 ∧ p 4 ≤ 10000 ∧ p 4 % 100 = 0)
    ∧ ∀ j < 4, CheckedAt 8 bs (5 + 2 * j) (p (5 + 2 * j) ≤ 65534)
          (p (5 + 2 * j) ≠ 0 → ∀ i < j, p (5 + 2 * i) ≠ p (5 + 2 * j)) .duplicate
        ∧ RangedAt 8 bs (6 + 2 * j) (p (5 + 2 * j) ≠ 0 → p (6 + 2 * j) ≤ 2) := by
  intro p
  have ids : ∀ j, bindId bs j = p (5 + 2 * j) := fun j => congrArg (halfAt bs) (by omega)
  have rights : ∀ j, bindRights bs j = p (6 + 2 * j) := fun j => congrArg (halfAt bs) (by omega)
  have entries : ∀ k < 4, ∀ j < 2, (groupChecks 8 bs)[5 + 2 * k + j]? = (bindChecks bs k)[j]? := fun k hk j hj =>
    getElem?_blocks (N := 4) (pre := (radioChecks bs).take 5) (post := []) (l := radioChecks bs) (List.append_nil _).symm
      (fun _ => rfl) hk hj
  refine ⟨.of rfl ?_, .of rfl ?_, .of rfl ?_, .of rfl ?_, .of rfl ?_, fun j hj => ⟨.of (entries j hj 0 (by omega)) ?_ ?_, ?_⟩⟩
  case refine_6 => rw [decide_eq_true_eq, ids]
  case refine_7 =>
    simp only [ids, Bool.or_eq_true, beq_iff_eq, List.all_eq_true, List.mem_range, bne_iff_ne]
    exact Decidable.or_iff_not_imp_left
  case refine_8 =>
    have place : (groupChecks 8 bs)[6 + 2 * j]? = some (6 + 2 * j, inRange (bindId bs j == 0 || bindRights bs j ≤ 2)) := by
      rw [show 6 + 2 * j = 5 + 2 * j + 1 by omega, entries j hj 1 (by omega), show 5 + 2 * j + 1 = 6 + 2 * j by omega]
      rfl
    refine .of place ?_
    rw [ids, rights, Bool.or_eq_true, beq_iff_eq, decide_eq_true_eq]
    exact Decidable.or_iff_not_imp_left
  all_goals simp [p, and_assoc]

/-! ### LIGHTS (R148, R149) -/

theorem functionField_iff (n : Nat) : functionField n = true ↔ n ≤ 31 ∨ n = 255 := by
  simp [functionField]

theorem programChecks_at (bs : List Byte) {k : Nat} (hk : k < 8) : ∀ j < 9, (groupChecks 7 bs)[9 * k + j]? = (programChecks bs k)[j]? :=
  fun _ hj => getElem?_flatMap_range (fun _ => rfl) hk hj

/-- R149's four steps for an ALTERNATE output. -/
theorem pairingOk_iff (bs : List Byte) (k : Nat) :
    let x := lightByte bs k 7
    pairingOk bs k = true ↔ x ≠ k ∧ (k < x → lightByte bs x 3 = 2)
      ∧ (∀ j < k, lightByte bs j 3 = 2 → lightByte bs j 7 = k → j = x) ∧ (x < k → lightByte bs x 3 = 2 ∧ lightByte bs x 7 = k) := by
  intro x
  have later : (decide (x ≤ k) || isAlternate bs x) = true ↔ (k < x → lightByte bs x 3 = 2) := by
    rw [Bool.or_eq_true, decide_eq_true_eq, isAlternate, beq_iff_eq, alternateCode]
    omega
  have earlier : (decide (k ≤ x) || (isAlternate bs x && lightByte bs x 7 == k)) = true
      ↔ (x < k → lightByte bs x 3 = 2 ∧ lightByte bs x 7 = k) := by
    rw [Bool.or_eq_true, Bool.and_eq_true, decide_eq_true_eq, isAlternate, beq_iff_eq, beq_iff_eq, alternateCode]
    omega
  have claimed : ((List.range k).all fun j => !(isAlternate bs j && lightByte bs j 7 == k) || j == x) = true
      ↔ ∀ j < k, lightByte bs j 3 = 2 → lightByte bs j 7 = k → j = x := by
    simp only [List.all_eq_true, List.mem_range, isAlternate, alternateCode]
    refine forall₂_congr fun j hj => ?_
    by_cases h3 : lightByte bs j 3 = 2 <;> by_cases h7 : lightByte bs j 7 = k <;> simp [h3, h7]
  show (x != k && (decide (x ≤ k) || isAlternate bs x) && ((List.range k).all fun j => !(isAlternate bs j && lightByte bs j 7 == k) || j == x)
    && (decide (k ≤ x) || (isAlternate bs x && lightByte bs x 7 == k))) = true ↔ _
  rw [Bool.and_eq_true, Bool.and_eq_true, Bool.and_eq_true, later, earlier, claimed, bne_iff_ne, and_assoc, and_assoc]

/-- What a check of a range and a relation comes to. -/
theorem rangeThen_spec {ok rel : Bool} {P Q : Prop} {r : GroupReason} (hp : ok = true ↔ P) (hq : rel = true ↔ Q) :
    (¬ P → rangeThen ok rel r = some .outOfRange) ∧ (P → ¬ Q → rangeThen ok rel r = some r) ∧ (P → Q → rangeThen ok rel r = none) := by
  rw [← hp, ← hq]
  cases ok <;> cases rel <;> simp [rangeThen]

theorem inRange_then (ok : Bool) (r : GroupReason) : inRange ok = rangeThen ok true r := by
  cases ok <;> rfl

theorem none_then (r : GroupReason) : (none : Option GroupReason) = rangeThen true true r := rfl

theorem paramA_at (bs : List Byte) {k : Nat} (hk : k < 8) :
    let x := fun j => lightByte bs k j
    CheckedAt 7 bs (9 * k + 7) ((x 3 = 1 → 2 ≤ x 7) ∧ (x 3 = 2 → x 7 ≤ 7))
      ((x 3 = 2 → x 7 ≠ k ∧ (k < x 7 → lightByte bs (x 7) 3 = 2)
          ∧ (∀ j < k, lightByte bs j 3 = 2 → lightByte bs j 7 = k → j = x 7)
          ∧ (x 7 < k → lightByte bs (x 7) 3 = 2 ∧ lightByte bs (x 7) 7 = k))
        ∧ (x 3 = 3 ∨ x 3 = 5 → x 7 ≤ x 4)) .inconsistent := by
  intro x
  refine ⟨paramACheck bs k, programChecks_at bs hk 7 (by omega), ?_⟩
  have pairing := pairingOk_iff bs k
  unfold paramACheck
  dsimp only
  split
  case h_1 h => rw [inRange_then _ .inconsistent]; exact rangeThen_spec (by simp [x, h]) (by simp [x, h])
  case h_2 h => exact rangeThen_spec (by simp [x, h]) (pairing.trans (by simp [x, h]))
  case h_3 h => exact rangeThen_spec (by simp [x, h]) (by simp [x, h])
  case h_4 h => exact rangeThen_spec (by simp [x, h]) (by simp [x, h])
  case h_5 h1 h2 h3 h5 =>
    rw [none_then .inconsistent]
    exact rangeThen_spec ⟨fun _ => ⟨fun h => absurd h h1, fun h => absurd h h2⟩, fun _ => rfl⟩
      ⟨fun _ => ⟨fun h => absurd h h2, fun h => h.elim (fun h => absurd h h3) (fun h => absurd h h5)⟩, fun _ => rfl⟩

theorem paramB_at (bs : List Byte) {k : Nat} (hk : k < 8) :
    let x := fun j => lightByte bs k j
    CheckedAt 7 bs (9 * k + 8) ((x 3 = 1 → 1 ≤ x 8 ∧ x 8 ≤ 254) ∧ (x 3 = 2 → 2 ≤ x 8) ∧ (x 3 = 5 → 1 ≤ x 8))
      ((x 3 = 1 → x 8 < x 7) ∧ (x 3 = 2 → x 7 < k → lightByte bs (x 7) 8 = x 8)) .inconsistent := by
  intro x
  refine ⟨paramBCheck bs k, programChecks_at bs hk 8 (by omega), ?_⟩
  unfold paramBCheck
  dsimp only
  split
  case h_1 h => exact rangeThen_spec (by simp [x, h]) (by simp [x, h])
  case h_2 h =>
    refine rangeThen_spec (by simp [x, h]) ?_
    rw [Bool.or_eq_true, decide_eq_true_eq, beq_iff_eq]
    exact ⟨fun hc => ⟨fun h1 => absurd (h.symm.trans h1) (by decide), fun _ hlt => hc.resolve_left (Nat.not_le.mpr hlt)⟩,
      fun hc => (Nat.lt_or_ge (x 7) k).elim (fun hlt => .inr (hc.2 h hlt)) .inl⟩
  case h_3 h => rw [inRange_then _ .inconsistent]; exact rangeThen_spec (by simp [x, h]) (by simp [x, h])
  case h_4 h1 h2 h5 =>
    rw [none_then .inconsistent]
    exact rangeThen_spec ⟨fun _ => ⟨fun h => absurd h h1, fun h => absurd h h2, fun h => absurd h h5⟩, fun _ => rfl⟩
      ⟨fun _ => ⟨fun h => absurd h h1, fun h => absurd h h2⟩, fun _ => rfl⟩

/-- In a LIGHTS group that passes, ALTERNATE outputs pair up and share one period (R149). -/
theorem alternate_paired {bs : List Byte} (hv : ∀ c ∈ groupChecks 7 bs, c.2 = none) {k : Nat} (hk : k < 8) (h : lightByte bs k 3 = 2) :
    let x := lightByte bs k 7
    x ≤ 7 ∧ x ≠ k ∧ lightByte bs x 3 = 2 ∧ lightByte bs x 7 = k ∧ lightByte bs x 8 = lightByte bs k 8 := by
  intro x
  obtain ⟨⟨-, hx⟩, hrel, -⟩ := (paramA_at bs hk).holds hv
  obtain ⟨other, later, -, earlier⟩ := hrel h
  obtain ⟨-, -, period⟩ := (paramB_at bs hk).holds hv
  have hx : x ≤ 7 := hx h
  rcases Nat.lt_or_gt_of_ne other with hlt | hgt
  · obtain ⟨effect, back⟩ := earlier hlt
    exact ⟨hx, other, effect, back, period h hlt⟩
  · have effect : lightByte bs x 3 = 2 := later hgt
    obtain ⟨-, prel, -⟩ := (paramA_at bs (show x < 8 by omega)).holds hv
    obtain ⟨-, -, claimed, -⟩ := prel effect
    have back : lightByte bs x 7 = k := (claimed k hgt h rfl).symm
    obtain ⟨-, -, pperiod⟩ := (paramB_at bs (show x < 8 by omega)).holds hv
    have same : lightByte bs (lightByte bs x 7) 8 = lightByte bs x 8 := pperiod effect (Nat.lt_of_le_of_lt (Nat.le_of_eq back) hgt)
    rw [back] at same
    exact ⟨hx, other, effect, back, same.symm⟩

theorem lightsChecks_at (bs : List Byte) {k : Nat} (hk : k < 8) :
    let x := fun j => lightByte bs k j
    let function := fun n : Nat => n ≤ 31 ∨ n = 255
    RangedAt 7 bs (9 * k) (function (x 0)) ∧ RangedAt 7 bs (9 * k + 1) (x 1 ≤ 2) ∧ RangedAt 7 bs (9 * k + 2) (x 2 ≤ 2)
    ∧ RangedAt 7 bs (9 * k + 3) (x 3 ≤ 5) ∧ RangedAt 7 bs (9 * k + 4) True ∧ RangedAt 7 bs (9 * k + 5) (function (x 5))
    ∧ RangedAt 7 bs (9 * k + 6) True := by
  intro x function
  have at_ := programChecks_at bs hk
  exact ⟨.of (at_ 0 (by omega)) (functionField_iff _), .of (at_ 1 (by omega)) decide_eq_true_iff, .of (at_ 2 (by omega)) decide_eq_true_iff,
    .of (at_ 3 (by omega)) decide_eq_true_iff, .always (at_ 4 (by omega)), .of (at_ 5 (by omega)) (functionField_iff _),
    .always (at_ 6 (by omega))⟩

/-- Settles O21: the first failing check refuses the group, and what each index of each group checks. (The name `groupChecks` is the
model's.) -/
theorem groupChecksHold : Obligations.GroupChecks := by
  unfold Obligations.GroupChecks
  refine ⟨fun n bs g => ⟨fun h => ?_, fun before index reason after e h => ?_, groupChecks_indexes n bs⟩, ?_⟩
  · rw [validateGroup, verdictOf, firstFail_none h]
  · rw [validateGroup, verdictOf, e, firstFail_some h]
  · intro bs b p signed clip function
    have signs : ∀ i, signed i = signedHalfAt bs i := fun i => (signedHalfAt_eq bs i).symm
    refine ⟨tractionChecks_at bs, curveChecks_at bs, functionsChecks_at bs, soundChecks_at bs, chuffChecks_at bs, ?_, fun k hk => ?_,
      radioChecks_at bs, powerChecks_at bs⟩
    · simp only [signs]
      exact smokeChecks_at bs
    · intro x pair
      obtain ⟨c0, c1, c2, c3, c4, c5, c6⟩ := lightsChecks_at bs hk
      exact ⟨c0, c1, c2, c3, c4, c5, c6, paramA_at bs hk, paramB_at bs hk, fun hv h => alternate_paired hv hk h⟩

end Sys2Proof.Machine
end

section
/-!
PROOF. The values that a valid configuration group makes active (O22): what TRACTION, FUNCTIONS and SOUND read their fields
with (R38, R67, R117).
-/
set_option Elab.async false

namespace Sys2Proof.Machine

/-- An item of a list that a range gives. -/
theorem getD_map_range {α : Type} (f : Nat → α) {N k : Nat} (h : k < N) (d : α) : ((List.range N).map f).getD k d = f k := by
  rw [List.getD_eq_getElem?_getD, List.getElem?_map, List.getElem?_range h]
  rfl

/-! ### TRACTION -/

theorem offStyleOf_spec (n : Nat) : (n = 0 → offStyleOf n = .coast) ∧ (n = 1 → offStyleOf n = .brake) := by
  refine ⟨?_, ?_⟩ <;> rintro rfl <;> rfl

/-! ### FUNCTIONS -/

/-- The code of a target (R38). -/
def Target.code (x : Target) : Nat :=
  match x with
  | .smoke => 1
  | .shunt => 2
  | .momentumOff => 3
  | .mute => 4
  | .soundKey k => 0x10 + k

/-- The target that a code stands for, read without R38's range of key numbers. -/
def Target.ofCode (n : Nat) : Target :=
  match n with
  | 1 => .smoke
  | 2 => .shunt
  | 3 => .momentumOff
  | 4 => .mute
  | n => .soundKey (n - 0x10)

theorem Target.ofCode_code (x : Target) : Target.ofCode x.code = x := by
  cases x with
  | smoke => rfl
  | shunt => rfl
  | momentumOff => rfl
  | mute => rfl
  | soundKey k =>
    show Target.ofCode (0x10 + k) = .soundKey k
    rw [Nat.add_comm]
    rfl

theorem Target.code_injective : Function.Injective Target.code := Function.LeftInverse.injective Target.ofCode_code

theorem Target.code_of {n : Nat} {x : Target} (h : targetOf n = some x) : x.code = n := by
  unfold targetOf at h
  repeat' split at h
  case isFalse => cases h
  all_goals
    obtain rfl := Option.some.inj h
    simp only [Target.code]
    omega

/-- Repeated items fall out alike before and after an injective function. -/
theorem eraseDups_map_of_injective {α β : Type} [DecidableEq α] [DecidableEq β] {f : α → β} (hf : Function.Injective f) (l : List α) :
    (l.map f).eraseDups = l.eraseDups.map f := by
  match l with
  | [] => rfl
  | a :: as =>
    have tail : (as.map f).filter (fun b => !b == f a) = (as.filter fun b => !b == a).map f := by
      rw [List.filter_map]
      congr 1
      refine List.filter_congr fun b _ => ?_
      by_cases h : b = a
      · rw [h, Function.comp_apply, beq_self_eq_true, beq_self_eq_true]
      · rw [Function.comp_apply, beq_false_of_ne h, beq_false_of_ne fun e => h (hf e)]
    have shorter : (as.filter fun b => !b == a).length < as.length + 1 := Nat.lt_succ_of_le (List.length_filter_le _ _)
    rw [List.map_cons, List.eraseDups_cons, List.eraseDups_cons, List.map_cons, tail, eraseDups_map_of_injective hf]
termination_by l.length

/-- What a list keeps of items that it reads one way, read another way. -/
theorem map_filterMap_eq {α β γ : Type} {F : α → Option β} {G : β → γ} {P : α → Bool} {H : α → γ} (l : List α)
    (hp : ∀ j ∈ l, P j = true → ∃ y, F j = some y ∧ G y = H j) (hn : ∀ j ∈ l, P j = false → F j = none) :
    (l.filterMap F).map G = (l.filter P).map H := by
  induction l with
  | nil => rfl
  | cons j l ih =>
    have rest := ih (fun i hi => hp i (List.mem_cons_of_mem _ hi)) (fun i hi => hn i (List.mem_cons_of_mem _ hi))
    cases h : P j with
    | true =>
      obtain ⟨y, hy, hg⟩ := hp j List.mem_cons_self h
      rw [List.filterMap_cons_some hy, List.filter_cons_of_pos h, List.map_cons, List.map_cons, rest, hg]
    | false => rw [List.filterMap_cons_none (hn j List.mem_cons_self h), List.filter_cons_of_neg (by simp [h]), rest]

/-- The targets of a function in a valid group, by their codes (R38). -/
theorem parseTargets_codes {bs : List Byte} (hv : ∀ c ∈ groupChecks 3 bs, c.2 = none) {f : Nat} (hf : f < 32) :
    (parseTargets bs f).map Target.code
      = ((List.range (byteAt bs (8 * f))).map fun j => byteAt bs (8 * f + 1 + j)).eraseDups := by
  obtain ⟨count, codes⟩ := functionsChecks_at bs f hf
  have count := count.holds hv
  rw [parseTargets, Nat.min_eq_right count, ← eraseDups_map_of_injective Target.code_injective]
  refine congrArg List.eraseDups ?_
  refine (map_filterMap_eq (P := fun _ => true) (H := fun j => byteAt bs (8 * f + 1 + j)) _ (fun j hj _ => ?_)
    (fun _ _ h => absurd h (by decide))).trans ?_
  · have hj := List.mem_range.mp hj
    have listed := (codes j (by omega)).holds hv hj
    obtain ⟨x, hx⟩ := Option.isSome_iff_exists.mp ((targetOf_isSome _).mpr listed)
    exact ⟨x, hx, Target.code_of hx⟩
  · exact congrArg (List.map _) (List.filter_eq_self.mpr fun _ _ => rfl)

/-! ### SOUND -/

theorem clipOf_spec (n : Nat) : (n = 255 → clipOf n = none) ∧ (n ≠ 255 → clipOf n = some n) :=
  ⟨fun h => if_pos h, fun h => if_neg h⟩

/-- A chuff set of a valid group (R117). -/
theorem parseSet_spec {bs : List Byte} (hv : ∀ c ∈ groupChecks 4 bs, c.2 = none) {j : Nat} (hj : j < 12) :
    (parseSet bs j).length = byteAt bs (0x60 + 16 * j)
    ∧ ∀ i < byteAt bs (0x60 + 16 * j), (parseSet bs j).getD i 0 = byteAt bs (0x61 + 16 * j + i) := by
  obtain ⟨-, -, -, -, -, -, -, -, -, -, sets⟩ := soundChecks_at bs
  have count : byteAt bs (0x60 + 16 * j) ≤ 8 := (sets j hj).1.holds hv
  rw [parseSet, Nat.min_eq_right count]
  exact ⟨by rw [List.length_map, List.length_range], fun i hi => getD_map_range _ hi 0⟩

end Sys2Proof.Machine
end

section
/-!
PROOF. The values that a valid configuration group makes active (O22), group by group (R27, R38, R64, R67, R96, R117, R145,
R148, R171, R179).
-/
set_option Elab.async false

namespace Sys2Proof.Machine

theorem parseTraction_spec (bs : List Byte) :
    let p := fun i => halfAt bs (2 * i)
    let t := parseTraction bs
    t = {
        motors := p 0, treg := p 1, accel := p 2, decel := p 3, emergency := p 4, kc := p 5, kff := p 6, kp := p 7, ki := p 8,
        dmax := p 9, standstill := p 10, t1 := p 11, t2 := p 12, t3 := p 13, pwmFreq := p 14, deadTime := p 15,
        offStyle := t.offStyle, settle := p 17, limit := p 18, limitOff := t.limitOff, short := p 20,
        persist := p 21, polarity := t.polarity, slipThresh := p 23, slipTicks := p 24, slipCut := p 25 }
    ∧ ((p 16 = 0 → t.offStyle = .coast) ∧ (p 16 = 1 → t.offStyle = .brake))
    ∧ ((p 19 = 0 → t.limitOff = .coast) ∧ (p 19 = 1 → t.limitOff = .brake))
    ∧ (p 22 = 0 → t.polarity = .low) ∧ (p 22 = 1 → t.polarity = .high) := by
  intro p t
  exact ⟨rfl, offStyleOf_spec _, offStyleOf_spec _, fun h => if_pos h, fun h => if_neg (fun e => absurd (h.symm.trans e) Nat.one_ne_zero)⟩

theorem parseCurve_spec (bs : List Byte) :
    (parseCurve bs).length = 11 ∧ ∀ k < 11, (parseCurve bs).getD k 0 = halfAt bs (2 * k) :=
  ⟨by rw [parseCurve, List.length_map, List.length_range], fun _ hk => getD_map_range _ hk 0⟩

theorem parseFunctions_spec {bs : List Byte} (hv : ∀ c ∈ groupChecks 3 bs, c.2 = none) :
    (parseFunctions bs).length = 32 ∧ ∀ f < 32, ((parseFunctions bs).getD f []).map Target.code
      = ((List.range (byteAt bs (8 * f))).map fun j => byteAt bs (8 * f + 1 + j)).eraseDups := by
  refine ⟨by rw [parseFunctions, List.length_map, List.length_range], fun f hf => ?_⟩
  rw [parseFunctions, getD_map_range _ hf, parseTargets_codes hv hf]

theorem parseKey_spec (bs : List Byte) (k : Nat) :
    let b := byteAt bs
    let key := parseKey bs k
    ((b (0x10 + 4 * k) = 255 → key.clip = none) ∧ (b (0x10 + 4 * k) ≠ 255 → key.clip = some (b (0x10 + 4 * k))))
    ∧ key.priority = b (0x11 + 4 * k) ∧ key.volume = b (0x12 + 4 * k)
    ∧ (b (0x13 + 4 * k) = 0 → key.mode = .oneshot) ∧ (b (0x13 + 4 * k) = 1 → key.mode = .hold) := by
  intro b key
  exact ⟨clipOf_spec _, rfl, rfl, fun h => if_pos h, fun h => if_neg (fun e => absurd (h.symm.trans e) Nat.one_ne_zero)⟩

theorem parseSound_spec {bs : List Byte} (hv : ∀ c ∈ groupChecks 4 bs, c.2 = none) :
    let b := byteAt bs
    let orNone := fun (x : Option Nat) (i : Nat) => (b i = 255 → x = none) ∧ (b i ≠ 255 → x = some (b i))
    let s := parseSound bs
    s = { s with
        master := b 0, bgVolume := b 2, sqPriority := b 4, sqVolume := b 5, sqLow := halfAt bs (2 * 3), sqHigh := halfAt bs (2 * 4) }
    ∧ orNone s.bgClip 1 ∧ orNone s.sqClip 3
    ∧ s.keys.length = 16 ∧ s.chuffVolume.length = 8 ∧ s.sets.length = 12
    ∧ (∀ k < 16, let key := s.keys.getD k {}
        orNone key.clip (0x10 + 4 * k) ∧ key.priority = b (0x11 + 4 * k) ∧ key.volume = b (0x12 + 4 * k)
        ∧ (b (0x13 + 4 * k) = 0 → key.mode = .oneshot) ∧ (b (0x13 + 4 * k) = 1 → key.mode = .hold))
    ∧ (∀ l < 8, s.chuffVolume.getD l 0 = b (0x50 + l))
    ∧ ∀ j < 12, (s.sets.getD j []).length = b (0x60 + 16 * j)
        ∧ ∀ i < b (0x60 + 16 * j), (s.sets.getD j []).getD i 0 = b (0x61 + 16 * j + i) := by
  intro b orNone s
  have keys : s.keys = (List.range 16).map (parseKey bs) := rfl
  have volumes : s.chuffVolume = (List.range 8).map fun l => b (0x50 + l) := rfl
  have sets : s.sets = (List.range 12).map (parseSet bs) := rfl
  refine ⟨rfl, clipOf_spec _, clipOf_spec _, ?_, ?_, ?_, fun k hk => ?_, fun l hl => ?_, fun j hj => ?_⟩
  · rw [keys, List.length_map, List.length_range]
  · rw [volumes, List.length_map, List.length_range]
  · rw [sets, List.length_map, List.length_range]
  · rw [keys, getD_map_range _ hk]
    exact parseKey_spec bs k
  · rw [volumes, getD_map_range _ hl]
  · rw [sets, getD_map_range _ hj]
    exact parseSet_spec hv hj

/-- A field of three values, read by two comparisons. -/
theorem threeWay_spec {α : Type} (n : Nat) (x y z : α) :
    let v := if n = 0 then x else if n = 1 then y else z
    (n = 0 → v = x) ∧ (n = 1 → v = y) ∧ (n = 2 → v = z) := by
  refine ⟨?_, ?_, ?_⟩ <;> rintro rfl <;> rfl

theorem parseChuff_spec (bs : List Byte) :
    let p := fun i => halfAt bs (2 * i)
    let c := parseChuff bs
    c = { c with qualifier := p 1, prescale := p 3, kcam := p 4, lostTime := p 5, moving := p 6, perCycle := p 7 }
    ∧ ((p 0 = 0 → c.mode = .sensor) ∧ (p 0 = 1 → c.mode = .virtual) ∧ (p 0 = 2 → c.mode = .auto))
    ∧ (p 2 = 0 → c.edge = .rising) ∧ (p 2 = 1 → c.edge = .falling) ∧ (p 2 = 2 → c.edge = .both) :=
  ⟨rfl, threeWay_spec _ _ _ _, threeWay_spec _ _ _ _⟩

theorem parseSmoke_spec (bs : List Byte) :
    let p := fun i => halfAt bs (2 * i)
    let m := parseSmoke bs
    m = { m with
        tWarm := p 1, tVapor := p 2, tSet := p 3, tMax := p 4, gain := p 5, capacity := p 6, idle := p 7, kick := p 8, puffMax := p 9,
        base := p 10, step := signedHalfAt bs 0x16 }
    ∧ (m.keepWarm = true ↔ p 0 = 1)
    ∧ m.points.length = 16 ∧ ∀ i < 16, m.points[i]? = some (p (12 + 2 * i), signedHalfAt bs (0x1A + 4 * i)) := by
  intro p m
  have points : m.points = (List.range 16).map fun i => (thermCode bs i, thermTemp bs i) := rfl
  refine ⟨rfl, beq_iff_eq, by rw [points, List.length_map, List.length_range], fun i hi => ?_⟩
  have code : thermCode bs i = p (12 + 2 * i) := congrArg (halfAt bs) (by omega)
  rw [points, List.getElem?_map, List.getElem?_range hi, Option.map_some, code]
  rfl

theorem functionOf_spec (n : Nat) : (n = 255 → functionOf n = none) ∧ (n ≠ 255 → functionOf n = some n) :=
  ⟨fun h => if_pos h, fun h => if_neg h⟩

theorem parseEffect_spec {bs : List Byte} (hv : ∀ c ∈ groupChecks 7 bs, c.2 = none) {k : Nat} (hk : k < 8) :
    let x := fun j => lightByte bs k j
    let e := parseEffect bs k
    (x 3 = 0 → e = .steady) ∧ (x 3 = 1 → e = .blink (x 7) (x 8))
    ∧ (x 3 = 2 → ∃ partner : Fin 8, partner.val = x 7 ∧ e = .alternate partner (x 8))
    ∧ (x 3 = 3 → e = .flicker (x 7)) ∧ (x 3 = 4 → e = .fade (x 7) (x 8)) ∧ (x 3 = 5 → e = .chuffFlash (x 7) (x 8)) := by
  intro x e
  have effect : ∀ {n : Nat}, x 3 = n → e = (match n with
      | 1 => .blink (x 7) (x 8)
      | 2 => .alternate (Fin.ofNat 8 (x 7)) (x 8)
      | 3 => .flicker (x 7)
      | 4 => .fade (x 7) (x 8)
      | 5 => .chuffFlash (x 7) (x 8)
      | _ => .steady) := by
    rintro n rfl
    rfl
  refine ⟨fun h => effect h, fun h => effect h, fun h => ⟨_, ?_, effect h⟩, fun h => effect h, fun h => effect h, fun h => effect h⟩
  have partner : x 7 ≤ 7 := (alternate_paired hv hk h).1
  exact Nat.mod_eq_of_lt (by omega)

theorem parseLights_spec {bs : List Byte} (hv : ∀ c ∈ groupChecks 7 bs, c.2 = none) (k : Fin 8) :
    let x := fun j => byteAt bs (16 * k.val + j)
    let q := (parseLights bs).get k
    ((byteAt bs (16 * k.val) = 255 → q.binding = none) ∧ (byteAt bs (16 * k.val) ≠ 255 → q.binding = some (byteAt bs (16 * k.val))))
    ∧ q.level = x 4 ∧ ((x 5 = 255 → q.dim = none) ∧ (x 5 ≠ 255 → q.dim = some (x 5))) ∧ q.dimLevel = x 6
    ∧ (x 1 = 0 → q.dirCond = .any) ∧ (x 1 = 1 → q.dirCond = .forward) ∧ (x 1 = 2 → q.dirCond = .reverse)
    ∧ (x 2 = 0 → q.motion = .any) ∧ (x 2 = 1 → q.motion = .standingOnly) ∧ (x 2 = 2 → q.motion = .movingOnly)
    ∧ (x 3 = 0 → q.effect = .steady) ∧ (x 3 = 1 → q.effect = .blink (x 7) (x 8))
    ∧ (x 3 = 2 → ∃ partner : Fin 8, partner.val = x 7 ∧ q.effect = .alternate partner (x 8))
    ∧ (x 3 = 3 → q.effect = .flicker (x 7)) ∧ (x 3 = 4 → q.effect = .fade (x 7) (x 8))
    ∧ (x 3 = 5 → q.effect = .chuffFlash (x 7) (x 8)) := by
  intro x q
  have program : q = parseProgram bs k.val := Octet.get_ofFn _ k
  rw [program]
  obtain ⟨any, forward, reverse⟩ := threeWay_spec (x 1) DirCond.any .forward .reverse
  obtain ⟨always, standing, moving⟩ := threeWay_spec (x 2) MotionCond.any .standingOnly .movingOnly
  exact ⟨functionOf_spec _, rfl, functionOf_spec _, rfl, any, forward, reverse, always, standing, moving, parseEffect_spec hv k.isLt⟩

/-- The number of a bind entry's rights (R171). -/
def Rights.number (r : Rights) : Nat :=
  match r with
  | .drive => 0
  | .functions => 1
  | .stopOnly => 2

theorem rightsOf_number {n : Nat} (h : n ≤ 2) : (rightsOf n).number = n := by
  match n, h with
  | 0, _ | 1, _ | 2, _ => rfl

/-- The non-empty bind entries of a valid group in their order (R171). -/
theorem parseBind_entries {bs : List Byte} (hv : ∀ c ∈ groupChecks 8 bs, c.2 = none) :
    let p := fun i => halfAt bs (2 * i)
    ((List.range 4).filterMap (parseBind bs)).map (fun x => (x.1.toNat, x.2.number))
      = ((List.range 4).filter fun j => decide (p (5 + 2 * j) ≠ 0)).map fun j => (p (5 + 2 * j), p (6 + 2 * j)) := by
  intro p
  obtain ⟨-, -, -, -, -, entries⟩ := radioChecks_at bs
  have ids : ∀ j, bindId bs j = p (5 + 2 * j) := fun j => congrArg (halfAt bs) (by omega)
  have rights : ∀ j, bindRights bs j = p (6 + 2 * j) := fun j => congrArg (halfAt bs) (by omega)
  refine map_filterMap_eq _ (fun j hj h => ?_) (fun j hj h => ?_)
  · have bound : p (5 + 2 * j) ≠ 0 := of_decide_eq_true h
    obtain ⟨entryId, entryRights⟩ := entries j (List.mem_range.mp hj)
    obtain ⟨idFits, -⟩ := entryId.holds hv
    have idFits : p (5 + 2 * j) ≤ 65534 := idFits
    have known : p (6 + 2 * j) ≤ 2 := entryRights.holds hv bound
    refine ⟨_, if_neg (by rwa [ids]), Prod.ext ?_ ?_⟩
    · show (BitVec.ofNat 16 (bindId bs j)).toNat = p (5 + 2 * j)
      rw [ids, BitVec.toNat_ofNat, Nat.mod_eq_of_lt (by omega)]
    · show (rightsOf (bindRights bs j)).number = p (6 + 2 * j)
      rw [rights, rightsOf_number known]
  · have empty : p (5 + 2 * j) = 0 := Classical.not_not.mp (of_decide_eq_false h)
    exact if_pos (by rw [ids, empty])

/-- The values of a valid RADIO group. -/
theorem parseRadio_spec {bs : List Byte} (hv : ∀ c ∈ groupChecks 8 bs, c.2 = none) :
    let p := fun i => halfAt bs (2 * i)
    let r := parseRadio bs
    r = { r with unit := p 0, group := p 1, failsafe := p 4 }
    ∧ (r.groupReverse = true ↔ p 2 = 1) ∧ (r.hostLead = true ↔ p 3 = 1)
    ∧ r.binds.map (fun x => (x.1.toNat, x.2.number))
      = ((List.range 4).filter fun j => decide (p (5 + 2 * j) ≠ 0)).map fun j => (p (5 + 2 * j), p (6 + 2 * j)) :=
  ⟨rfl, beq_iff_eq, beq_iff_eq, parseBind_entries hv⟩

/-- Settles O22: each field of each valid group lies where its chapter's table places it. -/
theorem groupValues : Obligations.GroupValues := by
  unfold Obligations.GroupValues
  intro n bs g g' _ _ h b p signed style orNone code
  obtain ⟨hv, rfl⟩ := validateGroup_passed h
  have signs : ∀ i, signed i = signedHalfAt bs i := fun i => (signedHalfAt_eq bs i).symm
  have codes : code = Target.code := rfl
  refine ⟨?_, ?_, ?_, ?_, ?_, ?_, ?_, ?_, ?_⟩ <;> rintro rfl
  case refine_1 => exact ⟨rfl, parseTraction_spec bs⟩
  case refine_2 => exact ⟨rfl, parseCurve_spec bs⟩
  case refine_3 =>
    rw [codes]
    exact ⟨rfl, parseFunctions_spec hv⟩
  case refine_4 => exact ⟨rfl, parseSound_spec hv⟩
  case refine_5 =>
    obtain ⟨fields, ⟨sensor, virtual, auto⟩, edges⟩ := parseChuff_spec bs
    exact ⟨rfl, fields, sensor, virtual, auto, edges⟩
  case refine_6 =>
    simp only [signs]
    exact ⟨rfl, parseSmoke_spec bs⟩
  case refine_7 => exact ⟨rfl, parseLights_spec hv⟩
  case refine_8 => exact ⟨rfl, parseRadio_spec hv⟩
  case refine_9 => rfl

end Sys2Proof.Machine
end
